-- ==== Sys2Proof/Word.lean ====
section
/-!
DEFINITION. The word types of the Tlasin TL-2048 (spec/00_scope.md R3, R5, R8): bytes, 32-bit code words,
64-bit register words, 64-byte records (R29, R137) and the plainest containers.
-/
namespace Sys2Proof

/-- One byte of storage. -/
abbrev Byte := BitVec 8
/-- One code word (R148). -/
abbrev Code := BitVec 32
/-- The contents of a scalar register, a lane of a vector register or a control register (R8, R207). -/
abbrev Word := BitVec 64
/-- The 256 bits of a predicate register (R180). -/
abbrev Pred := BitVec 256
/-- A 64-byte message or ring record (R29, R137), byte 0 least significant (R5). -/
abbrev Rec := BitVec 512
/-- The 128 bytes of a line of main memory (R69), byte 0 least significant. -/
abbrev Line := BitVec 1024
/-- A 128-bit Stipple key, word 0 least significant (R112). -/
abbrev Key128 := BitVec 128

/-- A sparse table: keys strictly rising, one entry a key. -/
abbrev Store (α : Type) := List (Nat × α)

/-- The memory key of a slot (R345, R352): drawn from entropy at reset, the module key, or loaded by `keyld`. -/
inductive KeyVal where
  /-- the key firmware drew for slot `o` at boot `b` (R352) -/
  | drawn (b o : Nat)
  /-- the module key of boot `b` (R345) -/
  | module (b : Nat)
  /-- the 64-byte block a `keyld` loaded (R283) -/
  | loaded (block : BitVec 512)
  deriving DecidableEq, Repr

end Sys2Proof
end

