-- ==== Sys2Proof/Syntax.lean ====
section
/-!
DEFINITION. The instructions and moves of the TL-2048: one constructor per row of spec/opcode_table.json. An encoded
row carries its guard (R13, R148) and the raw fields of its word (R150); an event row (a move of the ordering machine, of
an engine, of an agent, of the firmware or of the host, spec/95_what_each_step_holds.md) carries which unit makes it.
-/
namespace Sys2Proof

/-- The guard of a word (R13, R148): none (E = 0), `(pg)` (E = 1, N = 0) or `(!pg)` (E = 1, N = 1). -/
inductive Guard where
  | none
  | pos (g : BitVec 4)
  | neg (g : BitVec 4)
  deriving DecidableEq, Repr

/-- The instruction set: 245 encoded words, then 100 moves that no word encodes. -/
inductive Instr where
  /-- R174: 64-bit integer add of two scalar registers. -/
  | add64 (gd : Guard) (d a b : BitVec 5) (u : BitVec 1)
  /-- R174: 64-bit integer subtract. -/
  | sub64 (gd : Guard) (d a b : BitVec 5) (u : BitVec 1)
  /-- R174: 64-bit bitwise AND. -/
  | and64 (gd : Guard) (d a b : BitVec 5) (u : BitVec 1)
  /-- R174: 64-bit bitwise OR. -/
  | or64 (gd : Guard) (d a b : BitVec 5) (u : BitVec 1)
  /-- R174: 64-bit bitwise XOR. -/
  | xor64 (gd : Guard) (d a b : BitVec 5) (u : BitVec 1)
  /-- R174: 64-bit AND with the complement of the second operand. -/
  | andn64 (gd : Guard) (d a b : BitVec 5) (u : BitVec 1)
  /-- R174: 64-bit shift left by a register count. -/
  | shl64 (gd : Guard) (d a b : BitVec 5) (u : BitVec 1)
  /-- R174: 64-bit shift right, arithmetic or logical by U. -/
  | shr64 (gd : Guard) (d a b : BitVec 5) (u : BitVec 1)
  /-- R174: 64-bit rotate left. -/
  | rotl64 (gd : Guard) (d a b : BitVec 5) (u : BitVec 1)
  /-- R174: 64-bit rotate right. -/
  | rotr64 (gd : Guard) (d a b : BitVec 5) (u : BitVec 1)
  /-- R174: 64-bit minimum, signed or unsigned by U. -/
  | min64 (gd : Guard) (d a b : BitVec 5) (u : BitVec 1)
  /-- R174: 64-bit maximum, signed or unsigned by U. -/
  | max64 (gd : Guard) (d a b : BitVec 5) (u : BitVec 1)
  /-- R174: 64-bit population count. -/
  | popc64 (gd : Guard) (d a : BitVec 5) (u : BitVec 1)
  /-- R174: 64-bit count of leading zeros. -/
  | clz64 (gd : Guard) (d a : BitVec 5) (u : BitVec 1)
  /-- R174: 64-bit count of trailing zeros. -/
  | ctz64 (gd : Guard) (d a : BitVec 5) (u : BitVec 1)
  /-- R174: 32-bit integer add, with the result extended by U. -/
  | add32 (gd : Guard) (d a b : BitVec 5) (u : BitVec 1)
  /-- R174: 32-bit integer subtract. -/
  | sub32 (gd : Guard) (d a b : BitVec 5) (u : BitVec 1)
  /-- R174: 32-bit bitwise AND. -/
  | and32 (gd : Guard) (d a b : BitVec 5) (u : BitVec 1)
  /-- R174: 32-bit bitwise OR. -/
  | or32 (gd : Guard) (d a b : BitVec 5) (u : BitVec 1)
  /-- R174: 32-bit bitwise XOR. -/
  | xor32 (gd : Guard) (d a b : BitVec 5) (u : BitVec 1)
  /-- R174: 32-bit AND with the complement of the second operand. -/
  | andn32 (gd : Guard) (d a b : BitVec 5) (u : BitVec 1)
  /-- R174: 32-bit shift left. -/
  | shl32 (gd : Guard) (d a b : BitVec 5) (u : BitVec 1)
  /-- R174: 32-bit shift right. -/
  | shr32 (gd : Guard) (d a b : BitVec 5) (u : BitVec 1)
  /-- R174: 32-bit rotate left. -/
  | rotl32 (gd : Guard) (d a b : BitVec 5) (u : BitVec 1)
  /-- R174: 32-bit rotate right. -/
  | rotr32 (gd : Guard) (d a b : BitVec 5) (u : BitVec 1)
  /-- R174: 32-bit minimum. -/
  | min32 (gd : Guard) (d a b : BitVec 5) (u : BitVec 1)
  /-- R174: 32-bit maximum. -/
  | max32 (gd : Guard) (d a b : BitVec 5) (u : BitVec 1)
  /-- R174: 32-bit population count. -/
  | popc32 (gd : Guard) (d a : BitVec 5) (u : BitVec 1)
  /-- R174: 32-bit count of leading zeros. -/
  | clz32 (gd : Guard) (d a : BitVec 5) (u : BitVec 1)
  /-- R174: 32-bit count of trailing zeros. -/
  | ctz32 (gd : Guard) (d a : BitVec 5) (u : BitVec 1)
  /-- R175: 64-bit multiply, low half. -/
  | mul64 (gd : Guard) (d a b : BitVec 5) (u : BitVec 1)
  /-- R175: 64-bit multiply, high half. -/
  | mulh64 (gd : Guard) (d a b : BitVec 5) (u : BitVec 1)
  /-- R175: 64-bit divide, with a defined result for division by zero. -/
  | div64 (gd : Guard) (d a b : BitVec 5) (u : BitVec 1)
  /-- R175: 64-bit remainder. -/
  | rem64 (gd : Guard) (d a b : BitVec 5) (u : BitVec 1)
  /-- R175: 32-bit multiply. -/
  | mul32 (gd : Guard) (d a b : BitVec 5) (u : BitVec 1)
  /-- R175: 32-bit multiply, high half. -/
  | mulh32 (gd : Guard) (d a b : BitVec 5) (u : BitVec 1)
  /-- R175: 32-bit divide. -/
  | div32 (gd : Guard) (d a b : BitVec 5) (u : BitVec 1)
  /-- R175: 32-bit remainder. -/
  | rem32 (gd : Guard) (d a b : BitVec 5) (u : BitVec 1)
  /-- R176: Selects one of two scalars by lane bit 0 of a predicate. -/
  | sel (gd : Guard) (d a b c : BitVec 5)
  /-- R177: Adds a sign-extended immediate to a scalar. -/
  | addImm (gd : Guard) (d a : BitVec 5) (i : BitVec 10)
  /-- R177: Shift left by an immediate count. -/
  | shlImm (gd : Guard) (d a : BitVec 5) (n : BitVec 6)
  /-- R177: Logical shift right by an immediate count. -/
  | shrN64Imm (gd : Guard) (d a : BitVec 5) (n : BitVec 6)
  /-- R177: Arithmetic shift right by an immediate count. -/
  | shrI64Imm (gd : Guard) (d a : BitVec 5) (n : BitVec 6)
  /-- R177: Rotate left by an immediate count. -/
  | rotlImm (gd : Guard) (d a : BitVec 5) (n : BitVec 6)
  /-- R177: AND with a sign-extended immediate. -/
  | andImm (gd : Guard) (d a : BitVec 5) (v : BitVec 6)
  /-- R177: OR with a sign-extended immediate. -/
  | orImm (gd : Guard) (d a : BitVec 5) (v : BitVec 6)
  /-- R177: XOR with a sign-extended immediate. -/
  | xorImm (gd : Guard) (d a : BitVec 5) (v : BitVec 6)
  /-- R177: Loads a sign-extended immediate. -/
  | li (gd : Guard) (d : BitVec 5) (i : BitVec 15)
  /-- R177: Shifts the destination left and inserts an immediate. -/
  | lsi (gd : Guard) (d : BitVec 5) (i : BitVec 15)
  /-- R179: Compares two scalars and writes every bit of a predicate. -/
  | cmp (gd : Guard) (d a b : BitVec 5) (u w : BitVec 1) (c : BitVec 3)
  /-- R179: Compares a scalar with an immediate into a predicate. -/
  | cmpImm (gd : Guard) (d a : BitVec 5) (c : BitVec 3) (u : BitVec 1) (v : BitVec 6)
  /-- R180: Predicate AND. -/
  | pand (gd : Guard) (d a b : BitVec 5)
  /-- R180: Predicate OR. -/
  | por (gd : Guard) (d a b : BitVec 5)
  /-- R180: Predicate XOR. -/
  | pxor (gd : Guard) (d a b : BitVec 5)
  /-- R180: Predicate AND NOT. -/
  | pandn (gd : Guard) (d a b : BitVec 5)
  /-- R180: Predicate OR NOT. -/
  | porn (gd : Guard) (d a b : BitVec 5)
  /-- R180: Predicate NOT. -/
  | pnot (gd : Guard) (d a : BitVec 5)
  /-- R180: Sets every bit of a predicate. -/
  | pset (gd : Guard) (d : BitVec 5)
  /-- R180: Clears every bit of a predicate. -/
  | pclr (gd : Guard) (d : BitVec 5)
  /-- R180: Inserts a scalar into a 64-bit chunk of a predicate. -/
  | pins (gd : Guard) (d a b : BitVec 5)
  /-- R180: Extracts a 64-bit chunk of a predicate into a scalar. -/
  | pext (gd : Guard) (d a b : BitVec 5)
  /-- R180: Counts the set bits of a predicate. -/
  | pcnt (gd : Guard) (d a : BitVec 5)
  /-- R181: Reads a control register into a scalar. -/
  | rdctl (gd : Guard) (d : BitVec 5) (n : BitVec 10)
  /-- R181: Writes a control register, with its clamps, access checks and delayed effects. -/
  | wrctl (gd : Guard) (d : BitVec 5) (n : BitVec 10)
  /-- R184: Branches relative to the branch word. -/
  | br (gd : Guard) (o : BitVec 20)
  /-- R184: Branches and links into s30. -/
  | jal (gd : Guard) (o : BitVec 20)
  /-- R184: Jumps to a register plus an offset and writes the return address. -/
  | jalr (gd : Guard) (d a : BitVec 5) (i : BitVec 10)
  /-- R28: Ends the handler, frees its slot or returns from an inline child. -/
  | endH (gd : Guard)
  /-- R28: Ends the handler and requeues its record. -/
  | yieldH (gd : Guard)
  /-- R189: Loads one byte, zero-extended. -/
  | ldB (gd : Guard) (d b : BitVec 5) (o : BitVec 7)
  /-- R189: Loads two bytes, zero-extended. -/
  | ldH (gd : Guard) (d b : BitVec 5) (o : BitVec 7)
  /-- R189: Loads four bytes, zero-extended. -/
  | ldW (gd : Guard) (d b : BitVec 5) (o : BitVec 7)
  /-- R189: Loads eight bytes. -/
  | ldD (gd : Guard) (d b : BitVec 5) (o : BitVec 7)
  /-- R189: Loads one byte, sign-extended. -/
  | ldBS (gd : Guard) (d b : BitVec 5) (o : BitVec 7)
  /-- R189: Loads two bytes, sign-extended. -/
  | ldHS (gd : Guard) (d b : BitVec 5) (o : BitVec 7)
  /-- R189: Loads four bytes, sign-extended. -/
  | ldWS (gd : Guard) (d b : BitVec 5) (o : BitVec 7)
  /-- R189: Stores one byte. -/
  | stB (gd : Guard) (d b : BitVec 5) (o : BitVec 7)
  /-- R189: Stores two bytes. -/
  | stH (gd : Guard) (d b : BitVec 5) (o : BitVec 7)
  /-- R189: Stores four bytes. -/
  | stW (gd : Guard) (d b : BitVec 5) (o : BitVec 7)
  /-- R189: Stores eight bytes. -/
  | stD (gd : Guard) (d b : BitVec 5) (o : BitVec 7)
  /-- R191: Acquire load of a given size and scope, with no offset. -/
  | ldAcq (gd : Guard) (d b : BitVec 5) (z : BitVec 2) (s : BitVec 3)
  /-- R191: Release store of a given size and scope. -/
  | stRel (gd : Guard) (d b : BitVec 5) (z : BitVec 2) (s : BitVec 3)
  /-- R192: Waits for full and loads, leaving the word full. -/
  | ldff (gd : Guard) (d b : BitVec 5) (z : BitVec 1) (o : BitVec 6)
  /-- R192: Waits for full, loads and sets empty. -/
  | ldfe (gd : Guard) (d b : BitVec 5) (z : BitVec 1) (o : BitVec 6)
  /-- R192: Reads the full/empty bits without waiting. -/
  | fet (gd : Guard) (d b : BitVec 5) (z : BitVec 1) (o : BitVec 6)
  /-- R192: Waits for empty, stores and sets full. -/
  | stef (gd : Guard) (d b : BitVec 5) (z : BitVec 1) (o : BitVec 6)
  /-- R192: Stores and sets full without waiting. -/
  | stxf (gd : Guard) (d b : BitVec 5) (z : BitVec 1) (o : BitVec 6)
  /-- R192: Stores and sets empty without waiting. -/
  | stxe (gd : Guard) (d b : BitVec 5) (z : BitVec 1) (o : BitVec 6)
  /-- R194: Atomic 64-bit swap with return. -/
  | aswapD (gd : Guard) (d a b : BitVec 5)
  /-- R194: Atomic 64-bit compare-and-swap. -/
  | acasD (gd : Guard) (d a b : BitVec 5)
  /-- R194: Atomic 64-bit add with return. -/
  | aadd64 (gd : Guard) (d a b : BitVec 5)
  /-- R194: Atomic AND with return. -/
  | aandD (gd : Guard) (d a b : BitVec 5)
  /-- R194: Atomic OR with return. -/
  | aorD (gd : Guard) (d a b : BitVec 5)
  /-- R194: Atomic XOR with return. -/
  | axorD (gd : Guard) (d a b : BitVec 5)
  /-- R194: Atomic signed minimum with return. -/
  | aminI64 (gd : Guard) (d a b : BitVec 5)
  /-- R194: Atomic signed maximum with return. -/
  | amaxI64 (gd : Guard) (d a b : BitVec 5)
  /-- R194: Atomic unsigned minimum with return. -/
  | aminN64 (gd : Guard) (d a b : BitVec 5)
  /-- R194: Atomic unsigned maximum with return. -/
  | amaxN64 (gd : Guard) (d a b : BitVec 5)
  /-- R194: Atomic 32-bit add with return. -/
  | aadd32 (gd : Guard) (d a b : BitVec 5)
  /-- R194: Atomic 32-bit swap. -/
  | aswapW (gd : Guard) (d a b : BitVec 5)
  /-- R194: Atomic 32-bit compare-and-swap. -/
  | acasW (gd : Guard) (d a b : BitVec 5)
  /-- R197: Decrement-and-wake of a codelet, returning the old counter. -/
  | adecw (gd : Guard) (d a b : BitVec 5)
  /-- R194: Atomic FP32 add with return, rounded to nearest even. -/
  | aaddF32 (gd : Guard) (d a b : BitVec 5)
  /-- R194: Atomic FP64 add with return. -/
  | aaddF64 (gd : Guard) (d a b : BitVec 5)
  /-- R194: 64-bit add reduction without return. -/
  | qadd64 (gd : Guard) (a b : BitVec 5)
  /-- R194: AND reduction without return. -/
  | qandD (gd : Guard) (a b : BitVec 5)
  /-- R194: OR reduction without return. -/
  | qorD (gd : Guard) (a b : BitVec 5)
  /-- R194: XOR reduction without return. -/
  | qxorD (gd : Guard) (a b : BitVec 5)
  /-- R194: Signed minimum reduction without return. -/
  | qminI64 (gd : Guard) (a b : BitVec 5)
  /-- R194: Signed maximum reduction without return. -/
  | qmaxI64 (gd : Guard) (a b : BitVec 5)
  /-- R194: Unsigned minimum reduction without return. -/
  | qminN64 (gd : Guard) (a b : BitVec 5)
  /-- R194: Unsigned maximum reduction without return. -/
  | qmaxN64 (gd : Guard) (a b : BitVec 5)
  /-- R194: 32-bit add reduction without return. -/
  | qadd32 (gd : Guard) (a b : BitVec 5)
  /-- R197: Decrement-and-wake of a codelet without return. -/
  | qdecw (gd : Guard) (a b : BitVec 5)
  /-- R194: FP32 add reduction without return. -/
  | qaddF32 (gd : Guard) (a b : BitVec 5)
  /-- R194: FP64 add reduction without return. -/
  | qaddF64 (gd : Guard) (a b : BitVec 5)
  /-- R198: Plain fence of a scope. -/
  | fence (gd : Guard) (s : BitVec 5)
  /-- R198: Fence of a scope that also orders unordered accesses. -/
  | fenceAll (gd : Guard) (s : BitVec 5)
  /-- R199: Writes dirty lines of a range back to image B. -/
  | cleanRange (gd : Guard) (a b : BitVec 5)
  /-- R199: Discards the image C copies of a range. -/
  | invalRange (gd : Guard) (a b : BitVec 5)
  /-- R199: Writes back and discards the image C copies of a range. -/
  | flushRange (gd : Guard) (a b : BitVec 5)
  /-- R200: Drops the core's own instruction-cache lines of a range. -/
  | icsync (gd : Guard) (a b : BitVec 5)
  /-- R200: Drops a range from every instruction cache of the partition. -/
  | icinvRange (gd : Guard) (a b : BitVec 5)
  /-- R201: Builds a message and delivers it to a core's inbox, or runs it inline. -/
  | send (gd : Guard) (a b : BitVec 5)
  /-- R202: Appends a 64-byte record to a ring or to a link. -/
  | rpush (gd : Guard) (a b : BitVec 5)
  /-- R203: Pops the head record of a queue-mode ring, waiting while it is empty. -/
  | rpop (gd : Guard) (d a b : BitVec 5)
  /-- R203: Returns the header of a queue-mode ring's head record. -/
  | rpeek (gd : Guard) (d b : BitVec 5)
  /-- R205: Asynchronous 8-byte load answered by a message to the own inbox. -/
  | aldD (gd : Guard) (a b : BitVec 5)
  /-- R211: Unit-stride vector load. -/
  | vld (gd : Guard) (d a : BitVec 5) (z : BitVec 2)
  /-- R211: Strided vector load. -/
  | vlds (gd : Guard) (d a b : BitVec 5) (z : BitVec 2)
  /-- R211: Indexed vector load. -/
  | vldx (gd : Guard) (d a b : BitVec 5) (z : BitVec 2)
  /-- R211: Unit-stride vector store. -/
  | vst (gd : Guard) (d a : BitVec 5) (z : BitVec 2)
  /-- R211: Strided vector store. -/
  | vsts (gd : Guard) (d a b : BitVec 5) (z : BitVec 2)
  /-- R211: Indexed vector store (scatter). -/
  | vstx (gd : Guard) (d a b : BitVec 5) (z : BitVec 2)
  /-- R213: Vector floating-point add. -/
  | vaddFp (gd : Guard) (d a b : BitVec 5) (f : BitVec 2)
  /-- R213: Vector floating-point subtract. -/
  | vsubFp (gd : Guard) (d a b : BitVec 5) (f : BitVec 2)
  /-- R213: Vector floating-point multiply. -/
  | vmulFp (gd : Guard) (d a b : BitVec 5) (f : BitVec 2)
  /-- R213: Vector floating-point divide. -/
  | vdiv (gd : Guard) (d a b : BitVec 5) (f : BitVec 2)
  /-- R213: Vector floating-point minimum. -/
  | vminFp (gd : Guard) (d a b : BitVec 5) (f : BitVec 2)
  /-- R213: Vector floating-point maximum. -/
  | vmaxFp (gd : Guard) (d a b : BitVec 5) (f : BitVec 2)
  /-- R213: Vector floating-point square root. -/
  | vsqrt (gd : Guard) (d a : BitVec 5) (f : BitVec 2)
  /-- R213: Vector floating-point absolute value. -/
  | vabsFp (gd : Guard) (d a : BitVec 5) (f : BitVec 2)
  /-- R214: Vector fused multiply-add, with negations selected by an ETYPE hint. -/
  | vfma (gd : Guard) (d a b c : BitVec 5)
  /-- R215: Vector integer add. -/
  | vaddInt (gd : Guard) (d a b : BitVec 5) (x : BitVec 1)
  /-- R215: Vector integer subtract. -/
  | vsubInt (gd : Guard) (d a b : BitVec 5) (x : BitVec 1)
  /-- R215: Vector integer multiply. -/
  | vmulInt (gd : Guard) (d a b : BitVec 5) (x : BitVec 1)
  /-- R215: Vector integer multiply, high half. -/
  | vmulh (gd : Guard) (d a b : BitVec 5) (x : BitVec 1)
  /-- R215: Vector integer minimum. -/
  | vminInt (gd : Guard) (d a b : BitVec 5) (x : BitVec 1)
  /-- R215: Vector integer maximum. -/
  | vmaxInt (gd : Guard) (d a b : BitVec 5) (x : BitVec 1)
  /-- R215: Vector bitwise AND. -/
  | vand (gd : Guard) (d a b : BitVec 5) (x : BitVec 1)
  /-- R215: Vector bitwise OR. -/
  | vor (gd : Guard) (d a b : BitVec 5) (x : BitVec 1)
  /-- R215: Vector bitwise XOR. -/
  | vxor (gd : Guard) (d a b : BitVec 5) (x : BitVec 1)
  /-- R215: Vector AND NOT. -/
  | vandn (gd : Guard) (d a b : BitVec 5) (x : BitVec 1)
  /-- R215: Vector shift left. -/
  | vshl (gd : Guard) (d a b : BitVec 5) (x : BitVec 1)
  /-- R215: Vector shift right. -/
  | vshr (gd : Guard) (d a b : BitVec 5) (x : BitVec 1)
  /-- R215: Vector rotate left. -/
  | vrotl (gd : Guard) (d a b : BitVec 5) (x : BitVec 1)
  /-- R215: Vector integer absolute value. -/
  | vabsInt (gd : Guard) (d a : BitVec 5)
  /-- R215: Vector saturating add. -/
  | vadds (gd : Guard) (d a b : BitVec 5) (x : BitVec 1)
  /-- R215: Vector saturating subtract. -/
  | vsubs (gd : Guard) (d a b : BitVec 5) (x : BitVec 1)
  /-- R216: Vector compare into a predicate. -/
  | vcmp (gd : Guard) (d a b : BitVec 5) (x : BitVec 1) (c : BitVec 3)
  /-- R217: Vector conversion between formats. -/
  | vcvt (gd : Guard) (d a b : BitVec 5) (t : BitVec 4)
  /-- R218: Vector narrowing with a residual. -/
  | vcvn (gd : Guard) (d a b : BitVec 5) (t : BitVec 4)
  /-- R220: Add reduction into a scalar. -/
  | vrsum (gd : Guard) (d a : BitVec 5)
  /-- R220: Minimum reduction. -/
  | vrmin (gd : Guard) (d a : BitVec 5)
  /-- R220: Maximum reduction. -/
  | vrmax (gd : Guard) (d a : BitVec 5)
  /-- R220: AND reduction. -/
  | vrand (gd : Guard) (d a : BitVec 5)
  /-- R220: OR reduction. -/
  | vror (gd : Guard) (d a : BitVec 5)
  /-- R220: XOR reduction. -/
  | vrxor (gd : Guard) (d a : BitVec 5)
  /-- R220: Inclusive add scan. -/
  | vssum (gd : Guard) (d a : BitVec 5)
  /-- R220: Inclusive minimum scan. -/
  | vsmin (gd : Guard) (d a : BitVec 5)
  /-- R220: Inclusive maximum scan. -/
  | vsmax (gd : Guard) (d a : BitVec 5)
  /-- R220: Inclusive AND scan. -/
  | vsand (gd : Guard) (d a : BitVec 5)
  /-- R220: Inclusive OR scan. -/
  | vsor (gd : Guard) (d a : BitVec 5)
  /-- R220: Inclusive XOR scan. -/
  | vsxor (gd : Guard) (d a : BitVec 5)
  /-- R221: Broadcasts a scalar to every lane. -/
  | vbcast (gd : Guard) (d a : BitVec 5)
  /-- R221: Slides lanes up by a scalar count. -/
  | vslideup (gd : Guard) (d a b : BitVec 5)
  /-- R221: Slides lanes down by a scalar count. -/
  | vslidedn (gd : Guard) (d a b : BitVec 5)
  /-- R221: Permutes lanes by an index vector. -/
  | vperm (gd : Guard) (d a b : BitVec 5)
  /-- R221: Copies elements lane by lane. -/
  | vmov (gd : Guard) (d a : BitVec 5)
  /-- R221: Extracts one element into a scalar. -/
  | vext (gd : Guard) (d a b : BitVec 5)
  /-- R221: Inserts a scalar into one lane. -/
  | vins (gd : Guard) (d a b : BitVec 5)
  /-- R219: Packs 6-bit elements into nibble and 2-bit planes. -/
  | vpack6 (gd : Guard) (d a b : BitVec 5)
  /-- R219: Unpacks planar 6-bit elements. -/
  | vunp6 (gd : Guard) (d a b : BitVec 5)
  /-- R219: Packs 4-bit elements. -/
  | vpack4 (gd : Guard) (d a : BitVec 5)
  /-- R219: Unpacks 4-bit elements. -/
  | vunp4 (gd : Guard) (d a : BitVec 5)
  /-- R221: Writes each lane's index. -/
  | vidx (gd : Guard) (d : BitVec 5)
  /-- R222: Writes a scalar to a fmt register. -/
  | fmtld (gd : Guard) (d a : BitVec 5)
  /-- R222: Reads a fmt register into a scalar. -/
  | fmtrd (gd : Guard) (d a : BitVec 5)
  /-- R223: Approximate reciprocal. -/
  | vrcp (gd : Guard) (d a : BitVec 5) (f : BitVec 2)
  /-- R223: Approximate reciprocal square root. -/
  | vrsqrt (gd : Guard) (d a : BitVec 5) (f : BitVec 2)
  /-- R223: Approximate exp2. -/
  | vexp2 (gd : Guard) (d a : BitVec 5) (f : BitVec 2)
  /-- R223: Approximate log2. -/
  | vlog2 (gd : Guard) (d a : BitVec 5) (f : BitVec 2)
  /-- R209: Asks the cluster's lane pool for lanes through its lottery. -/
  | claim (gd : Guard) (d a : BitVec 5) (n : BitVec 9)
  /-- R209: Returns lanes to the pool at once. -/
  | vrelease (gd : Guard) (d a : BitVec 5) (n : BitVec 9)
  /-- R228: Copies a matrix job card and queues the job. -/
  | mjob (gd : Guard) (d a : BitVec 5)
  /-- R240: Copies a copy or bank-op card and queues the job. -/
  | cjob (gd : Guard) (d a : BitVec 5)
  /-- R246: Queues a collective job from a collective record. -/
  | coll (gd : Guard) (d a : BitVec 5)
  /-- R237: Cancels a job or acknowledges its failure. -/
  | jcancel (gd : Guard) (a : BitVec 5)
  /-- R236: Returns a job's status word. -/
  | jpoll (gd : Guard) (d a : BitVec 5)
  /-- R236: Stalls until a job leaves the queued, running and suspended states. -/
  | jwait (gd : Guard) (d a : BitVec 5)
  /-- R243: Starts a steep from an agent descriptor. -/
  | subs (gd : Guard) (d a : BitVec 5)
  /-- R243: Starts a rack from an agent descriptor. -/
  | rack (gd : Guard) (d a : BitVec 5)
  /-- R243: Stops a steep and frees its slot. -/
  | unsubs (gd : Guard) (a : BitVec 5)
  /-- R243: Stops a rack and frees its slot. -/
  | unrack (gd : Guard) (a : BitVec 5)
  /-- R239: Clears an accumulator tile. -/
  | aclr (gd : Guard) (a : BitVec 5)
  /-- R239: Reads a row of an accumulator tile into a vector. -/
  | ardr (gd : Guard) (d a b : BitVec 5)
  /-- R239: Writes a vector into a row of an accumulator tile. -/
  | awrr (gd : Guard) (d a b : BitVec 5)
  /-- R255: Clears a sum tree and sets its exponent. -/
  | wclr (gd : Guard) (t a : BitVec 5)
  /-- R256: Loads tree leaves from memory. -/
  | wld (gd : Guard) (t a b : BitVec 5)
  /-- R256: Loads tree leaves from a vector, converting to mass. -/
  | wldv (gd : Guard) (t a b : BitVec 5)
  /-- R257: Sets one leaf. -/
  | wset (gd : Guard) (t a b : BitVec 5)
  /-- R257: Adds a signed amount to one leaf, saturating. -/
  | wadd (gd : Guard) (t a b : BitVec 5)
  /-- R258: Changes the exponent and rescales every leaf. -/
  | wexp (gd : Guard) (t a : BitVec 5)
  /-- R259: Cuts the row's tail at a fraction of its mass. -/
  | wcut (gd : Guard) (t a : BitVec 5)
  /-- R259: Sets the limit index directly. -/
  | wuncut (gd : Guard) (t a : BitVec 5)
  /-- R260: Reads one leaf and the sequence number. -/
  | wget (gd : Guard) (d t b : BitVec 5)
  /-- R260: Reads the root and the sequence number. -/
  | wsum (gd : Guard) (d t : BitVec 5)
  /-- R260: Reads a prefix sum and the sequence number. -/
  | wpre (gd : Guard) (d t b : BitVec 5)
  /-- R261: Finds the leaf at which a fraction of the mass is reached. -/
  | wfind (gd : Guard) (d t b : BitVec 5)
  /-- R260: Reads the tree's sequence number. -/
  | wseq (gd : Guard) (d t : BitVec 5)
  /-- R262: Stores the visible row to memory. -/
  | wst (gd : Guard) (d t b : BitVec 5)
  /-- R266: Writes 64 user-stream bits to a scalar. -/
  | rnd (gd : Guard) (d : BitVec 5)
  /-- R266: Writes 64 user-stream bits to each lane. -/
  | rndV (gd : Guard) (d : BitVec 5)
  /-- R267: Draws a dropout mask into a predicate. -/
  | pdrop (gd : Guard) (d a : BitVec 5)
  /-- R268: Categorical draw from a sum tree. -/
  | wdraw (gd : Guard) (d t : BitVec 5)
  /-- R273: Pushes a splice record down a pipeline. -/
  | splice (gd : Guard) (a b : BitVec 5)
  /-- R274: Binds a free ring from a binding block. -/
  | rbind (gd : Guard) (a b : BitVec 5)
  /-- R275: Frees an empty ring. -/
  | runbind (gd : Guard) (b : BitVec 5)
  /-- R276: Raises user trap 0x20 + n. -/
  | trap (gd : Guard) (n : BitVec 5)
  /-- R270: Enters a request for a new placement epoch of the owner. -/
  | reseedPlace (gd : Guard)
  /-- R271: Returns the placement sets of an address's line. -/
  | plprobe (gd : Guard) (d a b : BitVec 5)
  /-- R272: Writes the ten exceedance reports, optionally clearing the counters. -/
  | excq (gd : Guard) (a b : BitVec 5)
  /-- R279: Returns from a trap or faults the handler. -/
  | rft (gd : Guard)
  /-- R282: Invalidates an owner's translations module-wide. -/
  | tinv (gd : Guard) (a b : BitVec 5)
  /-- R281: Spills an accumulator tile to its owner's slot and untags it. -/
  | aspill (gd : Guard) (a : BitVec 5)
  /-- R281: Tags a tile to an owner, optionally loading its slot. -/
  | atag (gd : Guard) (a b : BitVec 5)
  /-- R281: Spills a sum tree to its owner's slot and untags it. -/
  | wspill (gd : Guard) (a : BitVec 5)
  /-- R281: Tags a sum tree to an owner, optionally loading its slot. -/
  | wtag (gd : Guard) (a b : BitVec 5)
  /-- R283: Loads an owner's memory key. -/
  | keyld (gd : Guard) (a b : BitVec 5)
  /-- R283: Loads a virtual device's placement salt and starts new epochs. -/
  | saltld (gd : Guard) (a b : BitVec 5)
  /-- R153: Hint word extending the next instruction's immediate. -/
  | immx (p : BitVec 16)
  /-- R153: Hint word giving the next instruction's rounding mode. -/
  | rmode (p : BitVec 16)
  /-- R153: Hint word giving the next access's cache policy. -/
  | cpol (p : BitVec 16)
  /-- R153: Hint word giving acquire or release and scope to an atomic. -/
  | order (p : BitVec 16)
  /-- R153: Hint word giving the element type of the next vector instruction. -/
  | etype (p : BitVec 16)
  /-- R40: The dispatcher takes the head record of the chosen ring and starts its handler. -/
  | dispatch (n : BitVec 11)
  /-- R80: Abstract machine move: the head instruction issues. -/
  | issue (n : BitVec 11)
  /-- R80: A pending load takes its data from an older unperformed store. -/
  | forward (n : BitVec 11) (load store : Nat)
  /-- R80: An absent line of image C becomes a clean copy of B. -/
  | fill (g : BitVec 8) (o : BitVec 8) (line : Nat)
  /-- R80: A queued load is performed and returns its value. -/
  | performLoad (n : BitVec 11) (id : Nat)
  /-- R80: A queued store or atomic is performed, acknowledged and leaves ctl.usc. -/
  | performStore (n : BitVec 11) (id : Nat)
  /-- R80: A dirty line of C is written to B. -/
  | writeBack (line : Nat)
  /-- R80: A clean line of C becomes absent. -/
  | drop (line : Nat)
  /-- R82: A pending fence is performed once every access it waits on is performed. -/
  | fencePerformed (n : BitVec 11) (id : Nat)
  /-- R34: A decrement reaches the codelet's plate port and may push onto the ready ring. -/
  | decrementAndWake (n : BitVec 11) (id : Nat)
  /-- R37: A waiting ready-ring push is accepted when a slot frees. -/
  | readyPushAccept (n : BitVec 11)
  /-- R72: An L2 read-merge window closes after 32 slice cycles. -/
  | mergeWindowExpire (die : BitVec 2) (o : BitVec 8) (line : Nat)
  /-- R72: A returning fill multicasts the line to every joined read. -/
  | fillReply (die : BitVec 2) (o : BitVec 8) (line : Nat)
  /-- R76: The reply to a remote plate or cluster-window load arrives. -/
  | windowLoadReply (n : BitVec 11)
  /-- R205: An asynchronous load is performed and its reply enters the reserved inbox slot. -/
  | asyncLoadReply (n : BitVec 11) (id : Nat)
  /-- R42: The handler's counted cycles reach LIMIT and trap 0x06 is raised. -/
  | watchdog (n : BitVec 11)
  /-- R43: A blocked core clock-gates after 256 cycles. -/
  | clockGate (n : BitVec 11)
  /-- R43: A blocked core power-gates after 65,536 cycles. -/
  | powerGate (n : BitVec 11)
  /-- R43: A blocked core wakes when its condition holds and completes the instruction. -/
  | coreWake (n : BitVec 11)
  /-- R45: RESID reaches 2^EXP and a hang fault message is sent. -/
  | hangReport (n : BitVec 11)
  /-- R46: The pipeline monitor scans blocked states every 4,096 cycles and builds the wait-for relation. -/
  | deadlockScan (die : BitVec 2)
  /-- R277: A trap is taken between chains and control passes to the supervisor entry. -/
  | trapEntry (n : BitVec 11)
  /-- R278: The supervisor cycle count reaches 2^20 and a double trap results. -/
  | supCycleLimit (n : BitVec 11)
  /-- R326: The host writes TAIL of a virtual device's launch queue. -/
  | launchTailWrite (f : BitVec 6) (v : BitVec 32)
  /-- R52: The sequencer takes a launch record and sends its messages or rejects it. -/
  | launchRecord (f : BitVec 6)
  /-- R66: A store to tile-table word 0 sets BASE and LENM1 and empties the entry. -/
  | tileReconfigure (n : BitVec 11) (t : BitVec 5) (v : BitVec 64)
  /-- R67: The release command of tile-table word 1 empties the tile. -/
  | tileRelease (n : BitVec 11) (t : BitVec 5)
  /-- R67: The publish command of tile-table word 1 makes the tile ready. -/
  | tilePublish (n : BitVec 11) (t : BitVec 5)
  /-- R66: A store to word 1 with command 0 or 3-7 does nothing. -/
  | tileCmdNop (n : BitVec 11) (t : BitVec 5) (c : BitVec 3)
  /-- R244: A kind 2 steep starts a fill on an empty tile. -/
  | steepFillStart (n : BitVec 11) (h : BitVec 8)
  /-- R67: A steep completes one 128-byte unit of a fill, the last making the tile ready. -/
  | steepUnitComplete (n : BitVec 11) (h : BitVec 8)
  /-- R244: A kind 1 steep appends a data or marker record to its ring. -/
  | steepRecordAppend (n : BitVec 11) (h : BitVec 8)
  /-- R245: A kind 4 rack starts draining a published tile. -/
  | rackDrainStart (n : BitVec 11) (h : BitVec 8)
  /-- R67: A rack completes one unit of a drain, the last emptying the tile. -/
  | rackUnitComplete (n : BitVec 11) (h : BitVec 8)
  /-- R245: A kind 3 rack writes a received record and its progress word. -/
  | rackRecordWrite (n : BitVec 11) (h : BitVec 8)
  /-- R245: A full circular rack rereads its consumer count. -/
  | rackAckReread (n : BitVec 11) (h : BitVec 8)
  /-- R141: The ring engine forwards a head record to the link once room and order allow. -/
  | ringForward (n : BitVec 11) (j : BitVec 4)
  /-- R142: The ring engine checks a matching splice and starts its application. -/
  | spliceApply (n : BitVec 11) (j : BitVec 4)
  /-- R142: The state-transfer handler runs as the next handler on its core. -/
  | stateTransferRun (n : BitVec 11)
  /-- R143: HWAIT reaches the alignment limit and every head splice fails with 0x07. -/
  | alignmentTimeout (n : BitVec 11) (j : BitVec 4)
  /-- R226: An engine chooses an owner in its slot and starts that owner's oldest startable job. -/
  | jobStart (g : BitVec 8) (copyUnit : Bool)
  /-- R232: The matrix engine commits one accumulator row. -/
  | matrixRowCommit (g : BitVec 8) (e : BitVec 5)
  /-- R241: A copy job reads and writes one element or combined sector. -/
  | copyElement (g : BitVec 8) (e : BitVec 5)
  /-- R242: A bank-op job computes one element at the Kiln units. -/
  | bankOpElement (g : BitVec 8) (e : BitVec 5)
  /-- R232: A job suspends at a translation fault or slice end. -/
  | jobSuspend (g : BitVec 8) (e : BitVec 5)
  /-- R91: A job completes, failing or draining as stated, and frees its entry. -/
  | jobComplete (g : BitVec 8) (e : BitVec 5)
  /-- R233: A job's wake message is accepted into DCORE's inbox, live or saved. -/
  | wakeMessageDelivery (g : BitVec 8) (e : BitVec 5)
  /-- R248: A collective participant completes once its writes are done and no peer needs its source. -/
  | collectiveComplete (g : BitVec 8) (e : BitVec 5)
  /-- R248: A participant not heard from within the group's timeout fails the collective. -/
  | collectiveTimeout (g : BitVec 8) (e : BitVec 5)
  /-- R124: Each slot of each arbitration point draws the owner and requester to grant. -/
  | arbitrationSlot (cls : BitVec 4) (inst : Nat)
  /-- R114: A written arbitration seed takes effect at a point within 4,096 cycles. -/
  | arbKeyUpdate (cls : BitVec 4) (inst : Nat) (o : BitVec 8)
  /-- R119: A waiting reseed request starts a new epoch and its sweep. -/
  | placementEpochStart (o : BitVec 8)
  /-- R120: The sweeper visits one set and moves the owner's old-epoch lines. -/
  | sweepSetVisit (o : BitVec 8) (inst : Nat)
  /-- R126: The hot-row throttle window of 51,200 cycles ends. -/
  | throttleWindowExpire (o : BitVec 8) (row : Nat)
  /-- R324: An owner's limiter balance rises by RATE every 1,024 cycles. -/
  | limiterRefill (o : BitVec 8) (cls : BitVec 4) (inst : Nat)
  /-- R128: A per-bank refresh pauses the bank scheduler's slots. -/
  | hbmRefresh (inst : Nat)
  /-- R128: A router or link retrains after an error and logs a link event. -/
  | linkRetrain (cls : BitVec 4) (inst : Nat)
  /-- R358: A cluster island changes frequency in one step, pausing its points. -/
  | frequencyChange (island : BitVec 6) (mhz : BitVec 16)
  /-- R312: A replayable fault record is written to the owner's fault queue when room exists. -/
  | faultRecordWrite (o : BitVec 8)
  /-- R312: A replay reply releases every waiter of the fault record. -/
  | faultReplyReplay (f : BitVec 6) (slot : BitVec 2) (tag : BitVec 32)
  /-- R312: A reject reply traps cores and fails jobs and agents with cause 0x04. -/
  | faultReplyReject (f : BitVec 6) (slot : BitVec 2) (tag : BitVec 32)
  /-- R316: tinv completes once caches dropped entries and old-entry accesses are performed. -/
  | tinvComplete (n : BitVec 11)
  /-- R200: icinv.range completes once every instruction cache has dropped the range. -/
  | icinvComplete (n : BitVec 11)
  /-- R283: keyld completes once every controller uses the new key. -/
  | keyldComplete (n : BitVec 11)
  /-- R321: A COMMIT write with KIND 0 makes the device read a virtual-device entry. -/
  | commitVdEntry (f : BitVec 8)
  /-- R321: A COMMIT write with KIND 1 makes the device read an owner entry. -/
  | commitOwnerEntry (o : BitVec 8)
  /-- R321: Accepted ticket, limiter, mask and coalescing fields reach each point within 4,096 cycles. -/
  | commitPropagate
  /-- R346: Retiring an owner writes back and drops its lines and translations before BUSY clears. -/
  | ownerRetirement (o : BitVec 8)
  /-- R329: A write of EN = 1 starts the schedule or is rejected. -/
  | scheduleEnable (nrm1 : BitVec 6)
  /-- R362: A write of EN = 0 stops the schedule at the end of the round. -/
  | scheduleDisable
  /-- R329: A round's length passes and each running cluster begins the slice end. -/
  | roundEnd (f : BitVec 6)
  /-- R330: Phase 1: dispatch stops and handlers run to their end. -/
  | sliceQuiesce (f : BitVec 6)
  /-- R330: Phase 2: every ctl.usc falls to zero and fences are performed. -/
  | sliceDrain (f : BitVec 6)
  /-- R330: Phase 3: each core's context is written to its save block. -/
  | sliceSave (f : BitVec 6)
  /-- R330: Phase 4: the window permission table drops the owners. -/
  | sliceSwitch (f : BitVec 6)
  /-- R333: A virtual device is restored on its partition once every cluster finished its slice end. -/
  | restore (f : BitVec 6)
  /-- R365: A device-built message to a saved context enters the saved inbox image. -/
  | savedInboxEntry (i : Nat)
  /-- R328: A vector is sent when COALN events have accumulated. -/
  | interruptSend (f : BitVec 6) (v : BitVec 11)
  /-- R328: COALT cycles pass since the first pending event and the vector is sent. -/
  | coalesceTimeout (f : BitVec 6) (v : BitVec 11)
  /-- R337: The logger writes the records of one detection in order. -/
  | errorLogRecord
  /-- R340: A flit failing its checks after 16 retries is discarded with kill or stop. -/
  | flitCheckFail (cls : BitVec 4) (inst : Nat) (header : Bool) (o : BitVec 8) (n : BitVec 11)
  /-- R334: An uncorrectable error in module state stops every partition. -/
  | moduleFatal (code : BitVec 8)
  /-- R345: A host-port access to device memory is performed under the function's key. -/
  | hostPortAccess (f : BitVec 6) (write : Bool) (addr : Nat) (v : BitVec 64)
  /-- R349: Power-good and PERST# deassertion run the reset sequence. -/
  | coldReset
  /-- R348: A write of 0x0A5A to RESETREQ starts a warm reset. -/
  | warmReset (v : BitVec 32)
  /-- R353: All stacks have trained and the switch-over runs. -/
  | hbmTrainingDone (stack : BitVec 3)
  /-- R353: A stack fails three attempts and STATE becomes 15. -/
  | hbmTrainingFail (stack : BitVec 3)
  /-- R349: Die links, peer links and CXL are up and STATE becomes 4. -/
  | linkBringupDone
  /-- R354: ATTCMD = 1 produces a signed attestation report. -/
  | attestReport
  /-- R351: ATTCMD = 4 verifies and writes a staged firmware image. -/
  | stageImage
  /-- R359: Every millisecond the firmware compares power with the limit and steps a clock. -/
  | powerCheck
  /-- R359: A write of PWRLIM is clamped to 600-2,000 W. -/
  | pwrlimWrite (v : BitVec 64)
  /-- R359: A write of CAPCNT stores 0. -/
  | capcntClear
  /-- R360: Island telemetry is refreshed every millisecond. -/
  | telemetryRefresh
  /-- R361: A write to a corrected-error counter stores 0. -/
  | correctedCounterClear (code : BitVec 8)
  /-- R363: An island above 105 C for 1 s lowers cluster clocks each millisecond. -/
  | thermalThrottle (island : BitVec 6)
  /-- R320: A write to a BAR register with no behaviour of its own stores the value. -/
  | registerWrite (f : BitVec 6) (off : BitVec 20) (v : BitVec 64)
  /-- R247: A collective job reads or writes a sector of its source or destination, or exchanges partial sums over the peer links. -/
  | collectiveMove (g : BitVec 8) (e : BitVec 5)
  /-- R328: Unmasking an MSI-X vector sends the interrupt whose pending bit is set. -/
  | vectorUnmask (f : BitVec 6) (v : BitVec 11)
  /-- R128: A router or link finishes retraining and its slot counters run again. -/
  | retrainingComplete (cls : BitVec 4) (inst : Nat)
  deriving DecidableEq, Repr

end Sys2Proof
end

