-- ==== Sys2Proof/WellFormed.lean ====
section
/-!
DEFINITION. Which terms of `Instr` are instructions: the register ranges and field limits of R151, the listed control
registers of R181, the hint payload codes of R153 and the limits each description states.
-/
namespace Sys2Proof

/-- The control-register numbers of R181; any other number is an illegal instruction with reason 0x3. -/
def listedCtl (n : Nat) : Bool :=
  n ≤ 0x07 || (0x10 ≤ n && n ≤ 0x14) || (0x18 ≤ n && n ≤ 0x1E) || (0x20 ≤ n && n ≤ 0x23)

/-- A destination pair s[d], s[d+1] needs an even d from 2 to 30 (R253, R265). -/
def evenPair (d : BitVec 5) : Bool := d.toNat % 2 == 0 && d.toNat != 0

/-- Well-formed instructions (R151, R153, R160, R162, R181, R217, R218, R219, R253). -/
def Instr.wf : Instr → Bool
  | .add64 _ _ _ _ _ => true
  | .sub64 _ _ _ _ _ => true
  | .and64 _ _ _ _ _ => true
  | .or64 _ _ _ _ _ => true
  | .xor64 _ _ _ _ _ => true
  | .andn64 _ _ _ _ _ => true
  | .shl64 _ _ _ _ _ => true
  | .shr64 _ _ _ _ _ => true
  | .rotl64 _ _ _ _ _ => true
  | .rotr64 _ _ _ _ _ => true
  | .min64 _ _ _ _ _ => true
  | .max64 _ _ _ _ _ => true
  | .popc64 _ _ _ _ => true
  | .clz64 _ _ _ _ => true
  | .ctz64 _ _ _ _ => true
  | .add32 _ _ _ _ _ => true
  | .sub32 _ _ _ _ _ => true
  | .and32 _ _ _ _ _ => true
  | .or32 _ _ _ _ _ => true
  | .xor32 _ _ _ _ _ => true
  | .andn32 _ _ _ _ _ => true
  | .shl32 _ _ _ _ _ => true
  | .shr32 _ _ _ _ _ => true
  | .rotl32 _ _ _ _ _ => true
  | .rotr32 _ _ _ _ _ => true
  | .min32 _ _ _ _ _ => true
  | .max32 _ _ _ _ _ => true
  | .popc32 _ _ _ _ => true
  | .clz32 _ _ _ _ => true
  | .ctz32 _ _ _ _ => true
  | .mul64 _ _ _ _ _ => true
  | .mulh64 _ _ _ _ _ => true
  | .div64 _ _ _ _ _ => true
  | .rem64 _ _ _ _ _ => true
  | .mul32 _ _ _ _ _ => true
  | .mulh32 _ _ _ _ _ => true
  | .div32 _ _ _ _ _ => true
  | .rem32 _ _ _ _ _ => true
  | .sel _ _ a _ _ => decide (a.toNat < 16)
  | .addImm _ _ _ _ => true
  | .shlImm _ _ _ _ => true
  | .shrN64Imm _ _ _ _ => true
  | .shrI64Imm _ _ _ _ => true
  | .rotlImm _ _ _ _ => true
  | .andImm _ _ _ _ => true
  | .orImm _ _ _ _ => true
  | .xorImm _ _ _ _ => true
  | .li _ _ _ => true
  | .lsi _ _ _ => true
  | .cmp _ d _ _ _ _ c => decide (d.toNat < 16) && decide (c.toNat < 6)
  | .cmpImm _ d _ c _ _ => decide (d.toNat < 16) && decide (c.toNat < 6)
  | .pand _ d a b => decide (d.toNat < 16) && decide (a.toNat < 16) && decide (b.toNat < 16)
  | .por _ d a b => decide (d.toNat < 16) && decide (a.toNat < 16) && decide (b.toNat < 16)
  | .pxor _ d a b => decide (d.toNat < 16) && decide (a.toNat < 16) && decide (b.toNat < 16)
  | .pandn _ d a b => decide (d.toNat < 16) && decide (a.toNat < 16) && decide (b.toNat < 16)
  | .porn _ d a b => decide (d.toNat < 16) && decide (a.toNat < 16) && decide (b.toNat < 16)
  | .pnot _ d a => decide (d.toNat < 16) && decide (a.toNat < 16)
  | .pset _ d => decide (d.toNat < 16)
  | .pclr _ d => decide (d.toNat < 16)
  | .pins _ d _ b => decide (d.toNat < 16) && decide (b.toNat < 4)
  | .pext _ _ a b => decide (a.toNat < 16) && decide (b.toNat < 4)
  | .pcnt _ _ a => decide (a.toNat < 16)
  | .rdctl _ _ n => listedCtl n.toNat
  | .wrctl _ _ n => listedCtl n.toNat
  | .br _ _ => true
  | .jal _ _ => true
  | .jalr _ _ _ _ => true
  | .endH _ => true
  | .yieldH _ => true
  | .ldB _ _ _ _ => true
  | .ldH _ _ _ _ => true
  | .ldW _ _ _ _ => true
  | .ldD _ _ _ _ => true
  | .ldBS _ _ _ _ => true
  | .ldHS _ _ _ _ => true
  | .ldWS _ _ _ _ => true
  | .stB _ _ _ _ => true
  | .stH _ _ _ _ => true
  | .stW _ _ _ _ => true
  | .stD _ _ _ _ => true
  | .ldAcq _ _ _ _ s => decide (s.toNat < 5)
  | .stRel _ _ _ _ s => decide (s.toNat < 5)
  | .ldff _ _ _ _ _ => true
  | .ldfe _ _ _ _ _ => true
  | .fet _ _ _ _ _ => true
  | .stef _ _ _ _ _ => true
  | .stxf _ _ _ _ _ => true
  | .stxe _ _ _ _ _ => true
  | .aswapD _ _ _ _ => true
  | .acasD _ _ _ _ => true
  | .aadd64 _ _ _ _ => true
  | .aandD _ _ _ _ => true
  | .aorD _ _ _ _ => true
  | .axorD _ _ _ _ => true
  | .aminI64 _ _ _ _ => true
  | .amaxI64 _ _ _ _ => true
  | .aminN64 _ _ _ _ => true
  | .amaxN64 _ _ _ _ => true
  | .aadd32 _ _ _ _ => true
  | .aswapW _ _ _ _ => true
  | .acasW _ _ _ _ => true
  | .adecw _ _ _ _ => true
  | .aaddF32 _ _ _ _ => true
  | .aaddF64 _ _ _ _ => true
  | .qadd64 _ _ _ => true
  | .qandD _ _ _ => true
  | .qorD _ _ _ => true
  | .qxorD _ _ _ => true
  | .qminI64 _ _ _ => true
  | .qmaxI64 _ _ _ => true
  | .qminN64 _ _ _ => true
  | .qmaxN64 _ _ _ => true
  | .qadd32 _ _ _ => true
  | .qdecw _ _ _ => true
  | .qaddF32 _ _ _ => true
  | .qaddF64 _ _ _ => true
  | .fence _ s => decide (s.toNat < 5)
  | .fenceAll _ s => decide (s.toNat < 5)
  | .cleanRange _ _ _ => true
  | .invalRange _ _ _ => true
  | .flushRange _ _ _ => true
  | .icsync _ _ _ => true
  | .icinvRange _ _ _ => true
  | .send _ _ _ => true
  | .rpush _ _ _ => true
  | .rpop _ _ _ _ => true
  | .rpeek _ _ _ => true
  | .aldD _ _ _ => true
  | .vld _ _ _ _ => true
  | .vlds _ _ _ _ _ => true
  | .vldx _ _ _ _ _ => true
  | .vst _ _ _ _ => true
  | .vsts _ _ _ _ _ => true
  | .vstx _ _ _ _ _ => true
  | .vaddFp _ _ _ _ _ => true
  | .vsubFp _ _ _ _ _ => true
  | .vmulFp _ _ _ _ _ => true
  | .vdiv _ _ _ _ _ => true
  | .vminFp _ _ _ _ _ => true
  | .vmaxFp _ _ _ _ _ => true
  | .vsqrt _ _ _ _ => true
  | .vabsFp _ _ _ _ => true
  | .vfma _ _ _ _ _ => true
  | .vaddInt _ _ _ _ _ => true
  | .vsubInt _ _ _ _ _ => true
  | .vmulInt _ _ _ _ _ => true
  | .vmulh _ _ _ _ _ => true
  | .vminInt _ _ _ _ _ => true
  | .vmaxInt _ _ _ _ _ => true
  | .vand _ _ _ _ _ => true
  | .vor _ _ _ _ _ => true
  | .vxor _ _ _ _ _ => true
  | .vandn _ _ _ _ _ => true
  | .vshl _ _ _ _ _ => true
  | .vshr _ _ _ _ _ => true
  | .vrotl _ _ _ _ _ => true
  | .vabsInt _ _ _ => true
  | .vadds _ _ _ _ _ => true
  | .vsubs _ _ _ _ _ => true
  | .vcmp _ d _ _ _ c => decide (d.toNat < 16) && decide (c.toNat < 6)
  | .vcvt _ _ _ _ t => decide (t.toNat < 14)
  | .vcvn _ d _ b t => decide (8 ≤ t.toNat) && decide (t.toNat ≤ 12) && decide (d ≠ b)
  | .vrsum _ _ _ => true
  | .vrmin _ _ _ => true
  | .vrmax _ _ _ => true
  | .vrand _ _ _ => true
  | .vror _ _ _ => true
  | .vrxor _ _ _ => true
  | .vssum _ _ _ => true
  | .vsmin _ _ _ => true
  | .vsmax _ _ _ => true
  | .vsand _ _ _ => true
  | .vsor _ _ _ => true
  | .vsxor _ _ _ => true
  | .vbcast _ _ _ => true
  | .vslideup _ _ _ _ => true
  | .vslidedn _ _ _ _ => true
  | .vperm _ _ _ _ => true
  | .vmov _ _ _ => true
  | .vext _ _ _ _ => true
  | .vins _ _ _ _ => true
  | .vpack6 _ d _ b => decide (d ≠ b)
  | .vunp6 _ _ _ _ => true
  | .vpack4 _ _ _ => true
  | .vunp4 _ _ _ => true
  | .vidx _ _ => true
  | .fmtld _ d _ => decide (d.toNat < 8)
  | .fmtrd _ _ a => decide (a.toNat < 8)
  | .vrcp _ _ _ _ => true
  | .vrsqrt _ _ _ _ => true
  | .vexp2 _ _ _ _ => true
  | .vlog2 _ _ _ _ => true
  | .claim _ _ a n => decide (a = 0 ∨ n = 0)
  | .vrelease _ _ a n => decide (a = 0 ∨ n = 0)
  | .mjob _ _ _ => true
  | .cjob _ _ _ => true
  | .coll _ _ _ => true
  | .jcancel _ _ => true
  | .jpoll _ _ _ => true
  | .jwait _ _ _ => true
  | .subs _ _ _ => true
  | .rack _ _ _ => true
  | .unsubs _ _ => true
  | .unrack _ _ => true
  | .aclr _ _ => true
  | .ardr _ _ _ _ => true
  | .awrr _ _ _ _ => true
  | .wclr _ t _ => decide (t.toNat < 8)
  | .wld _ t _ _ => decide (t.toNat < 8)
  | .wldv _ t _ _ => decide (t.toNat < 8)
  | .wset _ t _ _ => decide (t.toNat < 8)
  | .wadd _ t _ _ => decide (t.toNat < 8)
  | .wexp _ t _ => decide (t.toNat < 8)
  | .wcut _ t _ => decide (t.toNat < 8)
  | .wuncut _ t _ => decide (t.toNat < 8)
  | .wget _ d t _ => decide (t.toNat < 8) && evenPair d
  | .wsum _ d t => decide (t.toNat < 8) && evenPair d
  | .wpre _ d t _ => decide (t.toNat < 8) && evenPair d
  | .wfind _ d t _ => decide (t.toNat < 8) && evenPair d
  | .wseq _ _ t => decide (t.toNat < 8)
  | .wst _ _ t _ => decide (t.toNat < 8)
  | .rnd _ _ => true
  | .rndV _ _ => true
  | .pdrop _ d _ => decide (d.toNat < 16)
  | .wdraw _ d t => decide (t.toNat < 8) && evenPair d
  | .splice _ _ _ => true
  | .rbind _ _ _ => true
  | .runbind _ _ => true
  | .trap _ _ => true
  | .reseedPlace _ => true
  | .plprobe _ _ _ _ => true
  | .excq _ _ _ => true
  | .rft _ => true
  | .tinv _ _ _ => true
  | .aspill _ _ => true
  | .atag _ _ _ => true
  | .wspill _ _ => true
  | .wtag _ _ _ => true
  | .keyld _ _ _ => true
  | .saltld _ _ _ => true
  | .immx _ => true
  | .rmode p => decide (p.toNat < 6)
  | .cpol p => decide (p = 1 ∨ p = 2)
  | .order p => decide (p.toNat < 32) && decide (8 ≤ p.toNat) && decide (p.toNat % 8 < 5)
  | .etype p => decide (p.toNat % 16 < 14) && decide (p.extractLsb' 9 3 = 0) && decide (p.extractLsb' 15 1 = 0)
  | .dispatch _ => true
  | .issue _ => true
  | .forward _ _ _ => true
  | .fill _ _ _ => true
  | .performLoad _ _ => true
  | .performStore _ _ => true
  | .writeBack _ => true
  | .drop _ => true
  | .fencePerformed _ _ => true
  | .decrementAndWake _ _ => true
  | .readyPushAccept _ => true
  | .mergeWindowExpire _ _ _ => true
  | .fillReply _ _ _ => true
  | .windowLoadReply _ => true
  | .asyncLoadReply _ _ => true
  | .watchdog _ => true
  | .clockGate _ => true
  | .powerGate _ => true
  | .coreWake _ => true
  | .hangReport _ => true
  | .deadlockScan _ => true
  | .trapEntry _ => true
  | .supCycleLimit _ => true
  | .launchTailWrite _ _ => true
  | .launchRecord _ => true
  | .tileReconfigure _ _ _ => true
  | .tileRelease _ _ => true
  | .tilePublish _ _ => true
  | .tileCmdNop _ _ _ => true
  | .steepFillStart _ _ => true
  | .steepUnitComplete _ _ => true
  | .steepRecordAppend _ _ => true
  | .rackDrainStart _ _ => true
  | .rackUnitComplete _ _ => true
  | .rackRecordWrite _ _ => true
  | .rackAckReread _ _ => true
  | .ringForward _ _ => true
  | .spliceApply _ _ => true
  | .stateTransferRun _ => true
  | .alignmentTimeout _ _ => true
  | .jobStart _ _ => true
  | .matrixRowCommit _ _ => true
  | .copyElement _ _ => true
  | .bankOpElement _ _ => true
  | .jobSuspend _ _ => true
  | .jobComplete _ _ => true
  | .wakeMessageDelivery _ _ => true
  | .collectiveComplete _ _ => true
  | .collectiveTimeout _ _ => true
  | .arbitrationSlot cls _ => decide (cls.toNat < 10)
  | .arbKeyUpdate cls _ _ => decide (cls.toNat < 10)
  | .placementEpochStart _ => true
  | .sweepSetVisit _ _ => true
  | .throttleWindowExpire _ _ => true
  | .limiterRefill _ cls _ => decide (cls.toNat < 10)
  | .hbmRefresh _ => true
  | .linkRetrain cls _ => decide (cls.toNat < 10)
  | .frequencyChange island _ => decide (island.toNat < 32)
  | .faultRecordWrite _ => true
  | .faultReplyReplay _ _ _ => true
  | .faultReplyReject _ _ _ => true
  | .tinvComplete _ => true
  | .icinvComplete _ => true
  | .keyldComplete _ => true
  | .commitVdEntry f => decide (f.toNat < 64)
  | .commitOwnerEntry _ => true
  | .commitPropagate => true
  | .ownerRetirement _ => true
  | .scheduleEnable _ => true
  | .scheduleDisable => true
  | .roundEnd _ => true
  | .sliceQuiesce _ => true
  | .sliceDrain _ => true
  | .sliceSave _ => true
  | .sliceSwitch _ => true
  | .restore _ => true
  | .savedInboxEntry _ => true
  | .interruptSend _ _ => true
  | .coalesceTimeout _ _ => true
  | .errorLogRecord => true
  | .flitCheckFail cls _ _ _ _ => decide (cls.toNat < 10)
  | .moduleFatal _ => true
  | .hostPortAccess _ _ _ _ => true
  | .coldReset => true
  | .warmReset _ => true
  | .hbmTrainingDone _ => true
  | .hbmTrainingFail _ => true
  | .linkBringupDone => true
  | .attestReport => true
  | .stageImage => true
  | .powerCheck => true
  | .pwrlimWrite _ => true
  | .capcntClear => true
  | .telemetryRefresh => true
  | .correctedCounterClear code => decide (code.toNat ≤ 20)
  | .thermalThrottle island => decide (island.toNat < 48)
  | .registerWrite _ _ _ => true
  | .collectiveMove _ _ => true
  | .vectorUnmask _ _ => true
  | .retrainingComplete cls _ => decide (cls.toNat < 10)

end Sys2Proof
end

