-- ==== Sys2Proof/Decode.lean ====
section
/-!
DEFINITION. The encoding of the Glaeg words (spec/08_encoding.md R148 to R172): the fields of a word, the decoder with
the order of checks of R171 and the reasons of R172, the rules of a hint chain (R154, R155, R164, R165, R217, R218),
and the encoder.
-/
namespace Sys2Proof

/-! ### The fields of a word (R148, R150) -/

/-- Bits [31:26]: E, N and G. -/
def fGuard (w : Code) : BitVec 6 := w.extractLsb' 26 6
/-- Bits [25:20]: the major opcode. -/
def fMaj (w : Code) : BitVec 6 := w.extractLsb' 20 6
/-- Bits [19:15]. -/
def fD (w : Code) : BitVec 5 := w.extractLsb' 15 5
/-- Bits [14:10]. -/
def fA (w : Code) : BitVec 5 := w.extractLsb' 10 5
/-- Bits [9:5]. -/
def fB (w : Code) : BitVec 5 := w.extractLsb' 5 5
/-- Bits [4:0]: the function code of the RRR format, or c of RRRR. -/
def fFn (w : Code) : BitVec 5 := w.extractLsb' 0 5
/-- Bits [9:0]: imm10 of the RRI format. -/
def fImm10 (w : Code) : BitVec 10 := w.extractLsb' 0 10
/-- Bits [14:0]: imm15 of the RI format. -/
def fImm15 (w : Code) : BitVec 15 := w.extractLsb' 0 15
/-- Bits [19:0]: off20 of the BR format. -/
def fOff20 (w : Code) : BitVec 20 := w.extractLsb' 0 20
/-- Bits [9:7]: the kind of the MEM format. -/
def fKind (w : Code) : BitVec 3 := w.extractLsb' 7 3
/-- Bits [6:0]: off7 of the MEM format. -/
def fOff7 (w : Code) : BitVec 7 := w.extractLsb' 0 7
/-- Bits [19:16] of a hint word: its kind (R153). -/
def hintKind (w : Code) : BitVec 4 := w.extractLsb' 16 4
/-- Bits [15:0] of a hint word: its payload (R153). -/
def hintPayload (w : Code) : BitVec 16 := w.extractLsb' 0 16

/-- The guard that bits [31:26] name (R13, R148); none where R149 makes the word illegal. -/
def decodeGuard (x : BitVec 6) : Option Guard :=
  match (x.extractLsb' 4 2).toNat with
  | 0 => if x = 0 then some .none else none
  | 2 => some (.pos (x.extractLsb' 0 4))
  | 3 => some (.neg (x.extractLsb' 0 4))
  | _ => none

/-- Bits [31:26] of a guard (R13). -/
def guardBits : Guard → BitVec 6
  | .none => 0#6
  | .pos g => 2#2 ++ g
  | .neg g => 3#2 ++ g

/-- What the first four checks of R171 find in one word: a reason of R172 (0x0 to 0x4), or the instruction. -/
abbrev Decoded := Except Nat Instr

/-- An assigned code whose unused fields are `ok` (R151, step 4 of R171). -/
def fields (ok : Bool) (i : Instr) : Decoded := if ok && i.wf then .ok i else .error 3

/-- Function codes of major 0x01. -/
def decodeInt64 (gd : Guard) (d a b f : BitVec 5) : Decoded :=
  match f.toNat with
  | 0 | 16 => fields (true) (.add64 gd d a b (f.extractLsb' 4 1))
  | 1 | 17 => fields (true) (.sub64 gd d a b (f.extractLsb' 4 1))
  | 2 | 18 => fields (true) (.and64 gd d a b (f.extractLsb' 4 1))
  | 3 | 19 => fields (true) (.or64 gd d a b (f.extractLsb' 4 1))
  | 4 | 20 => fields (true) (.xor64 gd d a b (f.extractLsb' 4 1))
  | 5 | 21 => fields (true) (.andn64 gd d a b (f.extractLsb' 4 1))
  | 6 | 22 => fields (true) (.shl64 gd d a b (f.extractLsb' 4 1))
  | 7 | 23 => fields (true) (.shr64 gd d a b (f.extractLsb' 4 1))
  | 8 | 24 => fields (true) (.rotl64 gd d a b (f.extractLsb' 4 1))
  | 9 | 25 => fields (true) (.rotr64 gd d a b (f.extractLsb' 4 1))
  | 10 | 26 => fields (true) (.min64 gd d a b (f.extractLsb' 4 1))
  | 11 | 27 => fields (true) (.max64 gd d a b (f.extractLsb' 4 1))
  | 12 | 28 => fields (decide (b = 0)) (.popc64 gd d a (f.extractLsb' 4 1))
  | 13 | 29 => fields (decide (b = 0)) (.clz64 gd d a (f.extractLsb' 4 1))
  | 14 | 30 => fields (decide (b = 0)) (.ctz64 gd d a (f.extractLsb' 4 1))
  | _ => .error 1

/-- Function codes of major 0x02. -/
def decodeInt32 (gd : Guard) (d a b f : BitVec 5) : Decoded :=
  match f.toNat with
  | 0 | 16 => fields (true) (.add32 gd d a b (f.extractLsb' 4 1))
  | 1 | 17 => fields (true) (.sub32 gd d a b (f.extractLsb' 4 1))
  | 2 | 18 => fields (true) (.and32 gd d a b (f.extractLsb' 4 1))
  | 3 | 19 => fields (true) (.or32 gd d a b (f.extractLsb' 4 1))
  | 4 | 20 => fields (true) (.xor32 gd d a b (f.extractLsb' 4 1))
  | 5 | 21 => fields (true) (.andn32 gd d a b (f.extractLsb' 4 1))
  | 6 | 22 => fields (true) (.shl32 gd d a b (f.extractLsb' 4 1))
  | 7 | 23 => fields (true) (.shr32 gd d a b (f.extractLsb' 4 1))
  | 8 | 24 => fields (true) (.rotl32 gd d a b (f.extractLsb' 4 1))
  | 9 | 25 => fields (true) (.rotr32 gd d a b (f.extractLsb' 4 1))
  | 10 | 26 => fields (true) (.min32 gd d a b (f.extractLsb' 4 1))
  | 11 | 27 => fields (true) (.max32 gd d a b (f.extractLsb' 4 1))
  | 12 | 28 => fields (decide (b = 0)) (.popc32 gd d a (f.extractLsb' 4 1))
  | 13 | 29 => fields (decide (b = 0)) (.clz32 gd d a (f.extractLsb' 4 1))
  | 14 | 30 => fields (decide (b = 0)) (.ctz32 gd d a (f.extractLsb' 4 1))
  | _ => .error 1

/-- Function codes of major 0x03. -/
def decodeMulDiv (gd : Guard) (d a b f : BitVec 5) : Decoded :=
  match f.toNat with
  | 0 | 16 => fields (true) (.mul64 gd d a b (f.extractLsb' 4 1))
  | 1 | 17 => fields (true) (.mulh64 gd d a b (f.extractLsb' 4 1))
  | 2 | 18 => fields (true) (.div64 gd d a b (f.extractLsb' 4 1))
  | 3 | 19 => fields (true) (.rem64 gd d a b (f.extractLsb' 4 1))
  | 8 | 24 => fields (true) (.mul32 gd d a b (f.extractLsb' 4 1))
  | 9 | 25 => fields (true) (.mulh32 gd d a b (f.extractLsb' 4 1))
  | 10 | 26 => fields (true) (.div32 gd d a b (f.extractLsb' 4 1))
  | 11 | 27 => fields (true) (.rem32 gd d a b (f.extractLsb' 4 1))
  | _ => .error 1

/-- Function codes of major 0x09. -/
def decodeCmp (gd : Guard) (d a b f : BitVec 5) : Decoded :=
  match f.toNat with
  | 0 | 1 | 2 | 3 | 4 | 5 | 8 | 9 | 10 | 11 | 12 | 13 | 16 | 17 | 18 | 19 | 20 | 21 | 24 | 25 | 26 | 27 | 28 | 29 => fields (true) (.cmp gd d a b (f.extractLsb' 4 1) (f.extractLsb' 3 1) (f.extractLsb' 0 3))
  | _ => .error 1

/-- Function codes of major 0x0B. -/
def decodePred (gd : Guard) (d a b f : BitVec 5) : Decoded :=
  match f.toNat with
  | 0 => fields (true) (.pand gd d a b)
  | 1 => fields (true) (.por gd d a b)
  | 2 => fields (true) (.pxor gd d a b)
  | 3 => fields (true) (.pandn gd d a b)
  | 4 => fields (true) (.porn gd d a b)
  | 5 => fields (decide (b = 0)) (.pnot gd d a)
  | 6 => fields (decide (a = 0) && decide (b = 0)) (.pset gd d)
  | 7 => fields (decide (a = 0) && decide (b = 0)) (.pclr gd d)
  | 8 => fields (true) (.pins gd d a b)
  | 9 => fields (true) (.pext gd d a b)
  | 10 => fields (decide (b = 0)) (.pcnt gd d a)
  | 16 => fields (true) (.rdctl gd d (a ++ b))
  | 17 => fields (true) (.wrctl gd d (a ++ b))
  | _ => .error 1

/-- Function codes of major 0x13. -/
def decodeEnd (gd : Guard) (d a b f : BitVec 5) : Decoded :=
  match f.toNat with
  | 0 => fields (decide (d = 0) && decide (a = 0) && decide (b = 0)) (.endH gd)
  | 1 => fields (decide (d = 0) && decide (a = 0) && decide (b = 0)) (.yieldH gd)
  | _ => .error 1

/-- Function codes of major 0x1C. -/
def decodeAtomic (gd : Guard) (d a b f : BitVec 5) : Decoded :=
  match f.toNat with
  | 0 => fields (true) (.aswapD gd d a b)
  | 1 => fields (true) (.acasD gd d a b)
  | 2 => fields (true) (.aadd64 gd d a b)
  | 3 => fields (true) (.aandD gd d a b)
  | 4 => fields (true) (.aorD gd d a b)
  | 5 => fields (true) (.axorD gd d a b)
  | 6 => fields (true) (.aminI64 gd d a b)
  | 7 => fields (true) (.amaxI64 gd d a b)
  | 8 => fields (true) (.aminN64 gd d a b)
  | 9 => fields (true) (.amaxN64 gd d a b)
  | 10 => fields (true) (.aadd32 gd d a b)
  | 11 => fields (true) (.aswapW gd d a b)
  | 12 => fields (true) (.acasW gd d a b)
  | 13 => fields (true) (.adecw gd d a b)
  | 14 => fields (true) (.aaddF32 gd d a b)
  | 15 => fields (true) (.aaddF64 gd d a b)
  | 18 => fields (decide (d = 0)) (.qadd64 gd a b)
  | 19 => fields (decide (d = 0)) (.qandD gd a b)
  | 20 => fields (decide (d = 0)) (.qorD gd a b)
  | 21 => fields (decide (d = 0)) (.qxorD gd a b)
  | 22 => fields (decide (d = 0)) (.qminI64 gd a b)
  | 23 => fields (decide (d = 0)) (.qmaxI64 gd a b)
  | 24 => fields (decide (d = 0)) (.qminN64 gd a b)
  | 25 => fields (decide (d = 0)) (.qmaxN64 gd a b)
  | 26 => fields (decide (d = 0)) (.qadd32 gd a b)
  | 29 => fields (decide (d = 0)) (.qdecw gd a b)
  | 30 => fields (decide (d = 0)) (.qaddF32 gd a b)
  | 31 => fields (decide (d = 0)) (.qaddF64 gd a b)
  | _ => .error 1

/-- Function codes of major 0x1D. -/
def decodeRange (gd : Guard) (d a b f : BitVec 5) : Decoded :=
  match f.toNat with
  | 0 => fields (decide (a = 0) && decide (b = 0)) (.fence gd d)
  | 1 => fields (decide (a = 0) && decide (b = 0)) (.fenceAll gd d)
  | 2 => fields (decide (d = 0)) (.cleanRange gd a b)
  | 3 => fields (decide (d = 0)) (.invalRange gd a b)
  | 4 => fields (decide (d = 0)) (.flushRange gd a b)
  | 5 => fields (decide (d = 0)) (.icsync gd a b)
  | 6 => fields (decide (d = 0)) (.icinvRange gd a b)
  | _ => .error 1

/-- Function codes of major 0x1E. -/
def decodeMessage (gd : Guard) (d a b f : BitVec 5) : Decoded :=
  match f.toNat with
  | 0 => fields (decide (d = 0)) (.send gd a b)
  | 1 => fields (decide (d = 0)) (.rpush gd a b)
  | 2 => fields (true) (.rpop gd d a b)
  | 3 => fields (decide (a = 0)) (.rpeek gd d b)
  | 4 => fields (decide (d = 0)) (.aldD gd a b)
  | _ => .error 1

/-- Function codes of major 0x20. -/
def decodeVMem (gd : Guard) (d a b f : BitVec 5) : Decoded :=
  match f.toNat with
  | 0 | 1 | 2 | 3 => fields (decide (b = 0)) (.vld gd d a (f.extractLsb' 0 2))
  | 4 | 5 | 6 | 7 => fields (true) (.vlds gd d a b (f.extractLsb' 0 2))
  | 8 | 9 | 10 | 11 => fields (true) (.vldx gd d a b (f.extractLsb' 0 2))
  | 16 | 17 | 18 | 19 => fields (decide (b = 0)) (.vst gd d a (f.extractLsb' 0 2))
  | 20 | 21 | 22 | 23 => fields (true) (.vsts gd d a b (f.extractLsb' 0 2))
  | 24 | 25 | 26 | 27 => fields (true) (.vstx gd d a b (f.extractLsb' 0 2))
  | _ => .error 1

/-- Function codes of major 0x21. -/
def decodeVFloat (gd : Guard) (d a b f : BitVec 5) : Decoded :=
  match f.toNat with
  | 0 | 8 | 16 | 24 => fields (true) (.vaddFp gd d a b (f.extractLsb' 3 2))
  | 1 | 9 | 17 | 25 => fields (true) (.vsubFp gd d a b (f.extractLsb' 3 2))
  | 2 | 10 | 18 | 26 => fields (true) (.vmulFp gd d a b (f.extractLsb' 3 2))
  | 3 | 11 | 19 | 27 => fields (true) (.vdiv gd d a b (f.extractLsb' 3 2))
  | 4 | 12 | 20 | 28 => fields (true) (.vminFp gd d a b (f.extractLsb' 3 2))
  | 5 | 13 | 21 | 29 => fields (true) (.vmaxFp gd d a b (f.extractLsb' 3 2))
  | 6 | 14 | 22 | 30 => fields (decide (b = 0)) (.vsqrt gd d a (f.extractLsb' 3 2))
  | 7 | 15 | 23 | 31 => fields (decide (b = 0)) (.vabsFp gd d a (f.extractLsb' 3 2))
  | _ => .error 1

/-- Function codes of major 0x23. -/
def decodeVInt (gd : Guard) (d a b f : BitVec 5) : Decoded :=
  match f.toNat with
  | 0 | 16 => fields (true) (.vaddInt gd d a b (f.extractLsb' 4 1))
  | 1 | 17 => fields (true) (.vsubInt gd d a b (f.extractLsb' 4 1))
  | 2 | 18 => fields (true) (.vmulInt gd d a b (f.extractLsb' 4 1))
  | 3 | 19 => fields (true) (.vmulh gd d a b (f.extractLsb' 4 1))
  | 4 | 20 => fields (true) (.vminInt gd d a b (f.extractLsb' 4 1))
  | 5 | 21 => fields (true) (.vmaxInt gd d a b (f.extractLsb' 4 1))
  | 6 | 22 => fields (true) (.vand gd d a b (f.extractLsb' 4 1))
  | 7 | 23 => fields (true) (.vor gd d a b (f.extractLsb' 4 1))
  | 8 | 24 => fields (true) (.vxor gd d a b (f.extractLsb' 4 1))
  | 9 | 25 => fields (true) (.vandn gd d a b (f.extractLsb' 4 1))
  | 10 | 26 => fields (true) (.vshl gd d a b (f.extractLsb' 4 1))
  | 11 | 27 => fields (true) (.vshr gd d a b (f.extractLsb' 4 1))
  | 12 | 28 => fields (true) (.vrotl gd d a b (f.extractLsb' 4 1))
  | 13 | 29 => fields (decide (b = 0) && decide (f.extractLsb' 4 1 = 0)) (.vabsInt gd d a)
  | 14 | 30 => fields (true) (.vadds gd d a b (f.extractLsb' 4 1))
  | 15 | 31 => fields (true) (.vsubs gd d a b (f.extractLsb' 4 1))
  | _ => .error 1

/-- Function codes of major 0x24. -/
def decodeVCmp (gd : Guard) (d a b f : BitVec 5) : Decoded :=
  match f.toNat with
  | 0 | 1 | 2 | 3 | 4 | 5 | 8 | 9 | 10 | 11 | 12 | 13 | 16 | 17 | 18 | 19 | 20 | 21 | 24 | 25 | 26 | 27 | 28 | 29 => fields (decide (f.extractLsb' 3 1 = 0)) (.vcmp gd d a b (f.extractLsb' 4 1) (f.extractLsb' 0 3))
  | _ => .error 1

/-- Function codes of major 0x25. -/
def decodeVCvt (gd : Guard) (d a b f : BitVec 5) : Decoded :=
  match f.toNat with
  | 0 | 1 | 2 | 3 | 4 | 5 | 6 | 7 | 8 | 9 | 10 | 11 | 12 | 13 => fields (true) (.vcvt gd d a b (f.extractLsb' 0 4))
  | 24 | 25 | 26 | 27 | 28 => fields (true) (.vcvn gd d a b (f.extractLsb' 0 4))
  | _ => .error 1

/-- Function codes of major 0x26. -/
def decodeVReduce (gd : Guard) (d a b f : BitVec 5) : Decoded :=
  match f.toNat with
  | 0 => fields (decide (b = 0)) (.vrsum gd d a)
  | 1 => fields (decide (b = 0)) (.vrmin gd d a)
  | 2 => fields (decide (b = 0)) (.vrmax gd d a)
  | 3 => fields (decide (b = 0)) (.vrand gd d a)
  | 4 => fields (decide (b = 0)) (.vror gd d a)
  | 5 => fields (decide (b = 0)) (.vrxor gd d a)
  | 16 => fields (decide (b = 0)) (.vssum gd d a)
  | 17 => fields (decide (b = 0)) (.vsmin gd d a)
  | 18 => fields (decide (b = 0)) (.vsmax gd d a)
  | 19 => fields (decide (b = 0)) (.vsand gd d a)
  | 20 => fields (decide (b = 0)) (.vsor gd d a)
  | 21 => fields (decide (b = 0)) (.vsxor gd d a)
  | _ => .error 1

/-- Function codes of major 0x27. -/
def decodeVPerm (gd : Guard) (d a b f : BitVec 5) : Decoded :=
  match f.toNat with
  | 0 => fields (decide (b = 0)) (.vbcast gd d a)
  | 1 => fields (true) (.vslideup gd d a b)
  | 2 => fields (true) (.vslidedn gd d a b)
  | 3 => fields (true) (.vperm gd d a b)
  | 4 => fields (decide (b = 0)) (.vmov gd d a)
  | 5 => fields (true) (.vext gd d a b)
  | 6 => fields (true) (.vins gd d a b)
  | 7 => fields (true) (.vpack6 gd d a b)
  | 8 => fields (true) (.vunp6 gd d a b)
  | 9 => fields (decide (b = 0)) (.vpack4 gd d a)
  | 10 => fields (decide (b = 0)) (.vunp4 gd d a)
  | 11 => fields (decide (a = 0) && decide (b = 0)) (.vidx gd d)
  | 12 => fields (decide (b = 0)) (.fmtld gd d a)
  | 13 => fields (decide (b = 0)) (.fmtrd gd d a)
  | _ => .error 1

/-- Function codes of major 0x28. -/
def decodeVApprox (gd : Guard) (d a b f : BitVec 5) : Decoded :=
  match f.toNat with
  | 0 | 8 | 16 | 24 => fields (decide (b = 0)) (.vrcp gd d a (f.extractLsb' 3 2))
  | 1 | 9 | 17 | 25 => fields (decide (b = 0)) (.vrsqrt gd d a (f.extractLsb' 3 2))
  | 2 | 10 | 18 | 26 => fields (decide (b = 0)) (.vexp2 gd d a (f.extractLsb' 3 2))
  | 3 | 11 | 19 | 27 => fields (decide (b = 0)) (.vlog2 gd d a (f.extractLsb' 3 2))
  | _ => .error 1

/-- Function codes of major 0x30. -/
def decodeJob (gd : Guard) (d a b f : BitVec 5) : Decoded :=
  match f.toNat with
  | 0 => fields (decide (b = 0)) (.mjob gd d a)
  | 1 => fields (decide (b = 0)) (.cjob gd d a)
  | 2 => fields (decide (b = 0)) (.coll gd d a)
  | 3 => fields (decide (d = 0) && decide (b = 0)) (.jcancel gd a)
  | _ => .error 1

/-- Function codes of major 0x31. -/
def decodeJobWait (gd : Guard) (d a b f : BitVec 5) : Decoded :=
  match f.toNat with
  | 0 => fields (decide (b = 0)) (.jpoll gd d a)
  | 1 => fields (decide (b = 0)) (.jwait gd d a)
  | _ => .error 1

/-- Function codes of major 0x32. -/
def decodeAgent (gd : Guard) (d a b f : BitVec 5) : Decoded :=
  match f.toNat with
  | 0 => fields (decide (b = 0)) (.subs gd d a)
  | 1 => fields (decide (b = 0)) (.rack gd d a)
  | 2 => fields (decide (d = 0) && decide (b = 0)) (.unsubs gd a)
  | 3 => fields (decide (d = 0) && decide (b = 0)) (.unrack gd a)
  | _ => .error 1

/-- Function codes of major 0x33. -/
def decodeAcc (gd : Guard) (d a b f : BitVec 5) : Decoded :=
  match f.toNat with
  | 0 => fields (decide (d = 0) && decide (b = 0)) (.aclr gd a)
  | 1 => fields (true) (.ardr gd d a b)
  | 2 => fields (true) (.awrr gd d a b)
  | _ => .error 1

/-- Function codes of major 0x34. -/
def decodeTreeUpdate (gd : Guard) (d a b f : BitVec 5) : Decoded :=
  match f.toNat with
  | 0 => fields (decide (b = 0)) (.wclr gd d a)
  | 1 => fields (true) (.wld gd d a b)
  | 2 => fields (true) (.wldv gd d a b)
  | 3 => fields (true) (.wset gd d a b)
  | 4 => fields (true) (.wadd gd d a b)
  | 5 => fields (decide (b = 0)) (.wexp gd d a)
  | 6 => fields (decide (b = 0)) (.wcut gd d a)
  | 7 => fields (decide (b = 0)) (.wuncut gd d a)
  | _ => .error 1

/-- Function codes of major 0x35. -/
def decodeTreeQuery (gd : Guard) (d a b f : BitVec 5) : Decoded :=
  match f.toNat with
  | 0 => fields (true) (.wget gd d a b)
  | 1 => fields (decide (b = 0)) (.wsum gd d a)
  | 2 => fields (true) (.wpre gd d a b)
  | 3 => fields (true) (.wfind gd d a b)
  | 4 => fields (decide (b = 0)) (.wseq gd d a)
  | 5 => fields (true) (.wst gd d a b)
  | _ => .error 1

/-- Function codes of major 0x36. -/
def decodeRandom (gd : Guard) (d a b f : BitVec 5) : Decoded :=
  match f.toNat with
  | 0 => fields (decide (a = 0) && decide (b = 0)) (.rnd gd d)
  | 1 => fields (decide (a = 0) && decide (b = 0)) (.rndV gd d)
  | 2 => fields (decide (b = 0)) (.pdrop gd d a)
  | 3 => fields (decide (b = 0)) (.wdraw gd d a)
  | _ => .error 1

/-- Function codes of major 0x37. -/
def decodeSplice (gd : Guard) (d a b f : BitVec 5) : Decoded :=
  match f.toNat with
  | 0 => fields (decide (d = 0)) (.splice gd a b)
  | 1 => fields (decide (d = 0)) (.rbind gd a b)
  | 2 => fields (decide (d = 0) && decide (a = 0)) (.runbind gd b)
  | _ => .error 1

/-- Function codes of major 0x38. -/
def decodeSystem (gd : Guard) (d a b f : BitVec 5) : Decoded :=
  match f.toNat with
  | 0 => fields (decide (d = 0) && decide (b = 0)) (.trap gd a)
  | 1 => fields (decide (d = 0) && decide (a = 0) && decide (b = 0)) (.reseedPlace gd)
  | 2 => fields (true) (.plprobe gd d a b)
  | 3 => fields (decide (d = 0)) (.excq gd a b)
  | _ => .error 1

/-- Function codes of major 0x39. -/
def decodePriv (gd : Guard) (d a b f : BitVec 5) : Decoded :=
  match f.toNat with
  | 0 => fields (decide (d = 0) && decide (a = 0) && decide (b = 0)) (.rft gd)
  | 1 => fields (decide (d = 0)) (.tinv gd a b)
  | 2 => fields (decide (d = 0) && decide (b = 0)) (.aspill gd a)
  | 3 => fields (decide (d = 0)) (.atag gd a b)
  | 4 => fields (decide (d = 0) && decide (b = 0)) (.wspill gd a)
  | 5 => fields (decide (d = 0)) (.wtag gd a b)
  | 6 => fields (decide (d = 0)) (.keyld gd a b)
  | 7 => fields (decide (d = 0)) (.saltld gd a b)
  | _ => .error 1

/-- Majors 0x06 and 0x0A subdivide imm10 (R158). -/
def decodeShiftImm (gd : Guard) (d a : BitVec 5) (i : BitVec 10) : Decoded :=
  match (i.extractLsb' 6 4).toNat with
  | 0 => fields true (.shlImm gd d a (i.extractLsb' 0 6))
  | 1 => fields true (.shrN64Imm gd d a (i.extractLsb' 0 6))
  | 2 => fields true (.shrI64Imm gd d a (i.extractLsb' 0 6))
  | 3 => fields true (.rotlImm gd d a (i.extractLsb' 0 6))
  | 4 => fields true (.andImm gd d a (i.extractLsb' 0 6))
  | 5 => fields true (.orImm gd d a (i.extractLsb' 0 6))
  | 6 => fields true (.xorImm gd d a (i.extractLsb' 0 6))
  | _ => .error 1

/-- Major 0x0A (R158): condition codes 6 and 7 are unassigned. -/
def decodeCmpImm (gd : Guard) (d a : BitVec 5) (i : BitVec 10) : Decoded :=
  if (i.extractLsb' 7 3).toNat < 6 then
    fields true (.cmpImm gd d a (i.extractLsb' 7 3) (i.extractLsb' 6 1) (i.extractLsb' 0 6))
  else .error 1

/-- Major 0x29 (R167): bit 9 of imm10 is R. -/
def decodeClaim (gd : Guard) (d a : BitVec 5) (i : BitVec 10) : Decoded :=
  match (i.extractLsb' 9 1).toNat with
  | 0 => fields true (.claim gd d a (i.extractLsb' 0 9))
  | _ => fields true (.vrelease gd d a (i.extractLsb' 0 9))

/-- Major 0x18 (R160). -/
def decodeLoad (gd : Guard) (d b : BitVec 5) (k : BitVec 3) (o : BitVec 7) : Decoded :=
  match k.toNat with
  | 0 => fields true (.ldB gd d b o)
  | 1 => fields true (.ldH gd d b o)
  | 2 => fields true (.ldW gd d b o)
  | 3 => fields true (.ldD gd d b o)
  | 4 => fields true (.ldBS gd d b o)
  | 5 => fields true (.ldHS gd d b o)
  | 6 => fields true (.ldWS gd d b o)
  | _ => .error 1

/-- Major 0x19 (R160). -/
def decodeStore (gd : Guard) (d b : BitVec 5) (k : BitVec 3) (o : BitVec 7) : Decoded :=
  match k.toNat with
  | 0 => fields true (.stB gd d b o)
  | 1 => fields true (.stH gd d b o)
  | 2 => fields true (.stW gd d b o)
  | 3 => fields true (.stD gd d b o)
  | _ => .error 1

/-- Major 0x1A (R160, R191): [3:0] is res0. -/
def decodeAcqRel (gd : Guard) (d b : BitVec 5) (k : BitVec 3) (o : BitVec 7) : Decoded :=
  match (k.extractLsb' 2 1).toNat with
  | 0 => fields (decide (o.extractLsb' 0 4 = 0)) (.ldAcq gd d b (k.extractLsb' 0 2) (o.extractLsb' 4 3))
  | _ => fields (decide (o.extractLsb' 0 4 = 0)) (.stRel gd d b (k.extractLsb' 0 2) (o.extractLsb' 4 3))

/-- Major 0x1B (R160, R192). -/
def decodeFullEmpty (gd : Guard) (d b : BitVec 5) (k : BitVec 3) (o : BitVec 7) : Decoded :=
  match k.toNat with
  | 0 => fields true (.ldff gd d b (o.extractLsb' 6 1) (o.extractLsb' 0 6))
  | 1 => fields true (.ldfe gd d b (o.extractLsb' 6 1) (o.extractLsb' 0 6))
  | 2 => fields true (.fet gd d b (o.extractLsb' 6 1) (o.extractLsb' 0 6))
  | 4 => fields true (.stef gd d b (o.extractLsb' 6 1) (o.extractLsb' 0 6))
  | 5 => fields true (.stxf gd d b (o.extractLsb' 6 1) (o.extractLsb' 0 6))
  | 6 => fields true (.stxe gd d b (o.extractLsb' 6 1) (o.extractLsb' 0 6))
  | _ => .error 1

/-- The hint kinds of R153; a reserved kind or an illegal payload has reason 0x4. -/
noncomputable def decodeHint (w : Code) : Decoded :=
  let p := hintPayload w
  let i : Option Instr :=
    match (hintKind w).toNat with
    | 0 => some (.immx p)
    | 1 => some (.rmode p)
    | 2 => some (.cpol p)
    | 3 => some (.order p)
    | 4 => some (.etype p)
    | _ => none
  match i with
  | some i => if i.wf then .ok i else .error 4
  | none => .error 4

/-- The major opcode map (R157): steps 2 to 4 of R171 for a word that is no hint. -/
def decodeMajor (gd : Guard) (w : Code) : Decoded :=
  match (fMaj w).toNat with
  | 1 => decodeInt64 gd (fD w) (fA w) (fB w) (fFn w)
  | 2 => decodeInt32 gd (fD w) (fA w) (fB w) (fFn w)
  | 3 => decodeMulDiv gd (fD w) (fA w) (fB w) (fFn w)
  | 4 => fields true (.sel gd (fD w) (fA w) (fB w) (fFn w))
  | 5 => fields true (.addImm gd (fD w) (fA w) (fImm10 w))
  | 6 => decodeShiftImm gd (fD w) (fA w) (fImm10 w)
  | 7 => fields true (.li gd (fD w) (fImm15 w))
  | 8 => fields true (.lsi gd (fD w) (fImm15 w))
  | 9 => decodeCmp gd (fD w) (fA w) (fB w) (fFn w)
  | 10 => decodeCmpImm gd (fD w) (fA w) (fImm10 w)
  | 11 => decodePred gd (fD w) (fA w) (fB w) (fFn w)
  | 16 => fields true (.br gd (fOff20 w))
  | 17 => fields true (.jal gd (fOff20 w))
  | 18 => fields true (.jalr gd (fD w) (fA w) (fImm10 w))
  | 19 => decodeEnd gd (fD w) (fA w) (fB w) (fFn w)
  | 24 => decodeLoad gd (fD w) (fA w) (fKind w) (fOff7 w)
  | 25 => decodeStore gd (fD w) (fA w) (fKind w) (fOff7 w)
  | 26 => decodeAcqRel gd (fD w) (fA w) (fKind w) (fOff7 w)
  | 27 => decodeFullEmpty gd (fD w) (fA w) (fKind w) (fOff7 w)
  | 28 => decodeAtomic gd (fD w) (fA w) (fB w) (fFn w)
  | 29 => decodeRange gd (fD w) (fA w) (fB w) (fFn w)
  | 30 => decodeMessage gd (fD w) (fA w) (fB w) (fFn w)
  | 32 => decodeVMem gd (fD w) (fA w) (fB w) (fFn w)
  | 33 => decodeVFloat gd (fD w) (fA w) (fB w) (fFn w)
  | 34 => fields true (.vfma gd (fD w) (fA w) (fB w) (fFn w))
  | 35 => decodeVInt gd (fD w) (fA w) (fB w) (fFn w)
  | 36 => decodeVCmp gd (fD w) (fA w) (fB w) (fFn w)
  | 37 => decodeVCvt gd (fD w) (fA w) (fB w) (fFn w)
  | 38 => decodeVReduce gd (fD w) (fA w) (fB w) (fFn w)
  | 39 => decodeVPerm gd (fD w) (fA w) (fB w) (fFn w)
  | 40 => decodeVApprox gd (fD w) (fA w) (fB w) (fFn w)
  | 41 => decodeClaim gd (fD w) (fA w) (fImm10 w)
  | 48 => decodeJob gd (fD w) (fA w) (fB w) (fFn w)
  | 49 => decodeJobWait gd (fD w) (fA w) (fB w) (fFn w)
  | 50 => decodeAgent gd (fD w) (fA w) (fB w) (fFn w)
  | 51 => decodeAcc gd (fD w) (fA w) (fB w) (fFn w)
  | 52 => decodeTreeUpdate gd (fD w) (fA w) (fB w) (fFn w)
  | 53 => decodeTreeQuery gd (fD w) (fA w) (fB w) (fFn w)
  | 54 => decodeRandom gd (fD w) (fA w) (fB w) (fFn w)
  | 55 => decodeSplice gd (fD w) (fA w) (fB w) (fFn w)
  | 56 => decodeSystem gd (fD w) (fA w) (fB w) (fFn w)
  | 57 => decodePriv gd (fD w) (fA w) (fB w) (fFn w)
  | _ => .error 0

/-- Whether a word is a hint word (R153). -/
def isHint (w : Code) : Bool := (fMaj w).toNat == 0x3F

/-- Steps 1 to 4 of R171 for one word that is no hint. -/
def decodeWord (w : Code) : Decoded :=
  match decodeGuard (fGuard w) with
  | none => .error 2
  | some gd => decodeMajor gd w

/-- Steps 1 to 4 of R171 for one word on its own: the reason of R172, or the instruction. (Without compiled code, as
is `decodeHint`: the runtime cannot build a constructor past the 244th; the kernel can, and `step` builds none.) -/
noncomputable def decode (w : Code) : Decoded :=
  if isHint w then (if fGuard w = 0 then decodeHint w else .error 2) else decodeWord w

/-! ### The encoder -/

/-- The RRR and RRRR layouts of R150. -/
def packRRR (g m : BitVec 6) (d a b f : BitVec 5) : Code := g ++ m ++ d ++ a ++ b ++ f
/-- The RRI layout. -/
def packRRI (g m : BitVec 6) (d a : BitVec 5) (i : BitVec 10) : Code := g ++ m ++ d ++ a ++ i
/-- The RI layout. -/
def packRI (g m : BitVec 6) (d : BitVec 5) (i : BitVec 15) : Code := g ++ m ++ d ++ i
/-- The BR layout. -/
def packBR (g m : BitVec 6) (o : BitVec 20) : Code := g ++ m ++ o
/-- The MEM layout. -/
def packMEM (g m : BitVec 6) (d b : BitVec 5) (k : BitVec 3) (o : BitVec 7) : Code := g ++ m ++ d ++ b ++ k ++ o
/-- A hint word (R153). -/
def packHint (k : BitVec 4) (p : BitVec 16) : Code := 0#6 ++ 0x3F#6 ++ k ++ p

/-- The word of an encoded instruction (R148 to R170), 0 for a move that no word encodes. -/
def encodeWord : Instr → Code
  | .add64 gd d a b u => packRRR (guardBits gd) 1#6 d a b (u ++ 0#4)
  | .sub64 gd d a b u => packRRR (guardBits gd) 1#6 d a b (u ++ 1#4)
  | .and64 gd d a b u => packRRR (guardBits gd) 1#6 d a b (u ++ 2#4)
  | .or64 gd d a b u => packRRR (guardBits gd) 1#6 d a b (u ++ 3#4)
  | .xor64 gd d a b u => packRRR (guardBits gd) 1#6 d a b (u ++ 4#4)
  | .andn64 gd d a b u => packRRR (guardBits gd) 1#6 d a b (u ++ 5#4)
  | .shl64 gd d a b u => packRRR (guardBits gd) 1#6 d a b (u ++ 6#4)
  | .shr64 gd d a b u => packRRR (guardBits gd) 1#6 d a b (u ++ 7#4)
  | .rotl64 gd d a b u => packRRR (guardBits gd) 1#6 d a b (u ++ 8#4)
  | .rotr64 gd d a b u => packRRR (guardBits gd) 1#6 d a b (u ++ 9#4)
  | .min64 gd d a b u => packRRR (guardBits gd) 1#6 d a b (u ++ 10#4)
  | .max64 gd d a b u => packRRR (guardBits gd) 1#6 d a b (u ++ 11#4)
  | .popc64 gd d a u => packRRR (guardBits gd) 1#6 d a 0#5 (u ++ 12#4)
  | .clz64 gd d a u => packRRR (guardBits gd) 1#6 d a 0#5 (u ++ 13#4)
  | .ctz64 gd d a u => packRRR (guardBits gd) 1#6 d a 0#5 (u ++ 14#4)
  | .add32 gd d a b u => packRRR (guardBits gd) 2#6 d a b (u ++ 0#4)
  | .sub32 gd d a b u => packRRR (guardBits gd) 2#6 d a b (u ++ 1#4)
  | .and32 gd d a b u => packRRR (guardBits gd) 2#6 d a b (u ++ 2#4)
  | .or32 gd d a b u => packRRR (guardBits gd) 2#6 d a b (u ++ 3#4)
  | .xor32 gd d a b u => packRRR (guardBits gd) 2#6 d a b (u ++ 4#4)
  | .andn32 gd d a b u => packRRR (guardBits gd) 2#6 d a b (u ++ 5#4)
  | .shl32 gd d a b u => packRRR (guardBits gd) 2#6 d a b (u ++ 6#4)
  | .shr32 gd d a b u => packRRR (guardBits gd) 2#6 d a b (u ++ 7#4)
  | .rotl32 gd d a b u => packRRR (guardBits gd) 2#6 d a b (u ++ 8#4)
  | .rotr32 gd d a b u => packRRR (guardBits gd) 2#6 d a b (u ++ 9#4)
  | .min32 gd d a b u => packRRR (guardBits gd) 2#6 d a b (u ++ 10#4)
  | .max32 gd d a b u => packRRR (guardBits gd) 2#6 d a b (u ++ 11#4)
  | .popc32 gd d a u => packRRR (guardBits gd) 2#6 d a 0#5 (u ++ 12#4)
  | .clz32 gd d a u => packRRR (guardBits gd) 2#6 d a 0#5 (u ++ 13#4)
  | .ctz32 gd d a u => packRRR (guardBits gd) 2#6 d a 0#5 (u ++ 14#4)
  | .mul64 gd d a b u => packRRR (guardBits gd) 3#6 d a b (u ++ 0#4)
  | .mulh64 gd d a b u => packRRR (guardBits gd) 3#6 d a b (u ++ 1#4)
  | .div64 gd d a b u => packRRR (guardBits gd) 3#6 d a b (u ++ 2#4)
  | .rem64 gd d a b u => packRRR (guardBits gd) 3#6 d a b (u ++ 3#4)
  | .mul32 gd d a b u => packRRR (guardBits gd) 3#6 d a b (u ++ 8#4)
  | .mulh32 gd d a b u => packRRR (guardBits gd) 3#6 d a b (u ++ 9#4)
  | .div32 gd d a b u => packRRR (guardBits gd) 3#6 d a b (u ++ 10#4)
  | .rem32 gd d a b u => packRRR (guardBits gd) 3#6 d a b (u ++ 11#4)
  | .sel gd d a b c => packRRR (guardBits gd) 4#6 d a b c
  | .addImm gd d a i => packRRI (guardBits gd) 5#6 d a i
  | .shlImm gd d a n => packRRI (guardBits gd) 6#6 d a (0#4 ++ n)
  | .shrN64Imm gd d a n => packRRI (guardBits gd) 6#6 d a (1#4 ++ n)
  | .shrI64Imm gd d a n => packRRI (guardBits gd) 6#6 d a (2#4 ++ n)
  | .rotlImm gd d a n => packRRI (guardBits gd) 6#6 d a (3#4 ++ n)
  | .andImm gd d a v => packRRI (guardBits gd) 6#6 d a (4#4 ++ v)
  | .orImm gd d a v => packRRI (guardBits gd) 6#6 d a (5#4 ++ v)
  | .xorImm gd d a v => packRRI (guardBits gd) 6#6 d a (6#4 ++ v)
  | .li gd d i => packRI (guardBits gd) 7#6 d i
  | .lsi gd d i => packRI (guardBits gd) 8#6 d i
  | .cmp gd d a b u w c => packRRR (guardBits gd) 9#6 d a b (u ++ w ++ c)
  | .cmpImm gd d a c u v => packRRI (guardBits gd) 10#6 d a (c ++ u ++ v)
  | .pand gd d a b => packRRR (guardBits gd) 11#6 d a b 0#5
  | .por gd d a b => packRRR (guardBits gd) 11#6 d a b 1#5
  | .pxor gd d a b => packRRR (guardBits gd) 11#6 d a b 2#5
  | .pandn gd d a b => packRRR (guardBits gd) 11#6 d a b 3#5
  | .porn gd d a b => packRRR (guardBits gd) 11#6 d a b 4#5
  | .pnot gd d a => packRRR (guardBits gd) 11#6 d a 0#5 5#5
  | .pset gd d => packRRR (guardBits gd) 11#6 d 0#5 0#5 6#5
  | .pclr gd d => packRRR (guardBits gd) 11#6 d 0#5 0#5 7#5
  | .pins gd d a b => packRRR (guardBits gd) 11#6 d a b 8#5
  | .pext gd d a b => packRRR (guardBits gd) 11#6 d a b 9#5
  | .pcnt gd d a => packRRR (guardBits gd) 11#6 d a 0#5 10#5
  | .rdctl gd d n => packRRR (guardBits gd) 11#6 d (n.extractLsb' 5 5) (n.extractLsb' 0 5) 16#5
  | .wrctl gd d n => packRRR (guardBits gd) 11#6 d (n.extractLsb' 5 5) (n.extractLsb' 0 5) 17#5
  | .br gd o => packBR (guardBits gd) 16#6 o
  | .jal gd o => packBR (guardBits gd) 17#6 o
  | .jalr gd d a i => packRRI (guardBits gd) 18#6 d a i
  | .endH gd => packRRR (guardBits gd) 19#6 0#5 0#5 0#5 0#5
  | .yieldH gd => packRRR (guardBits gd) 19#6 0#5 0#5 0#5 1#5
  | .ldB gd d b o => packMEM (guardBits gd) 24#6 d b 0#3 o
  | .ldH gd d b o => packMEM (guardBits gd) 24#6 d b 1#3 o
  | .ldW gd d b o => packMEM (guardBits gd) 24#6 d b 2#3 o
  | .ldD gd d b o => packMEM (guardBits gd) 24#6 d b 3#3 o
  | .ldBS gd d b o => packMEM (guardBits gd) 24#6 d b 4#3 o
  | .ldHS gd d b o => packMEM (guardBits gd) 24#6 d b 5#3 o
  | .ldWS gd d b o => packMEM (guardBits gd) 24#6 d b 6#3 o
  | .stB gd d b o => packMEM (guardBits gd) 25#6 d b 0#3 o
  | .stH gd d b o => packMEM (guardBits gd) 25#6 d b 1#3 o
  | .stW gd d b o => packMEM (guardBits gd) 25#6 d b 2#3 o
  | .stD gd d b o => packMEM (guardBits gd) 25#6 d b 3#3 o
  | .ldAcq gd d b z s => packMEM (guardBits gd) 26#6 d b (0#1 ++ z) (s ++ 0#4)
  | .stRel gd d b z s => packMEM (guardBits gd) 26#6 d b (1#1 ++ z) (s ++ 0#4)
  | .ldff gd d b z o => packMEM (guardBits gd) 27#6 d b 0#3 (z ++ o)
  | .ldfe gd d b z o => packMEM (guardBits gd) 27#6 d b 1#3 (z ++ o)
  | .fet gd d b z o => packMEM (guardBits gd) 27#6 d b 2#3 (z ++ o)
  | .stef gd d b z o => packMEM (guardBits gd) 27#6 d b 4#3 (z ++ o)
  | .stxf gd d b z o => packMEM (guardBits gd) 27#6 d b 5#3 (z ++ o)
  | .stxe gd d b z o => packMEM (guardBits gd) 27#6 d b 6#3 (z ++ o)
  | .aswapD gd d a b => packRRR (guardBits gd) 28#6 d a b 0#5
  | .acasD gd d a b => packRRR (guardBits gd) 28#6 d a b 1#5
  | .aadd64 gd d a b => packRRR (guardBits gd) 28#6 d a b 2#5
  | .aandD gd d a b => packRRR (guardBits gd) 28#6 d a b 3#5
  | .aorD gd d a b => packRRR (guardBits gd) 28#6 d a b 4#5
  | .axorD gd d a b => packRRR (guardBits gd) 28#6 d a b 5#5
  | .aminI64 gd d a b => packRRR (guardBits gd) 28#6 d a b 6#5
  | .amaxI64 gd d a b => packRRR (guardBits gd) 28#6 d a b 7#5
  | .aminN64 gd d a b => packRRR (guardBits gd) 28#6 d a b 8#5
  | .amaxN64 gd d a b => packRRR (guardBits gd) 28#6 d a b 9#5
  | .aadd32 gd d a b => packRRR (guardBits gd) 28#6 d a b 10#5
  | .aswapW gd d a b => packRRR (guardBits gd) 28#6 d a b 11#5
  | .acasW gd d a b => packRRR (guardBits gd) 28#6 d a b 12#5
  | .adecw gd d a b => packRRR (guardBits gd) 28#6 d a b 13#5
  | .aaddF32 gd d a b => packRRR (guardBits gd) 28#6 d a b 14#5
  | .aaddF64 gd d a b => packRRR (guardBits gd) 28#6 d a b 15#5
  | .qadd64 gd a b => packRRR (guardBits gd) 28#6 0#5 a b 18#5
  | .qandD gd a b => packRRR (guardBits gd) 28#6 0#5 a b 19#5
  | .qorD gd a b => packRRR (guardBits gd) 28#6 0#5 a b 20#5
  | .qxorD gd a b => packRRR (guardBits gd) 28#6 0#5 a b 21#5
  | .qminI64 gd a b => packRRR (guardBits gd) 28#6 0#5 a b 22#5
  | .qmaxI64 gd a b => packRRR (guardBits gd) 28#6 0#5 a b 23#5
  | .qminN64 gd a b => packRRR (guardBits gd) 28#6 0#5 a b 24#5
  | .qmaxN64 gd a b => packRRR (guardBits gd) 28#6 0#5 a b 25#5
  | .qadd32 gd a b => packRRR (guardBits gd) 28#6 0#5 a b 26#5
  | .qdecw gd a b => packRRR (guardBits gd) 28#6 0#5 a b 29#5
  | .qaddF32 gd a b => packRRR (guardBits gd) 28#6 0#5 a b 30#5
  | .qaddF64 gd a b => packRRR (guardBits gd) 28#6 0#5 a b 31#5
  | .fence gd s => packRRR (guardBits gd) 29#6 s 0#5 0#5 0#5
  | .fenceAll gd s => packRRR (guardBits gd) 29#6 s 0#5 0#5 1#5
  | .cleanRange gd a b => packRRR (guardBits gd) 29#6 0#5 a b 2#5
  | .invalRange gd a b => packRRR (guardBits gd) 29#6 0#5 a b 3#5
  | .flushRange gd a b => packRRR (guardBits gd) 29#6 0#5 a b 4#5
  | .icsync gd a b => packRRR (guardBits gd) 29#6 0#5 a b 5#5
  | .icinvRange gd a b => packRRR (guardBits gd) 29#6 0#5 a b 6#5
  | .send gd a b => packRRR (guardBits gd) 30#6 0#5 a b 0#5
  | .rpush gd a b => packRRR (guardBits gd) 30#6 0#5 a b 1#5
  | .rpop gd d a b => packRRR (guardBits gd) 30#6 d a b 2#5
  | .rpeek gd d b => packRRR (guardBits gd) 30#6 d 0#5 b 3#5
  | .aldD gd a b => packRRR (guardBits gd) 30#6 0#5 a b 4#5
  | .vld gd d a z => packRRR (guardBits gd) 32#6 d a 0#5 (0#3 ++ z)
  | .vlds gd d a b z => packRRR (guardBits gd) 32#6 d a b (1#3 ++ z)
  | .vldx gd d a b z => packRRR (guardBits gd) 32#6 d a b (2#3 ++ z)
  | .vst gd d a z => packRRR (guardBits gd) 32#6 d a 0#5 (4#3 ++ z)
  | .vsts gd d a b z => packRRR (guardBits gd) 32#6 d a b (5#3 ++ z)
  | .vstx gd d a b z => packRRR (guardBits gd) 32#6 d a b (6#3 ++ z)
  | .vaddFp gd d a b f => packRRR (guardBits gd) 33#6 d a b (f ++ 0#3)
  | .vsubFp gd d a b f => packRRR (guardBits gd) 33#6 d a b (f ++ 1#3)
  | .vmulFp gd d a b f => packRRR (guardBits gd) 33#6 d a b (f ++ 2#3)
  | .vdiv gd d a b f => packRRR (guardBits gd) 33#6 d a b (f ++ 3#3)
  | .vminFp gd d a b f => packRRR (guardBits gd) 33#6 d a b (f ++ 4#3)
  | .vmaxFp gd d a b f => packRRR (guardBits gd) 33#6 d a b (f ++ 5#3)
  | .vsqrt gd d a f => packRRR (guardBits gd) 33#6 d a 0#5 (f ++ 6#3)
  | .vabsFp gd d a f => packRRR (guardBits gd) 33#6 d a 0#5 (f ++ 7#3)
  | .vfma gd d a b c => packRRR (guardBits gd) 34#6 d a b c
  | .vaddInt gd d a b x => packRRR (guardBits gd) 35#6 d a b (x ++ 0#4)
  | .vsubInt gd d a b x => packRRR (guardBits gd) 35#6 d a b (x ++ 1#4)
  | .vmulInt gd d a b x => packRRR (guardBits gd) 35#6 d a b (x ++ 2#4)
  | .vmulh gd d a b x => packRRR (guardBits gd) 35#6 d a b (x ++ 3#4)
  | .vminInt gd d a b x => packRRR (guardBits gd) 35#6 d a b (x ++ 4#4)
  | .vmaxInt gd d a b x => packRRR (guardBits gd) 35#6 d a b (x ++ 5#4)
  | .vand gd d a b x => packRRR (guardBits gd) 35#6 d a b (x ++ 6#4)
  | .vor gd d a b x => packRRR (guardBits gd) 35#6 d a b (x ++ 7#4)
  | .vxor gd d a b x => packRRR (guardBits gd) 35#6 d a b (x ++ 8#4)
  | .vandn gd d a b x => packRRR (guardBits gd) 35#6 d a b (x ++ 9#4)
  | .vshl gd d a b x => packRRR (guardBits gd) 35#6 d a b (x ++ 10#4)
  | .vshr gd d a b x => packRRR (guardBits gd) 35#6 d a b (x ++ 11#4)
  | .vrotl gd d a b x => packRRR (guardBits gd) 35#6 d a b (x ++ 12#4)
  | .vabsInt gd d a => packRRR (guardBits gd) 35#6 d a 0#5 13#5
  | .vadds gd d a b x => packRRR (guardBits gd) 35#6 d a b (x ++ 14#4)
  | .vsubs gd d a b x => packRRR (guardBits gd) 35#6 d a b (x ++ 15#4)
  | .vcmp gd d a b x c => packRRR (guardBits gd) 36#6 d a b (x ++ 0#1 ++ c)
  | .vcvt gd d a b t => packRRR (guardBits gd) 37#6 d a b (0#1 ++ t)
  | .vcvn gd d a b t => packRRR (guardBits gd) 37#6 d a b (1#1 ++ t)
  | .vrsum gd d a => packRRR (guardBits gd) 38#6 d a 0#5 0#5
  | .vrmin gd d a => packRRR (guardBits gd) 38#6 d a 0#5 1#5
  | .vrmax gd d a => packRRR (guardBits gd) 38#6 d a 0#5 2#5
  | .vrand gd d a => packRRR (guardBits gd) 38#6 d a 0#5 3#5
  | .vror gd d a => packRRR (guardBits gd) 38#6 d a 0#5 4#5
  | .vrxor gd d a => packRRR (guardBits gd) 38#6 d a 0#5 5#5
  | .vssum gd d a => packRRR (guardBits gd) 38#6 d a 0#5 16#5
  | .vsmin gd d a => packRRR (guardBits gd) 38#6 d a 0#5 17#5
  | .vsmax gd d a => packRRR (guardBits gd) 38#6 d a 0#5 18#5
  | .vsand gd d a => packRRR (guardBits gd) 38#6 d a 0#5 19#5
  | .vsor gd d a => packRRR (guardBits gd) 38#6 d a 0#5 20#5
  | .vsxor gd d a => packRRR (guardBits gd) 38#6 d a 0#5 21#5
  | .vbcast gd d a => packRRR (guardBits gd) 39#6 d a 0#5 0#5
  | .vslideup gd d a b => packRRR (guardBits gd) 39#6 d a b 1#5
  | .vslidedn gd d a b => packRRR (guardBits gd) 39#6 d a b 2#5
  | .vperm gd d a b => packRRR (guardBits gd) 39#6 d a b 3#5
  | .vmov gd d a => packRRR (guardBits gd) 39#6 d a 0#5 4#5
  | .vext gd d a b => packRRR (guardBits gd) 39#6 d a b 5#5
  | .vins gd d a b => packRRR (guardBits gd) 39#6 d a b 6#5
  | .vpack6 gd d a b => packRRR (guardBits gd) 39#6 d a b 7#5
  | .vunp6 gd d a b => packRRR (guardBits gd) 39#6 d a b 8#5
  | .vpack4 gd d a => packRRR (guardBits gd) 39#6 d a 0#5 9#5
  | .vunp4 gd d a => packRRR (guardBits gd) 39#6 d a 0#5 10#5
  | .vidx gd d => packRRR (guardBits gd) 39#6 d 0#5 0#5 11#5
  | .fmtld gd d a => packRRR (guardBits gd) 39#6 d a 0#5 12#5
  | .fmtrd gd d a => packRRR (guardBits gd) 39#6 d a 0#5 13#5
  | .vrcp gd d a f => packRRR (guardBits gd) 40#6 d a 0#5 (f ++ 0#3)
  | .vrsqrt gd d a f => packRRR (guardBits gd) 40#6 d a 0#5 (f ++ 1#3)
  | .vexp2 gd d a f => packRRR (guardBits gd) 40#6 d a 0#5 (f ++ 2#3)
  | .vlog2 gd d a f => packRRR (guardBits gd) 40#6 d a 0#5 (f ++ 3#3)
  | .claim gd d a n => packRRI (guardBits gd) 41#6 d a (0#1 ++ n)
  | .vrelease gd d a n => packRRI (guardBits gd) 41#6 d a (1#1 ++ n)
  | .mjob gd d a => packRRR (guardBits gd) 48#6 d a 0#5 0#5
  | .cjob gd d a => packRRR (guardBits gd) 48#6 d a 0#5 1#5
  | .coll gd d a => packRRR (guardBits gd) 48#6 d a 0#5 2#5
  | .jcancel gd a => packRRR (guardBits gd) 48#6 0#5 a 0#5 3#5
  | .jpoll gd d a => packRRR (guardBits gd) 49#6 d a 0#5 0#5
  | .jwait gd d a => packRRR (guardBits gd) 49#6 d a 0#5 1#5
  | .subs gd d a => packRRR (guardBits gd) 50#6 d a 0#5 0#5
  | .rack gd d a => packRRR (guardBits gd) 50#6 d a 0#5 1#5
  | .unsubs gd a => packRRR (guardBits gd) 50#6 0#5 a 0#5 2#5
  | .unrack gd a => packRRR (guardBits gd) 50#6 0#5 a 0#5 3#5
  | .aclr gd a => packRRR (guardBits gd) 51#6 0#5 a 0#5 0#5
  | .ardr gd d a b => packRRR (guardBits gd) 51#6 d a b 1#5
  | .awrr gd d a b => packRRR (guardBits gd) 51#6 d a b 2#5
  | .wclr gd t a => packRRR (guardBits gd) 52#6 t a 0#5 0#5
  | .wld gd t a b => packRRR (guardBits gd) 52#6 t a b 1#5
  | .wldv gd t a b => packRRR (guardBits gd) 52#6 t a b 2#5
  | .wset gd t a b => packRRR (guardBits gd) 52#6 t a b 3#5
  | .wadd gd t a b => packRRR (guardBits gd) 52#6 t a b 4#5
  | .wexp gd t a => packRRR (guardBits gd) 52#6 t a 0#5 5#5
  | .wcut gd t a => packRRR (guardBits gd) 52#6 t a 0#5 6#5
  | .wuncut gd t a => packRRR (guardBits gd) 52#6 t a 0#5 7#5
  | .wget gd d t b => packRRR (guardBits gd) 53#6 d t b 0#5
  | .wsum gd d t => packRRR (guardBits gd) 53#6 d t 0#5 1#5
  | .wpre gd d t b => packRRR (guardBits gd) 53#6 d t b 2#5
  | .wfind gd d t b => packRRR (guardBits gd) 53#6 d t b 3#5
  | .wseq gd d t => packRRR (guardBits gd) 53#6 d t 0#5 4#5
  | .wst gd d t b => packRRR (guardBits gd) 53#6 d t b 5#5
  | .rnd gd d => packRRR (guardBits gd) 54#6 d 0#5 0#5 0#5
  | .rndV gd d => packRRR (guardBits gd) 54#6 d 0#5 0#5 1#5
  | .pdrop gd d a => packRRR (guardBits gd) 54#6 d a 0#5 2#5
  | .wdraw gd d t => packRRR (guardBits gd) 54#6 d t 0#5 3#5
  | .splice gd a b => packRRR (guardBits gd) 55#6 0#5 a b 0#5
  | .rbind gd a b => packRRR (guardBits gd) 55#6 0#5 a b 1#5
  | .runbind gd b => packRRR (guardBits gd) 55#6 0#5 0#5 b 2#5
  | .trap gd n => packRRR (guardBits gd) 56#6 0#5 n 0#5 0#5
  | .reseedPlace gd => packRRR (guardBits gd) 56#6 0#5 0#5 0#5 1#5
  | .plprobe gd d a b => packRRR (guardBits gd) 56#6 d a b 2#5
  | .excq gd a b => packRRR (guardBits gd) 56#6 0#5 a b 3#5
  | .rft gd => packRRR (guardBits gd) 57#6 0#5 0#5 0#5 0#5
  | .tinv gd a b => packRRR (guardBits gd) 57#6 0#5 a b 1#5
  | .aspill gd a => packRRR (guardBits gd) 57#6 0#5 a 0#5 2#5
  | .atag gd a b => packRRR (guardBits gd) 57#6 0#5 a b 3#5
  | .wspill gd a => packRRR (guardBits gd) 57#6 0#5 a 0#5 4#5
  | .wtag gd a b => packRRR (guardBits gd) 57#6 0#5 a b 5#5
  | .keyld gd a b => packRRR (guardBits gd) 57#6 0#5 a b 6#5
  | .saltld gd a b => packRRR (guardBits gd) 57#6 0#5 a b 7#5
  | .immx p => packHint 0#4 p
  | .rmode p => packHint 1#4 p
  | .cpol p => packHint 2#4 p
  | .order p => packHint 3#4 p
  | .etype p => packHint 4#4 p
  | .dispatch _ => 0
  | .issue _ => 0
  | .forward _ _ _ => 0
  | .fill _ _ _ => 0
  | .performLoad _ _ => 0
  | .performStore _ _ => 0
  | .writeBack _ => 0
  | .drop _ => 0
  | .fencePerformed _ _ => 0
  | .decrementAndWake _ _ => 0
  | .readyPushAccept _ => 0
  | .mergeWindowExpire _ _ _ => 0
  | .fillReply _ _ _ => 0
  | .windowLoadReply _ => 0
  | .asyncLoadReply _ _ => 0
  | .watchdog _ => 0
  | .clockGate _ => 0
  | .powerGate _ => 0
  | .coreWake _ => 0
  | .hangReport _ => 0
  | .deadlockScan _ => 0
  | .trapEntry _ => 0
  | .supCycleLimit _ => 0
  | .launchTailWrite _ _ => 0
  | .launchRecord _ => 0
  | .tileReconfigure _ _ _ => 0
  | .tileRelease _ _ => 0
  | .tilePublish _ _ => 0
  | .tileCmdNop _ _ _ => 0
  | .steepFillStart _ _ => 0
  | .steepUnitComplete _ _ => 0
  | .steepRecordAppend _ _ => 0
  | .rackDrainStart _ _ => 0
  | .rackUnitComplete _ _ => 0
  | .rackRecordWrite _ _ => 0
  | .rackAckReread _ _ => 0
  | .ringForward _ _ => 0
  | .spliceApply _ _ => 0
  | .stateTransferRun _ => 0
  | .alignmentTimeout _ _ => 0
  | .jobStart _ _ => 0
  | .matrixRowCommit _ _ => 0
  | .copyElement _ _ => 0
  | .bankOpElement _ _ => 0
  | .jobSuspend _ _ => 0
  | .jobComplete _ _ => 0
  | .wakeMessageDelivery _ _ => 0
  | .collectiveComplete _ _ => 0
  | .collectiveTimeout _ _ => 0
  | .arbitrationSlot _ _ => 0
  | .arbKeyUpdate _ _ _ => 0
  | .placementEpochStart _ => 0
  | .sweepSetVisit _ _ => 0
  | .throttleWindowExpire _ _ => 0
  | .limiterRefill _ _ _ => 0
  | .hbmRefresh _ => 0
  | .linkRetrain _ _ => 0
  | .frequencyChange _ _ => 0
  | .faultRecordWrite _ => 0
  | .faultReplyReplay _ _ _ => 0
  | .faultReplyReject _ _ _ => 0
  | .tinvComplete _ => 0
  | .icinvComplete _ => 0
  | .keyldComplete _ => 0
  | .commitVdEntry _ => 0
  | .commitOwnerEntry _ => 0
  | .commitPropagate => 0
  | .ownerRetirement _ => 0
  | .scheduleEnable _ => 0
  | .scheduleDisable => 0
  | .roundEnd _ => 0
  | .sliceQuiesce _ => 0
  | .sliceDrain _ => 0
  | .sliceSave _ => 0
  | .sliceSwitch _ => 0
  | .restore _ => 0
  | .savedInboxEntry _ => 0
  | .interruptSend _ _ => 0
  | .coalesceTimeout _ _ => 0
  | .errorLogRecord => 0
  | .flitCheckFail _ _ _ _ _ => 0
  | .moduleFatal _ => 0
  | .hostPortAccess _ _ _ _ => 0
  | .coldReset => 0
  | .warmReset _ => 0
  | .hbmTrainingDone _ => 0
  | .hbmTrainingFail _ => 0
  | .linkBringupDone => 0
  | .attestReport => 0
  | .stageImage => 0
  | .powerCheck => 0
  | .pwrlimWrite _ => 0
  | .capcntClear => 0
  | .telemetryRefresh => 0
  | .correctedCounterClear _ => 0
  | .thermalThrottle _ => 0
  | .registerWrite _ _ _ => 0
  | .collectiveMove _ _ => 0
  | .vectorUnmask _ _ => 0
  | .retrainingComplete _ _ => 0

/-- Whether a word encodes the instruction: every row of the table with a word, no event row. -/
def Instr.hasWord : Instr → Bool
  | .add64 _ _ _ _ _ => true
  | .sub64 _ _ _ _ _ => true
  | .and64 _ _ _ _ _ => true
  | .or64 _ _ _ _ _ => true
  | .xor64 _ _ _ _ _ => true
  | .andn64 _ _ _ _ _ => true
  | .shl64 _ _ _ _ _ => true
  | .shr64 _ _ _ _ _ => true
  | .rotl64 _ _ _ _ _ => true
  | .rotr64 _ _ _ _ _ => true
  | .min64 _ _ _ _ _ => true
  | .max64 _ _ _ _ _ => true
  | .popc64 _ _ _ _ => true
  | .clz64 _ _ _ _ => true
  | .ctz64 _ _ _ _ => true
  | .add32 _ _ _ _ _ => true
  | .sub32 _ _ _ _ _ => true
  | .and32 _ _ _ _ _ => true
  | .or32 _ _ _ _ _ => true
  | .xor32 _ _ _ _ _ => true
  | .andn32 _ _ _ _ _ => true
  | .shl32 _ _ _ _ _ => true
  | .shr32 _ _ _ _ _ => true
  | .rotl32 _ _ _ _ _ => true
  | .rotr32 _ _ _ _ _ => true
  | .min32 _ _ _ _ _ => true
  | .max32 _ _ _ _ _ => true
  | .popc32 _ _ _ _ => true
  | .clz32 _ _ _ _ => true
  | .ctz32 _ _ _ _ => true
  | .mul64 _ _ _ _ _ => true
  | .mulh64 _ _ _ _ _ => true
  | .div64 _ _ _ _ _ => true
  | .rem64 _ _ _ _ _ => true
  | .mul32 _ _ _ _ _ => true
  | .mulh32 _ _ _ _ _ => true
  | .div32 _ _ _ _ _ => true
  | .rem32 _ _ _ _ _ => true
  | .sel _ _ _ _ _ => true
  | .addImm _ _ _ _ => true
  | .shlImm _ _ _ _ => true
  | .shrN64Imm _ _ _ _ => true
  | .shrI64Imm _ _ _ _ => true
  | .rotlImm _ _ _ _ => true
  | .andImm _ _ _ _ => true
  | .orImm _ _ _ _ => true
  | .xorImm _ _ _ _ => true
  | .li _ _ _ => true
  | .lsi _ _ _ => true
  | .cmp _ _ _ _ _ _ _ => true
  | .cmpImm _ _ _ _ _ _ => true
  | .pand _ _ _ _ => true
  | .por _ _ _ _ => true
  | .pxor _ _ _ _ => true
  | .pandn _ _ _ _ => true
  | .porn _ _ _ _ => true
  | .pnot _ _ _ => true
  | .pset _ _ => true
  | .pclr _ _ => true
  | .pins _ _ _ _ => true
  | .pext _ _ _ _ => true
  | .pcnt _ _ _ => true
  | .rdctl _ _ _ => true
  | .wrctl _ _ _ => true
  | .br _ _ => true
  | .jal _ _ => true
  | .jalr _ _ _ _ => true
  | .endH _ => true
  | .yieldH _ => true
  | .ldB _ _ _ _ => true
  | .ldH _ _ _ _ => true
  | .ldW _ _ _ _ => true
  | .ldD _ _ _ _ => true
  | .ldBS _ _ _ _ => true
  | .ldHS _ _ _ _ => true
  | .ldWS _ _ _ _ => true
  | .stB _ _ _ _ => true
  | .stH _ _ _ _ => true
  | .stW _ _ _ _ => true
  | .stD _ _ _ _ => true
  | .ldAcq _ _ _ _ _ => true
  | .stRel _ _ _ _ _ => true
  | .ldff _ _ _ _ _ => true
  | .ldfe _ _ _ _ _ => true
  | .fet _ _ _ _ _ => true
  | .stef _ _ _ _ _ => true
  | .stxf _ _ _ _ _ => true
  | .stxe _ _ _ _ _ => true
  | .aswapD _ _ _ _ => true
  | .acasD _ _ _ _ => true
  | .aadd64 _ _ _ _ => true
  | .aandD _ _ _ _ => true
  | .aorD _ _ _ _ => true
  | .axorD _ _ _ _ => true
  | .aminI64 _ _ _ _ => true
  | .amaxI64 _ _ _ _ => true
  | .aminN64 _ _ _ _ => true
  | .amaxN64 _ _ _ _ => true
  | .aadd32 _ _ _ _ => true
  | .aswapW _ _ _ _ => true
  | .acasW _ _ _ _ => true
  | .adecw _ _ _ _ => true
  | .aaddF32 _ _ _ _ => true
  | .aaddF64 _ _ _ _ => true
  | .qadd64 _ _ _ => true
  | .qandD _ _ _ => true
  | .qorD _ _ _ => true
  | .qxorD _ _ _ => true
  | .qminI64 _ _ _ => true
  | .qmaxI64 _ _ _ => true
  | .qminN64 _ _ _ => true
  | .qmaxN64 _ _ _ => true
  | .qadd32 _ _ _ => true
  | .qdecw _ _ _ => true
  | .qaddF32 _ _ _ => true
  | .qaddF64 _ _ _ => true
  | .fence _ _ => true
  | .fenceAll _ _ => true
  | .cleanRange _ _ _ => true
  | .invalRange _ _ _ => true
  | .flushRange _ _ _ => true
  | .icsync _ _ _ => true
  | .icinvRange _ _ _ => true
  | .send _ _ _ => true
  | .rpush _ _ _ => true
  | .rpop _ _ _ _ => true
  | .rpeek _ _ _ => true
  | .aldD _ _ _ => true
  | .vld _ _ _ _ => true
  | .vlds _ _ _ _ _ => true
  | .vldx _ _ _ _ _ => true
  | .vst _ _ _ _ => true
  | .vsts _ _ _ _ _ => true
  | .vstx _ _ _ _ _ => true
  | .vaddFp _ _ _ _ _ => true
  | .vsubFp _ _ _ _ _ => true
  | .vmulFp _ _ _ _ _ => true
  | .vdiv _ _ _ _ _ => true
  | .vminFp _ _ _ _ _ => true
  | .vmaxFp _ _ _ _ _ => true
  | .vsqrt _ _ _ _ => true
  | .vabsFp _ _ _ _ => true
  | .vfma _ _ _ _ _ => true
  | .vaddInt _ _ _ _ _ => true
  | .vsubInt _ _ _ _ _ => true
  | .vmulInt _ _ _ _ _ => true
  | .vmulh _ _ _ _ _ => true
  | .vminInt _ _ _ _ _ => true
  | .vmaxInt _ _ _ _ _ => true
  | .vand _ _ _ _ _ => true
  | .vor _ _ _ _ _ => true
  | .vxor _ _ _ _ _ => true
  | .vandn _ _ _ _ _ => true
  | .vshl _ _ _ _ _ => true
  | .vshr _ _ _ _ _ => true
  | .vrotl _ _ _ _ _ => true
  | .vabsInt _ _ _ => true
  | .vadds _ _ _ _ _ => true
  | .vsubs _ _ _ _ _ => true
  | .vcmp _ _ _ _ _ _ => true
  | .vcvt _ _ _ _ _ => true
  | .vcvn _ _ _ _ _ => true
  | .vrsum _ _ _ => true
  | .vrmin _ _ _ => true
  | .vrmax _ _ _ => true
  | .vrand _ _ _ => true
  | .vror _ _ _ => true
  | .vrxor _ _ _ => true
  | .vssum _ _ _ => true
  | .vsmin _ _ _ => true
  | .vsmax _ _ _ => true
  | .vsand _ _ _ => true
  | .vsor _ _ _ => true
  | .vsxor _ _ _ => true
  | .vbcast _ _ _ => true
  | .vslideup _ _ _ _ => true
  | .vslidedn _ _ _ _ => true
  | .vperm _ _ _ _ => true
  | .vmov _ _ _ => true
  | .vext _ _ _ _ => true
  | .vins _ _ _ _ => true
  | .vpack6 _ _ _ _ => true
  | .vunp6 _ _ _ _ => true
  | .vpack4 _ _ _ => true
  | .vunp4 _ _ _ => true
  | .vidx _ _ => true
  | .fmtld _ _ _ => true
  | .fmtrd _ _ _ => true
  | .vrcp _ _ _ _ => true
  | .vrsqrt _ _ _ _ => true
  | .vexp2 _ _ _ _ => true
  | .vlog2 _ _ _ _ => true
  | .claim _ _ _ _ => true
  | .vrelease _ _ _ _ => true
  | .mjob _ _ _ => true
  | .cjob _ _ _ => true
  | .coll _ _ _ => true
  | .jcancel _ _ => true
  | .jpoll _ _ _ => true
  | .jwait _ _ _ => true
  | .subs _ _ _ => true
  | .rack _ _ _ => true
  | .unsubs _ _ => true
  | .unrack _ _ => true
  | .aclr _ _ => true
  | .ardr _ _ _ _ => true
  | .awrr _ _ _ _ => true
  | .wclr _ _ _ => true
  | .wld _ _ _ _ => true
  | .wldv _ _ _ _ => true
  | .wset _ _ _ _ => true
  | .wadd _ _ _ _ => true
  | .wexp _ _ _ => true
  | .wcut _ _ _ => true
  | .wuncut _ _ _ => true
  | .wget _ _ _ _ => true
  | .wsum _ _ _ => true
  | .wpre _ _ _ _ => true
  | .wfind _ _ _ _ => true
  | .wseq _ _ _ => true
  | .wst _ _ _ _ => true
  | .rnd _ _ => true
  | .rndV _ _ => true
  | .pdrop _ _ _ => true
  | .wdraw _ _ _ => true
  | .splice _ _ _ => true
  | .rbind _ _ _ => true
  | .runbind _ _ => true
  | .trap _ _ => true
  | .reseedPlace _ => true
  | .plprobe _ _ _ _ => true
  | .excq _ _ _ => true
  | .rft _ => true
  | .tinv _ _ _ => true
  | .aspill _ _ => true
  | .atag _ _ _ => true
  | .wspill _ _ => true
  | .wtag _ _ _ => true
  | .keyld _ _ _ => true
  | .saltld _ _ _ => true
  | .immx _ => true
  | .rmode _ => true
  | .cpol _ => true
  | .order _ => true
  | .etype _ => true
  | .dispatch _ => false
  | .issue _ => false
  | .forward _ _ _ => false
  | .fill _ _ _ => false
  | .performLoad _ _ => false
  | .performStore _ _ => false
  | .writeBack _ => false
  | .drop _ => false
  | .fencePerformed _ _ => false
  | .decrementAndWake _ _ => false
  | .readyPushAccept _ => false
  | .mergeWindowExpire _ _ _ => false
  | .fillReply _ _ _ => false
  | .windowLoadReply _ => false
  | .asyncLoadReply _ _ => false
  | .watchdog _ => false
  | .clockGate _ => false
  | .powerGate _ => false
  | .coreWake _ => false
  | .hangReport _ => false
  | .deadlockScan _ => false
  | .trapEntry _ => false
  | .supCycleLimit _ => false
  | .launchTailWrite _ _ => false
  | .launchRecord _ => false
  | .tileReconfigure _ _ _ => false
  | .tileRelease _ _ => false
  | .tilePublish _ _ => false
  | .tileCmdNop _ _ _ => false
  | .steepFillStart _ _ => false
  | .steepUnitComplete _ _ => false
  | .steepRecordAppend _ _ => false
  | .rackDrainStart _ _ => false
  | .rackUnitComplete _ _ => false
  | .rackRecordWrite _ _ => false
  | .rackAckReread _ _ => false
  | .ringForward _ _ => false
  | .spliceApply _ _ => false
  | .stateTransferRun _ => false
  | .alignmentTimeout _ _ => false
  | .jobStart _ _ => false
  | .matrixRowCommit _ _ => false
  | .copyElement _ _ => false
  | .bankOpElement _ _ => false
  | .jobSuspend _ _ => false
  | .jobComplete _ _ => false
  | .wakeMessageDelivery _ _ => false
  | .collectiveComplete _ _ => false
  | .collectiveTimeout _ _ => false
  | .arbitrationSlot _ _ => false
  | .arbKeyUpdate _ _ _ => false
  | .placementEpochStart _ => false
  | .sweepSetVisit _ _ => false
  | .throttleWindowExpire _ _ => false
  | .limiterRefill _ _ _ => false
  | .hbmRefresh _ => false
  | .linkRetrain _ _ => false
  | .frequencyChange _ _ => false
  | .faultRecordWrite _ => false
  | .faultReplyReplay _ _ _ => false
  | .faultReplyReject _ _ _ => false
  | .tinvComplete _ => false
  | .icinvComplete _ => false
  | .keyldComplete _ => false
  | .commitVdEntry _ => false
  | .commitOwnerEntry _ => false
  | .commitPropagate => false
  | .ownerRetirement _ => false
  | .scheduleEnable _ => false
  | .scheduleDisable => false
  | .roundEnd _ => false
  | .sliceQuiesce _ => false
  | .sliceDrain _ => false
  | .sliceSave _ => false
  | .sliceSwitch _ => false
  | .restore _ => false
  | .savedInboxEntry _ => false
  | .interruptSend _ _ => false
  | .coalesceTimeout _ _ => false
  | .errorLogRecord => false
  | .flitCheckFail _ _ _ _ _ => false
  | .moduleFatal _ => false
  | .hostPortAccess _ _ _ _ => false
  | .coldReset => false
  | .warmReset _ => false
  | .hbmTrainingDone _ => false
  | .hbmTrainingFail _ => false
  | .linkBringupDone => false
  | .attestReport => false
  | .stageImage => false
  | .powerCheck => false
  | .pwrlimWrite _ => false
  | .capcntClear => false
  | .telemetryRefresh => false
  | .correctedCounterClear _ => false
  | .thermalThrottle _ => false
  | .registerWrite _ _ _ => false
  | .collectiveMove _ _ => false
  | .vectorUnmask _ _ => false
  | .retrainingComplete _ _ => false

/-- The word of a well-formed instruction; none for a move that no word encodes. -/
def encode (i : Instr) : Option Code := if i.hasWord then some (encodeWord i) else none

/-! ### Hint chains (R154 to R156) -/

/-- The first hint of a kind in a chain. -/
def hintOf (k : Nat) : List Code → Option (BitVec 16)
  | [] => none
  | h :: hs => if (hintKind h).toNat = k then some (hintPayload h) else hintOf k hs

/-- The ETYPE codes a target accepts (R164 to R166, R218), by major and function code. -/
def etypeAccepts (maj fn code : Nat) : Bool :=
  match maj with
  | 0x22 => 8 ≤ code && code ≤ 11
  | 0x23 => code ≤ 7
  | 0x24 => code ≤ 12
  | 0x25 => if fn < 16 then code ≤ 13 else 8 ≤ code && code ≤ 11
  | 0x26 => if 3 ≤ fn % 16 && fn % 16 ≤ 5 then code ≤ 7 else code ≤ 11
  | 0x27 => (fn ≤ 6 || fn == 11) && code ≤ 11
  | _ => false

/-- Whether the word `w` accepts the hint `h` (R155, R164, R165, R177, R217, R218). -/
def hintAccepted (w h : Code) : Bool :=
  let m := (fMaj w).toNat
  let fn := (fFn w).toNat
  let p := hintPayload h
  match (hintKind h).toNat with
  | 0 => [0x05, 0x07, 0x08, 0x0A, 0x10, 0x11, 0x12, 0x18, 0x19, 0x1B].contains m
      || (m == 0x06 && 4 ≤ ((fImm10 w).extractLsb' 6 4).toNat)
  | 1 => [0x21, 0x22, 0x25, 0x26, 0x34, 0x35].contains m
  | 2 => [0x18, 0x19, 0x1A, 0x1B, 0x1C, 0x20].contains m
  | 3 => m == 0x1C
  | 4 =>
    let code := p.toNat % 16
    etypeAccepts m fn code
      && (m == 0x22 || p.extractLsb' 7 2 == 0)
      && (code == 12 || p.extractLsb' 4 3 == 0)
      && ((m == 0x25 && fn % 16 == 12) || p.extractLsb' 12 3 == 0)
      && !(m == 0x25 && fn == 13 && code == 13)
  | _ => false

/-- The first hint of a chain that its target does not accept, or that repeats a kind (step 5 of R171). -/
def badHint (w : Code) : List Code → List Nat → Option Code
  | [], _ => none
  | h :: hs, seen =>
    if seen.contains (hintKind h).toNat || !hintAccepted w h then some h
    else badHint w hs ((hintKind h).toNat :: seen)

/-- Whether a hint word has a kind of R153 and a legal payload. -/
def hintLegal (h : Code) : Bool :=
  let p := hintPayload h
  match (hintKind h).toNat with
  | 0 => true
  | 1 => p.toNat < 6
  | 2 => p == 1 || p == 2
  | 3 => p.toNat < 32 && 8 ≤ p.toNat && p.toNat % 8 < 5
  | 4 => p.toNat % 16 < 14 && p.extractLsb' 9 3 == 0 && p.extractLsb' 15 1 == 0
  | _ => false

/-- The first hint of a chain with a reserved kind or an illegal payload (step 4 of R171, reason 0x4). -/
def badPayload : List Code → Option Code
  | [] => none
  | h :: hs => if hintLegal h then badPayload hs else some h

/-- `vcvt` reads b only where a type is mass (R217): b ≠ 0 elsewhere is a field error, reason 0x3. -/
def cvtFieldOk (hs : List Code) : Instr → Bool
  | .vcvt _ _ _ b t =>
    decide (b = 0) || t.toNat == 13 || ((hintOf 4 hs).map (fun p => p.toNat % 16)).getD 9 == 13
  | _ => true

/-- The reason and the offending word of `ctl.trapinfo` for traps 0x01 and 0x02 (R172). -/
def illegalInfo (reason : Nat) (w : Code) : Word :=
  BitVec.ofNat 64 (reason * 2 ^ 32) ||| w.setWidth 64

/-- Steps 1 to 5 of R171 for the word `w` that ends the chain of hints `hs`: the instruction, or `ctl.trapinfo`
of trap 0x01. DESIGN CHOICE (log 66): a reserved hint kind is found at step 4 with the payloads, so that an unassigned code
of the target word is reported first. -/
def decodeChain (hs : List Code) (w : Code) : Except Word Instr :=
  match decodeWord w with
  | .error r =>
    if r < 3 then .error (illegalInfo r w)
    else match badPayload hs with
      | some h => .error (illegalInfo 4 h)
      | none => .error (illegalInfo r w)
  | .ok i =>
    match badPayload hs with
    | some h => .error (illegalInfo 4 h)
    | none =>
      if !cvtFieldOk hs i then .error (illegalInfo 3 w)
      else match badHint w hs [] with
        | some h => .error (illegalInfo 5 h)
        | none => .ok i

/-- What the core finds in a word fetched after the hints `hs` of its chain. -/
inductive Fetched where
  /-- a hint that joins the chain -/
  | hint (w : Code)
  /-- the instruction that ends the chain -/
  | instr (i : Instr)
  /-- an illegal chain, with `ctl.trapinfo` of trap 0x01 (R172) -/
  | illegal (info : Word)
  deriving DecidableEq, Repr

/-- Decoding a fetched word in its chain (R154, R171). A first or second hint with E = 0 joins the chain; a third
makes the chain illegal, with reason 0x4 where a hint of it has an illegal payload and 0x6 otherwise. DESIGN CHOICE
(log 66): two hints of one kind before a third are reported as the third hint, 0x6, and not as the repeated kind, 0x5. -/
def decodeFetched (hs : List Code) (w : Code) : Fetched :=
  if isHint w then
    if fGuard w ≠ 0 then .illegal (illegalInfo 2 w)
    else if hs.length < 2 then .hint w
    else match badPayload (hs ++ [w]) with
      | some h => .illegal (illegalInfo 4 h)
      | none => .illegal (illegalInfo 6 w)
  else match decodeChain hs w with
    | .ok i => .instr i
    | .error e => .illegal e

/-! ### Bytes -/

/-- Four bytes in storage order as a word (R5). -/
def wordOfBytes (b0 b1 b2 b3 : Byte) : Code := b3 ++ b2 ++ b1 ++ b0

/-- The instruction that the decoder reads from an instruction whose bits are `w`, numbered as
spec/opcode_table.json numbers them: every Glaeg instruction is one 32-bit word (R148), so the bits above bit 31
are not part of it. -/
noncomputable def decodeTableWord (_nbits w : Nat) : Option Instr :=
  match decode (BitVec.ofNat 32 w) with
  | .ok i => some i
  | .error _ => none

end Sys2Proof
end

