-- ==== Sys2Proof/Config.lean ====
section
/-!
DEFINITION. What an implementation fixes and the FREE VALUES of the model: constants with no body, so that nothing
in Lean can evaluate them or prove a value of one (assumption log 4 to 10, 24 to 27).
-/
namespace Sys2Proof.Config

/-- A register, lane or byte the spec calls undefined: the value drawn at count `n` of `State.freeCtr`
(R25, R39, R208, R65; log 5, 6). -/
opaque freeWord (n : Nat) : BitVec 64
/-- An undefined predicate register drawn at count `n` (R25; log 5). -/
opaque freePred (n : Nat) : BitVec 256
/-- An undefined byte drawn at count `n` (R67; log 6). -/
opaque freeByte (n : Nat) : BitVec 8
/-- What the byte at physical address `a` reads as after boot `b` until something writes it (R356; log 7). -/
opaque resetByte (b a : Nat) : BitVec 8
/-- Cycles of island `i` that pass at the `n`-th step, beyond those the step itself takes (R7, R357; log 4). -/
opaque elapsed (n i : Nat) : Nat
/-- The key that firmware drew for owner slot `o` at boot `b`, and the module key of boot `b` (R345, R352; log 8). -/
opaque drawnKey (b o : Nat) : BitVec 512
opaque moduleKey (b : Nat) : BitVec 512
/-- The module's point key, drawn at boot `b` (R116, R352; log 10). -/
opaque pointKey (b : Nat) : BitVec 128
/-- The placement salt firmware draws for function `f` at boot `b` (R352; log 10). -/
opaque resetSalt (b f : Nat) : BitVec 128
/-- SHA-384 of a byte string (R350, R354; log 9: the function itself lies outside the spec's text). -/
opaque sha384 (bytes : List (BitVec 8)) : BitVec 384
/-- Whether both signatures of an image header verify under the keys the fuses name (R351; log 9). -/
opaque signaturesOk (header : List (BitVec 8)) : Bool
/-- The hash of the image-signing keys held in the fuses (R351; log 9). -/
opaque fuseKeyHash : BitVec 384
/-- Byte `i` of boot-flash slot `b` as delivered (R350; log 9). -/
opaque flashByte (slotB : Bool) (i : Nat) : BitVec 8
/-- The preference byte, the fused security version and the boot counter as delivered (R350, R351, R354; log 9). -/
opaque flashPrefB : Bool
opaque fuseSvn : BitVec 16
opaque bootCount : Nat
/-- ROM and fuse values the measurements extend over (R354; log 9). -/
opaque romBytes : List (BitVec 8)
opaque fuseBytes : List (BitVec 8)
/-- The ECDSA and LMS signatures and the alias certificate of a report (R354; log 9): bytes 456-4095. -/
opaque reportTail (b : Nat) (signed : List (BitVec 8)) : List (BitVec 8)
/-- The number of a boot's first report (R354; log 9). -/
opaque firstReport : Nat
/-- The router output ports, die-link ports and peer link engines, as points of classes 0, 7 and 8, on the way from one place to
another: each is a point of R123, or the unit of a requester (R123, R130; log 16). -/
opaque route (start finish : Nat × Nat) : List (Nat × Nat)
/-- LQ of function 0 while the bring-up service runs (R353; log 9). -/
opaque bringUpLq : BitVec 64
/-- Where the inbox and ready rings of a core stand while the bring-up service runs (R353; log 9): a size and a place. -/
opaque bringUpRing (n j : Nat) : Nat × Nat
/-- The CXL window that firmware finds at bring-up: base and size in GiB (R355; log 9). -/
opaque cxlBase : BitVec 22
opaque cxlGiB : BitVec 32
/-- Sensor readings at refresh `n`: supply, temperature, island power, module power (R359, R360; log 24). -/
opaque sensorMv (n i : Nat) : BitVec 16
opaque sensorTemp (n i : Nat) : BitVec 16
opaque sensorMw (n i : Nat) : BitVec 32
opaque sensorPower (n : Nat) : BitVec 32
/-- Corrections made for structure code `c` in step `n` (R361; log 24). -/
opaque corrections (n c : Nat) : Nat
/-- The driver's group table (R246; its layout is not in the spec, log 25): at table `t`, group `q`, the
participants in rank order as (module, global cluster); this module is module 0 of the list's numbering. -/
opaque groupMembers (t q : Nat) : List (Nat × Nat)
/-- The group's timeout in cycles of the I/O island (R248; log 25). -/
opaque groupTimeout (t q : Nat) : Nat
/-- What a participant on another module contributes to element `x` of collective `cseq` (R247; log 25). -/
opaque peerElement (t q rank : Nat) (cseq : BitVec 32) (x : Nat) : BitVec 64
/-- Whether participants on other modules have been heard from, and agree in OP, RED, TCODE and COUNT
(R248; log 25). -/
opaque peerHeard (t q : Nat) (cseq : BitVec 32) (n : Nat) : Bool
opaque peerAgrees (t q : Nat) (cseq : BitVec 32) (header count : BitVec 64) : Bool
/-- Whether no participant on another module still needs a source of collective `cseq` (R248; log 25). -/
opaque peerDone (t q : Nat) (cseq : BitVec 32) (n : Nat) : Bool
/-- The rank whose chunk holds element `x` of an all-reduce of `count` elements that `p` does not divide: the spec
defines chunks of COUNT/P elements only (R246, R247; log 25). -/
opaque oddChunk (p count x : Nat) : Nat
/-- Which of an issued but unperformed store of a killed context goes which way at count `n` (R341; log 26). -/
opaque killPerforms (n : Nat) : Bool
/-- An approximate function's result where the interval of the model's arithmetic does not decide the rounding
of R110 (log 27). -/
opaque approxFree (fn : Nat) (f : Nat) (x : BitVec 64) : BitVec 64

/-- Shared entries of a point of class `k`, whose number R123 and R124 leave open (log 16). -/
opaque sharedEntries (k : Nat) : Nat
/-- A matrix engine keeps the sectors it has read for the next row, at step `n` (R92; log 63). -/
opaque engineKeeps (n : Nat) : Bool
/-- Words that core `m` has fetched ahead of its current instruction at step `n`, at most 16 (R94, R296; log 62). -/
opaque fetchedAhead (n m : Nat) : Nat
/-- A unit of the fill or drain of a tile is in flight when the release that is move `n` reaches the port (R67; log 58). -/
opaque unitInFlight (n : Nat) : Bool

end Sys2Proof.Config
end

