-- ==== Sys2Proof/Machine/Store.lean ====
section
/-!
DEFINITION. Sparse tables and byte memories: lookups, updates, and the bit-field, sign and byte-order helpers
(spec/00_scope.md R3, R5; spec/01_notation.md R21).
-/
namespace Sys2Proof.Machine

/-- The entry of key `k`. -/
def Store.find {α : Type} (k : Nat) : Store α → Option α
  | [] => none
  | (j, x) :: l => if j = k then some x else Store.find k l

/-- Set the entry of key `k`, keeping the keys rising. -/
def Store.put {α : Type} (k : Nat) (x : α) : Store α → Store α
  | [] => [(k, x)]
  | (j, y) :: l => if k < j then (k, x) :: (j, y) :: l else if j = k then (k, x) :: l else (j, y) :: Store.put k x l

/-- Remove the entry of key `k`. -/
def Store.del {α : Type} (k : Nat) : Store α → Store α
  | [] => []
  | (j, y) :: l => if j = k then Store.del k l else (j, y) :: Store.del k l

/-- The keys rise strictly. -/
def Store.rising {α : Type} : Store α → Bool
  | [] => true
  | (j, _) :: l => (match l with | [] => true | (k, _) :: _ => decide (j < k)) && Store.rising l

/-- The entry of key `k`, or `d` where unlisted. -/
def Store.get {α : Type} (d : α) (k : Nat) (l : Store α) : α := (Store.find k l).getD d

/-- The byte at `a`: the listed one, or what an unlisted address reads as (`u`). -/
def memRead (u : Nat → Option Byte) (l : List Host.Cell) (a : Nat) : Option Byte :=
  match Store.find a l with
  | some b => some b
  | none => u a

/-- Write the byte at `a`, in canonical form: no entry equals what an unlisted address reads as. -/
def memWrite (u : Nat → Option Byte) (l : List Host.Cell) (a : Nat) (b : Byte) : List Host.Cell :=
  if u a = some b then Store.del a l else Store.put a b l

/-- The canonical form of a byte memory: addresses strictly rising, no entry equal to what an unlisted address
reads as. -/
def Memory.wf (u : Nat → Option Byte) (l : List Host.Cell) : Bool :=
  Store.rising l && l.all (fun c => decide (u c.1 ≠ some c.2))

/-- Plates and accumulator tiles read as 0 where unlisted (R356). -/
def zeroMem : Nat → Option Byte := fun _ => some 0

/-- Image B: the count table, the top 512 MiB of stack 7, is zeroed at reset (R355, R356); no other byte has a value
the spec promises (log 7). -/
def bMem : Nat → Option Byte := fun a => if 0x7FE0000000 ≤ a ∧ a < 0x8000000000 then some 0 else none

/-- Byte `i` of a value (R5). -/
def byteAt {w : Nat} (x : BitVec w) (i : Nat) : Byte := x.extractLsb' (8 * i) 8

/-- The value of `n` bytes from `a` on, little-endian (R5). -/
def joinBytes (f : Nat → Byte) (a : Nat) : Nat → Nat
  | 0 => 0
  | n + 1 => (f a).toNat + 256 * joinBytes f (a + 1) n

/-- `n` bytes from `a` on as a word (n ≤ 8). -/
def readWord (f : Nat → Byte) (a n : Nat) : Word := BitVec.ofNat 64 (joinBytes f a n)

/-- Write the low `n` bytes of a value from `a` on. -/
def writeBytes {w : Nat} (u : Nat → Option Byte) (x : BitVec w) (a : Nat) : Nat → List Host.Cell → List Host.Cell
  | 0, l => l
  | n + 1, l => memWrite u (writeBytes u x a n l) (a + n) (byteAt x n)

/-- Sext(x, n): the low `n` bits, sign-extended (R21). -/
def sextN (n : Nat) (x : Word) : Word := (x.setWidth n).signExtend 64
/-- Zext(x, n): the low `n` bits, zero-extended (R21). -/
def zextN (n : Nat) (x : Word) : Word := (x.setWidth n).setWidth 64

/-- Bits [hi:lo] of a word as a number. -/
def bitsOf {w : Nat} (x : BitVec w) (hi lo : Nat) : Nat := (x.toNat / 2 ^ lo) % 2 ^ (hi + 1 - lo)
/-- Bit `i` of a value. -/
def bitOf {w : Nat} (x : BitVec w) (i : Nat) : Bool := x.getLsbD i

/-- Word `i` of a wide value. -/
def wordAt {w : Nat} (r : BitVec w) (i : Nat) : Word := r.extractLsb' (64 * i) 64
/-- A record made of its words, word 0 first. -/
def mkRec (ws : List Word) : Rec := ws.foldr (fun w r => (r <<< 64) ||| w.setWidth 512) 0
/-- Replace word `i` of a record. -/
def setWordAt (r : Rec) (i : Nat) (w : Word) : Rec :=
  mkRec ((List.range 8).map fun j => if j = i then w else wordAt r j)

/-- A 1 or a 0. -/
def b2n (b : Bool) : Nat := if b then 1 else 0

/-- The first element that satisfies `p`, with the list without it. -/
def takeFirst {α : Type} (p : α → Bool) : List α → Option (α × List α)
  | [] => none
  | x :: l => if p x then some (x, l) else
    match takeFirst p l with
    | some (y, r) => some (y, x :: r)
    | none => none

/-- Replace the first element that satisfies `p`. -/
def mapFirst {α : Type} (p : α → Bool) (f : α → α) : List α → List α
  | [] => []
  | x :: l => if p x then f x :: l else x :: mapFirst p f l

end Sys2Proof.Machine
end

