-- ==== Sys2Proof/Machine/Flags.lean ====
section
/-!
DEFINITION. Number formats and exact arithmetic (spec/05_number_formats.md R96 to R111): the exact value of an
encoding, Round(x, f, m), the NaN rules, and the arithmetic of the vector, tree and atomic instructions. The machine
keeps no flags (R97): this file is where a result is computed.
-/
namespace Sys2Proof.Machine

/-! ### Exact values -/

/-- A finite exact value: sign, and magnitude `m · 2^e`; with `sticky` the magnitude lies strictly between `m · 2^e`
and `(m + 1) · 2^e` (only results of division, square root and the approximate functions, whose `m` has more than 96
bits, so that no rounding of R99 depends on more). -/
structure Exact where
  neg : Bool
  m : Nat
  e : Int
  sticky : Bool
  deriving DecidableEq, Repr

/-- A value: NaN, an infinity, or finite (R21, Val). -/
inductive FVal where
  | nan
  | inf (neg : Bool)
  | fin (x : Exact)
  deriving DecidableEq, Repr

/-- Overflow and NaN policies of R102; the IEEE formats follow `ieee`. -/
inductive Policy where
  | ieee | onenan | satfin
  deriving DecidableEq, Repr

/-- A float format: exponent and mantissa widths, bias, sign bit and policy (R96, R102). -/
structure FFmt where
  signed : Bool
  e : Nat
  m : Nat
  bias : Int
  policy : Policy
  /-- one of the four IEEE formats of R96 -/
  std : Bool
  deriving DecidableEq, Repr

/-- FP64, FP32, FP16 and BF16 (R96). -/
def f64 : FFmt := ⟨true, 11, 52, 1023, .ieee, true⟩
def f32 : FFmt := ⟨true, 8, 23, 127, .ieee, true⟩
def f16 : FFmt := ⟨true, 5, 10, 15, .ieee, true⟩
def bf16 : FFmt := ⟨true, 8, 7, 127, .ieee, true⟩

/-- Bits of an element. -/
def FFmt.width (f : FFmt) : Nat := f.e + f.m + b2n f.signed
/-- Bits of the magnitude. -/
def FFmt.magBits (f : FFmt) : Nat := f.e + f.m
/-- The sign bit's weight. -/
def FFmt.signBit (f : FFmt) : Nat := 2 ^ f.magBits
/-- The exponent of the last place of the subnormals (R103). -/
def FFmt.qmin (f : FFmt) : Int := 1 - f.bias - f.m
/-- The largest finite magnitude as a code (R96, R103). -/
def FFmt.maxCode (f : FFmt) : Nat :=
  match f.policy with
  | .ieee => (2 ^ f.e - 1) * 2 ^ f.m - 1
  | .onenan => if f.signed then 2 ^ f.magBits - 1 else 2 ^ f.magBits - 2
  | .satfin => 2 ^ f.magBits - 1
/-- The code of +∞ (policy ieee). -/
def FFmt.infCode (f : FFmt) : Nat := (2 ^ f.e - 1) * 2 ^ f.m
/-- The canonical NaN, or the one NaN code (R96, R99 step 4, R103); +0 under satfin. -/
def FFmt.nanCode (f : FFmt) : Nat :=
  match f.policy with
  | .ieee => f.infCode + 2 ^ (f.m - 1)
  | .onenan => if f.signed then f.signBit else 2 ^ f.magBits - 1
  | .satfin => 0

/-- The magnitude bits and the sign of an encoding. -/
def FFmt.mag (f : FFmt) (x : Nat) : Nat := x % f.signBit
def FFmt.neg (f : FFmt) (x : Nat) : Bool := f.signed && x / f.signBit % 2 == 1

/-- Whether an encoding is NaN (R96, R103). -/
def FFmt.isNan (f : FFmt) (x : Nat) : Bool :=
  match f.policy with
  | .ieee => f.infCode < f.mag x
  | .onenan => if f.signed then f.neg x && f.mag x == 0 else f.mag x == 2 ^ f.magBits - 1
  | .satfin => false

/-- The exact value of a magnitude code (R103). -/
def FFmt.magVal (f : FFmt) (neg : Bool) (c : Nat) : Exact :=
  let ex := c / 2 ^ f.m
  let mm := c % 2 ^ f.m
  if ex = 0 then ⟨neg, mm, f.qmin, false⟩ else ⟨neg, 2 ^ f.m + mm, f.qmin + (ex - 1 : Nat), false⟩

/-- Val(x, f) (R21, R103). -/
def FFmt.val (f : FFmt) (x : Nat) : FVal :=
  if f.isNan x then .nan
  else if f.policy == .ieee && f.mag x == f.infCode then .inf (f.neg x)
  else .fin (f.magVal (f.neg x) (f.mag x))

/-! ### Rounding (R99 to R101) -/

/-- A rounding mode; stochastic rounding carries its drawn word u (R101). -/
inductive RMode where
  | rne | rtz | rup | rdn | rna
  | sr (u : BitVec 32)
  deriving DecidableEq, Repr

/-- A mode code of R100 with the word a stochastic rounding would draw. -/
def RMode.ofCode (c : Nat) (u : BitVec 32) : RMode :=
  match c with
  | 0 => .rne | 1 => .rtz | 2 => .rup | 3 => .rdn | 4 => .rna | 5 => .sr u | _ => .rne

/-- The integer part `k` of `|x| / 2^q` and its fraction as `num / 2^sh`, with the sticky bit. -/
structure Split where
  k : Nat
  num : Nat
  sh : Nat
  sticky : Bool
  deriving DecidableEq, Repr

/-- Cut a magnitude at weight 2^q. -/
def Exact.split (x : Exact) (q : Int) : Split :=
  if q ≤ x.e then ⟨x.m * 2 ^ (x.e - q).toNat, 0, 0, x.sticky⟩
  else
    let sh := (q - x.e).toNat
    ⟨x.m / 2 ^ sh, x.m % 2 ^ sh, sh, x.sticky⟩

/-- Whether anything lies below the cut. -/
def Split.inexact (s : Split) : Bool := s.num != 0 || s.sticky

/-- Whether the magnitude is rounded away from zero (R99 step 2); `even` says that the neighbour towards zero has
an encoding with least significant bit 0. -/
def Split.up (s : Split) (neg even : Bool) (md : RMode) : Bool :=
  let half := 2 ^ s.sh
  let twice := 2 * s.num
  if !s.inexact then false
  else match md with
    | .rne => half < twice || (half == twice && (s.sticky || !even))
    | .rna => half ≤ twice
    | .rtz => false
    | .rup => !neg
    | .rdn => neg
    | .sr u =>
      -- R101: b is taken when u < ⌊2^32 (x − a)/(b − a)⌋
      let t := s.num * 2 ^ 32 / 2 ^ s.sh
      let exact := s.num * 2 ^ 32 % 2 ^ s.sh == 0 && !s.sticky
      if !neg then u.toNat < t
      else !(u.toNat < (if exact then 2 ^ 32 - t else 2 ^ 32 - t - 1))

/-- How a rounded value came about (the rows of R109). -/
inductive RKind where
  /-- exact, or step 2 without overflow -/
  | near
  /-- ± largest finite by overflow -/
  | clamped
  /-- infinity or NaN by overflow, or step 6 -/
  | lost
  deriving DecidableEq, Repr

/-- The result of Round: an encoding and how it came about. -/
structure Rounded where
  bits : Nat
  kind : RKind
  deriving DecidableEq, Repr

/-- A signed magnitude as an encoding; a signed onenan format has no −0 (R99 step 5). -/
def FFmt.enc (f : FFmt) (neg : Bool) (code : Nat) : Nat :=
  if !f.signed || !neg || (f.policy == .onenan && code == 0) then code else f.signBit + code

/-- Overflow (R99 step 3). -/
def FFmt.overflow (f : FFmt) (neg : Bool) (md : RMode) : Rounded :=
  match f.policy with
  | .ieee =>
    let toMax := match md with | .rtz => true | .rdn => !neg | .rup => neg | _ => false
    if toMax then ⟨f.enc neg f.maxCode, .clamped⟩ else ⟨f.enc neg f.infCode, .lost⟩
  | .onenan => ⟨f.nanCode, .lost⟩
  | .satfin => ⟨f.enc neg f.maxCode, .clamped⟩

/-- Steps 1 to 3 of R99 for a finite value of sign `neg`. The magnitude codes of a format are consecutive, so the
neighbours of a value are a code and the next one. -/
def FFmt.roundFin (f : FFmt) (x : Exact) (md : RMode) : Rounded :=
  if x.m = 0 && !x.sticky then ⟨f.enc x.neg 0, .near⟩
  else
    let q := max ((x.m.log2 : Int) + x.e - f.m) f.qmin
    let s := x.split q
    let code := s.k + (q - f.qmin).toNat * 2 ^ f.m
    let code' := if s.up x.neg (code % 2 == 0) md then code + 1 else code
    if f.maxCode < code' then f.overflow x.neg md else ⟨f.enc x.neg code', .near⟩

/-- Round(x, f, m) for a value that is no NaN (R99 steps 1 to 3, 5, 6). -/
def FFmt.roundVal (f : FFmt) (v : FVal) (md : RMode) : Rounded :=
  match v with
  | .nan => ⟨f.nanCode, .lost⟩
  | .inf neg =>
    if !f.signed && neg then ⟨if f.policy == .satfin then 0 else f.nanCode, .lost⟩
    else if f.policy == .ieee then ⟨f.enc neg f.infCode, .near⟩ else f.overflow neg md
  | .fin x =>
    if !f.signed && x.neg && (x.m != 0 || x.sticky) then
      let r := f.roundFin { x with neg := false } md
      if r.bits = 0 then ⟨0, .lost⟩ else ⟨if f.policy == .satfin then 0 else f.nanCode, .lost⟩
    else f.roundFin x md

/-- Round to an integer under a mode (R99 step 7), before the clamp. -/
def Exact.toIntRound (x : Exact) (md : RMode) : Int :=
  let s := x.split 0
  let k := if s.up x.neg (s.k % 2 == 0) md then s.k + 1 else s.k
  if x.neg then -(k : Int) else k

/-- An integer format: signed, and its width (R96). -/
structure IFmt where
  signed : Bool
  w : Nat
  deriving DecidableEq, Repr

/-- The range of an integer format. -/
def IFmt.lo (f : IFmt) : Int := if f.signed then -(2 : Int) ^ (f.w - 1) else 0
def IFmt.hi (f : IFmt) : Int := if f.signed then (2 : Int) ^ (f.w - 1) - 1 else (2 : Int) ^ f.w - 1
/-- Clamp to the range. -/
def IFmt.clamp (f : IFmt) (x : Int) : Int := if x < f.lo then f.lo else if f.hi < x then f.hi else x
/-- The encoding of an integer: the low bits of its two's complement. -/
def IFmt.enc (f : IFmt) (x : Int) : Nat := (x % (2 : Int) ^ f.w).toNat
/-- The integer an encoding stands for. -/
def IFmt.int (f : IFmt) (x : Nat) : Int :=
  let y := x % 2 ^ f.w
  if f.signed && 2 ^ (f.w - 1) ≤ y then (y : Int) - (2 : Int) ^ f.w else y

/-- Step 7 of R99. -/
def IFmt.round (f : IFmt) (v : FVal) (md : RMode) : Nat :=
  match v with
  | .nan => 0
  | .inf neg => f.enc (if neg then f.lo else f.hi)
  | .fin x => f.enc (f.clamp (x.toIntRound md))

/-- Step 8 of R99: a mass leaf at exponent `e`. -/
def roundMass (e : Int) (v : FVal) (md : RMode) : Nat :=
  match v with
  | .nan => 0
  | .inf neg => if neg then 0 else 2 ^ 32 - 1
  | .fin x => if x.neg then 0 else (IFmt.mk false 32).round (.fin { x with e := x.e - e }) md

/-! ### NaN rules (R98) -/

/-- An encoding with its quiet bit set (IEEE formats). -/
def FFmt.quiet (f : FFmt) (x : Nat) : Nat := x ||| 2 ^ (f.m - 1)

/-- A NaN of an IEEE format converted to another IEEE format: sign and high payload bits kept, quiet bit set. -/
def convNan (src dst : FFmt) (x : Nat) : Nat :=
  let p := x % 2 ^ src.m
  let p' := if src.m ≤ dst.m then p * 2 ^ (dst.m - src.m) else p / 2 ^ (src.m - dst.m)
  dst.quiet (dst.enc (src.neg x) (dst.infCode + p'))

/-- What a NaN encoding of `src` becomes in `dst` (R98, R99 step 4). -/
def FFmt.nanTo (src dst : FFmt) (x : Nat) : Nat :=
  if src.std && dst.std then convNan src dst x else dst.nanCode

/-! ### Exact arithmetic -/

/-- A signed integer as an exact value at weight 2^e, with the sign `z` of an exact zero. -/
def exactOfInt (i : Int) (e : Int) (z : Bool) : Exact :=
  if i = 0 then ⟨z, 0, 0, false⟩ else ⟨i < 0, i.natAbs, e, false⟩

/-- The value as an integer multiple of 2^q, for q at most its exponent. -/
def Exact.scaled (x : Exact) (q : Int) : Int :=
  let k : Int := (x.m * 2 ^ (x.e - q).toNat : Nat)
  if x.neg then -k else k

/-- The exact sum; an exact zero is +0, −0 where both are −0, and −0 under RDN unless both are +0 (R214). -/
def Exact.add (x y : Exact) (md : RMode) : Exact :=
  if x.m = 0 && y.m = 0 then
    ⟨if x.neg == y.neg then x.neg else md == .rdn, 0, 0, false⟩
  else
    let q := if x.m = 0 then y.e else if y.m = 0 then x.e else min x.e y.e
    let xi := if x.m = 0 then 0 else x.scaled q
    let yi := if y.m = 0 then 0 else y.scaled q
    exactOfInt (xi + yi) q (md == .rdn)

/-- The exact product. -/
def Exact.mul (x y : Exact) : Exact :=
  ⟨x.neg != y.neg, x.m * y.m, x.e + y.e, false⟩

/-- The quotient, cut to 128 bits beyond the operands' with a sticky bit (y ≠ 0). -/
def Exact.div (x y : Exact) : Exact :=
  let k : Nat := 256
  let n := x.m * 2 ^ k
  ⟨x.neg != y.neg, n / y.m, x.e - y.e - k, n % y.m != 0⟩

/-- The integer square root by binary digits. -/
def isqrtBits (n : Nat) : Nat → Nat → Nat
  | 0, r => r
  | i + 1, r => if (r + 2 ^ i) * (r + 2 ^ i) ≤ n then isqrtBits n i (r + 2 ^ i) else isqrtBits n i r
/-- ⌊√n⌋. -/
def isqrt (n : Nat) : Nat := isqrtBits n (n.log2 / 2 + 1) 0

/-- The square root of a non-negative value, cut to more than 100 bits with a sticky bit. -/
def Exact.sqrt (x : Exact) : Exact :=
  let k : Nat := if (x.e % 2 = 0) then 256 else 257
  let n := x.m * 2 ^ k
  let r := isqrt n
  ⟨x.neg, r, (x.e - k) / 2, r * r != n⟩

/-- The sum of two values that are no NaN: none where it is invalid. -/
def FVal.add (a b : FVal) (md : RMode) : FVal :=
  match a, b with
  | .nan, _ => .nan
  | _, .nan => .nan
  | .inf s, .inf t => if s == t then .inf s else .nan
  | .inf s, .fin _ => .inf s
  | .fin _, .inf t => .inf t
  | .fin x, .fin y => .fin (x.add y md)

/-- The value negated. -/
def FVal.negate : FVal → FVal
  | .nan => .nan
  | .inf s => .inf !s
  | .fin x => .fin { x with neg := !x.neg }

/-- The product. -/
def FVal.mul (a b : FVal) : FVal :=
  match a, b with
  | .nan, _ => .nan
  | _, .nan => .nan
  | .inf s, .inf t => .inf (s != t)
  | .inf s, .fin y => if y.m = 0 then .nan else .inf (s != y.neg)
  | .fin x, .inf t => if x.m = 0 then .nan else .inf (x.neg != t)
  | .fin x, .fin y => .fin (x.mul y)

/-- The quotient. -/
def FVal.div (a b : FVal) : FVal :=
  match a, b with
  | .nan, _ => .nan
  | _, .nan => .nan
  | .inf _, .inf _ => .nan
  | .inf s, .fin y => .inf (s != y.neg)
  | .fin x, .inf t => .fin ⟨x.neg != t, 0, 0, false⟩
  | .fin x, .fin y =>
    if y.m = 0 then (if x.m = 0 then .nan else .inf (x.neg != y.neg))
    else if x.m = 0 then .fin ⟨x.neg != y.neg, 0, 0, false⟩ else .fin (x.div y)

/-- The square root. -/
def FVal.sqrt : FVal → FVal
  | .nan => .nan
  | .inf s => if s then .nan else .inf false
  | .fin x => if x.m = 0 then .fin x else if x.neg then .nan else .fin x.sqrt

/-- The order of exact values: −1, 0, 1 (none with a NaN). -/
def FVal.cmp (a b : FVal) : Option Int :=
  match a, b with
  | .nan, _ => none
  | _, .nan => none
  | .inf s, .inf t => some (if s == t then 0 else if s then -1 else 1)
  | .inf s, .fin _ => some (if s then -1 else 1)
  | .fin _, .inf t => some (if t then 1 else -1)
  | .fin x, .fin y =>
    let q := if x.m = 0 then y.e else if y.m = 0 then x.e else min x.e y.e
    let xi := if x.m = 0 then 0 else x.scaled q
    let yi := if y.m = 0 then 0 else y.scaled q
    some (if xi < yi then -1 else if xi = yi then 0 else 1)

/-! ### IEEE operations on encodings: first NaN operand quieted, else canonical (R98) -/

/-- The first NaN among the operands, quieted; else `k`. -/
def FFmt.nanOr (f : FFmt) (ops : List Nat) (k : Nat) : Nat :=
  match ops.find? f.isNan with
  | some x => f.quiet x
  | none => k

def fAdd (f : FFmt) (md : RMode) (a b : Nat) : Nat :=
  f.nanOr [a, b] (f.roundVal ((f.val a).add (f.val b) md) md).bits
def fSub (f : FFmt) (md : RMode) (a b : Nat) : Nat :=
  f.nanOr [a, b] (f.roundVal ((f.val a).add (f.val b).negate md) md).bits
def fMul (f : FFmt) (md : RMode) (a b : Nat) : Nat :=
  f.nanOr [a, b] (f.roundVal ((f.val a).mul (f.val b)) md).bits
def fDiv (f : FFmt) (md : RMode) (a b : Nat) : Nat :=
  f.nanOr [a, b] (f.roundVal ((f.val a).div (f.val b)) md).bits
def fSqrt (f : FFmt) (md : RMode) (a : Nat) : Nat :=
  f.nanOr [a] (f.roundVal (f.val a).sqrt md).bits

/-- `vmin` (R213): the lesser, −0 below +0, NaN when either is NaN. -/
def fMin (f : FFmt) (a b : Nat) : Nat :=
  f.nanOr [a, b] (match (f.val a).cmp (f.val b) with
    | some c => if c < 0 then a else if 0 < c then b else if f.neg a then a else b
    | none => f.nanCode)
/-- `vmax` (R213). -/
def fMax (f : FFmt) (a b : Nat) : Nat :=
  f.nanOr [a, b] (match (f.val a).cmp (f.val b) with
    | some c => if c < 0 then b else if 0 < c then a else if f.neg a then b else a
    | none => f.nanCode)
/-- `vabs` (R213): the sign bit cleared. -/
def fAbs (f : FFmt) (a : Nat) : Nat := f.mag a

/-- `vfma` and its kin (R164, R214): ±a×b ± c with one rounding. -/
def fFma (f : FFmt) (md : RMode) (negP negC : Bool) (a b c : Nat) : Nat :=
  let p := (f.val a).mul (f.val b)
  let p := if negP then p.negate else p
  let cv := if negC then (f.val c).negate else f.val c
  f.nanOr [a, b, c] (f.roundVal (p.add cv md) md).bits

/-! ### Approximate functions (R110) -/

/-- Round a magnitude to `n` significant bits, to nearest even, with an unbounded exponent range. -/
def Exact.roundSig (x : Exact) (n : Nat) : Exact :=
  let q := (x.m.log2 : Int) + x.e - (n - 1 : Nat)
  let s := x.split q
  ⟨x.neg, if s.up x.neg (s.k % 2 == 0) .rne then s.k + 1 else s.k, q, false⟩

/-- The significant bits kept: min(p, 15) or min(p, 23) (R110). -/
def FFmt.approxBits (f : FFmt) (wide : Bool) : Nat := min (f.m + 1) (if wide then 23 else 15)

/-- The approximate result for the exact value `y`. -/
def approxOf (f : FFmt) (wide : Bool) (y : Exact) : Nat :=
  (f.roundFin (y.roundSig (f.approxBits wide)) .rne).bits

/-- `vrcp`. -/
def fRcp (f : FFmt) (a : Nat) : Nat :=
  f.nanOr [a] (match f.val a with
    | .nan => f.nanCode
    | .inf s => f.enc s 0
    | .fin x => if x.m = 0 then f.enc x.neg f.infCode
                else approxOf f false ((Exact.mk false 1 0 false).div x))

/-- 1/√x for x > 0, cut with a sticky bit: ⌊√(2^2k / m)⌋ scaled. -/
def Exact.rsqrt (x : Exact) : Exact :=
  let (m, e) := if x.e % 2 = 0 then (x.m, x.e) else (2 * x.m, x.e - 1)
  let k : Nat := 256
  let r := isqrt (2 ^ (2 * k) / m)
  ⟨false, r, -(e / 2) - k, r * r * m != 2 ^ (2 * k)⟩

/-- `vrsqrt`. -/
def fRsqrt (f : FFmt) (a : Nat) : Nat :=
  f.nanOr [a] (match f.val a with
    | .nan => f.nanCode
    | .inf s => if s then f.nanCode else f.enc false 0
    | .fin x => if x.m = 0 then f.enc x.neg f.infCode
                else if x.neg then f.nanCode else approxOf f false x.rsqrt)

/-- ⌈a / b⌉. -/
def ceilDiv (a b : Nat) : Nat := (a + b - 1) / b

/-- A fixed-point arithmetic for `vexp2` and `vlog2`: its fraction bits, bounds of ln 2 in it, and the terms its series
take. -/
structure Fixed where
  bits : Nat
  ln2Lo : Nat
  ln2Hi : Nat
  terms : Nat
  deriving DecidableEq, Repr

/-- Bounds of e^y for y in [lo, hi] below 1, in fixed point, by `n` terms of the series: the last term and the sum. -/
def expBounds (p lo hi : Nat) : Nat → Nat → Nat × Nat × Nat × Nat
  | 0, _ => (2 ^ p, 2 ^ p, 2 ^ p, 2 ^ p)
  | n + 1, k =>
    let (tl, th, sl, sh) := expBounds p lo hi n (k - 1)
    let tl' := tl * lo / (2 ^ p * k)
    let th' := ceilDiv (th * hi) (2 ^ p * k)
    (tl', th', sl + tl', sh + th')

/-- Bounds of 2^f for a fixed-point fraction in [lo, hi]. -/
def exp2Bounds (x : Fixed) (lo hi : Nat) : Nat × Nat :=
  let yl := lo * x.ln2Lo / 2 ^ x.bits
  let yh := ceilDiv (hi * x.ln2Hi) (2 ^ x.bits)
  let (_, th, sl, sh) := expBounds x.bits yl yh x.terms x.terms
  (sl, sh + th + 1)

/-- Bounds of Σ z^(2j+1)/(2j+1), j < n, for a fixed-point z in [lo, hi], with the last powers. -/
def atanhBounds (p lo hi : Nat) : Nat → Nat × Nat × Nat × Nat
  | 0 => (lo, hi, 0, 0)
  | n + 1 =>
    let (pl, ph, sl, sh) := atanhBounds p lo hi n
    let d := 2 * n + 1
    (pl * lo / 2 ^ p * lo / 2 ^ p, ceilDiv (ceilDiv (ph * hi) (2 ^ p) * hi) (2 ^ p), sl + pl / d, sh + ceilDiv ph d)

/-- The arithmetic of 160 bits. -/
def fixed160 : Fixed :=
  ⟨160, 0xb17217f7d1cf79abc9e3b39803f2f6af40f34326, 0xb17217f7d1cf79abc9e3b39803f2f6af40f34327, 60⟩

/-- The arithmetic of `p` bits, with ln 2 = 2 atanh(1/3). -/
def fixedOf (p : Nat) : Fixed :=
  let (_, ph, sl, sh) := atanhBounds p (2 ^ p / 3) (ceilDiv (2 ^ p) 3) p
  ⟨p, 2 * sl, 2 * (sh + 2 * ph), p⟩

/-- The result when both ends of an interval round alike. -/
def decided (f : FFmt) (lo hi : Exact) : Option Nat :=
  if approxOf f true lo = approxOf f true hi then some (approxOf f true lo) else none

/-- The result of function `fn` of the operand `a`: of the first arithmetic that decides it, 160 bits or 320, 640 and on to
655,360. An operand that none decides has a free value (log 27). -/
def firstDecided (f : FFmt) (fn a : Nat) (g : Fixed → Option Nat) : Nat :=
  match g fixed160 with
  | some v => v
  | none =>
    match (List.range 12).findSome? fun i => g (fixedOf (320 * 2 ^ i)) with
    | some v => v
    | none => (Config.approxFree fn f.width (BitVec.ofNat 64 a)).toNat % 2 ^ f.width

/-- `vexp2` for a finite operand with a fraction part: the integer part `k` and the fraction as in `Exact.split`. -/
def exp2At (f : FFmt) (neg : Bool) (k : Int) (num sh : Nat) (x : Fixed) : Option Nat :=
  let p := x.bits
  -- the fraction in fixed point, and whether bits lie below it
  let fx := num * 2 ^ p / 2 ^ sh
  let below := b2n (num * 2 ^ p % 2 ^ sh != 0)
  let at_ (v : Nat) (k : Int) : Exact := ⟨false, v, k - p, false⟩
  if !neg then
    let (l, h) := exp2Bounds x fx (fx + below)
    decided f (at_ l k) (at_ h k)
  else
    let (l, h) := exp2Bounds x (2 ^ p - fx - below) (2 ^ p - fx)
    decided f (at_ l (k - 1)) (at_ h (k - 1))

/-- `vexp2`. -/
def fExp2 (f : FFmt) (a : Nat) : Nat :=
  f.nanOr [a] (match f.val a with
    | .nan => f.nanCode
    | .inf s => if s then f.enc false 0 else f.enc false f.infCode
    | .fin x =>
      if x.m = 0 then approxOf f true ⟨false, 1, 0, false⟩
      else if (14 : Int) < (x.m.log2 : Int) + x.e then
        approxOf f true ⟨false, 1, if x.neg then -20000 else 20000, false⟩
      else
        let v := x.split 0
        let k : Int := if x.neg then -(v.k : Int) else v.k
        if v.num = 0 then approxOf f true ⟨false, 1, k, false⟩
        else firstDecided f 2 a (exp2At f x.neg k v.num v.sh))

/-- `vlog2` for the operand `m` · 2^(ex − k), 2^k < m < 2^(k+1). -/
def log2At (f : FFmt) (m k : Nat) (ex : Int) (x : Fixed) : Option Nat :=
  let p := x.bits
  let n := (m - 2 ^ k) * 2 ^ p
  let d := m + 2 ^ k
  let (_, ph, sl, sh) := atanhBounds p (n / d) (ceilDiv n d) x.terms
  let l := 2 * sl * 2 ^ p / x.ln2Hi
  let h := ceilDiv (2 * (sh + 2 * ph) * 2 ^ p) x.ln2Lo
  let at_ (v : Nat) : Exact := exactOfInt (ex * (2 : Int) ^ p + v) (-(p : Int)) false
  decided f (at_ l) (at_ h)

/-- `vlog2`. -/
def fLog2 (f : FFmt) (a : Nat) : Nat :=
  f.nanOr [a] (match f.val a with
    | .nan => f.nanCode
    | .inf s => if s then f.nanCode else f.enc false f.infCode
    | .fin x =>
      if x.m = 0 then f.enc true f.infCode
      else if x.neg then f.nanCode
      else
        let k := x.m.log2
        let ex : Int := (k : Int) + x.e
        if x.m = 2 ^ k then
          (if ex = 0 then f.enc false 0 else approxOf f true ⟨ex < 0, ex.natAbs, 0, false⟩)
        else firstDecided f 3 a (log2At f x.m k ex))

/-! ### Element types (R153) and narrow descriptors (R102) -/

/-- An element type, a narrow one with its descriptor. -/
inductive EType where
  | int (f : IFmt)
  | flt (f : FFmt)
  | mass
  deriving DecidableEq, Repr

/-- A narrow-format descriptor's float format (R102), none where it is invalid. -/
def narrowFmt (d : Word) : Option FFmt :=
  let w4 := bitsOf d 2 0
  let sg := bitOf d 3
  let e := bitsOf d 7 4
  let pl := bitOf d 8
  let pol := bitsOf d 10 9
  let bias : Int := (d.extractLsb' 11 8).toInt
  let w := w4 + 4
  if w4 ≤ 4 && 1 ≤ e && b2n sg + e ≤ w && pol != 3 && (!pl || w == 6)
      && (pol != 0 || (2 ≤ e && 1 ≤ w - b2n sg - e)) then
    some ⟨sg, e, w - b2n sg - e, bias, if pol = 0 then .ieee else if pol = 1 then .onenan else .satfin, false⟩
  else none

/-- SCALE and PLANAR of a descriptor (R102). -/
def fmtScale (d : Word) : Nat := bitsOf d 63 19
def fmtPlanar (d : Word) : Bool := bitOf d 8

/-- The type of a type code (R153); code 12 takes its descriptor. -/
def etypeOf (code : Nat) (desc : Word) : Option EType :=
  match code with
  | 0 => some (.int ⟨true, 8⟩) | 1 => some (.int ⟨true, 16⟩) | 2 => some (.int ⟨true, 32⟩)
  | 3 => some (.int ⟨true, 64⟩) | 4 => some (.int ⟨false, 8⟩) | 5 => some (.int ⟨false, 16⟩)
  | 6 => some (.int ⟨false, 32⟩) | 7 => some (.int ⟨false, 64⟩)
  | 8 => some (.flt f64) | 9 => some (.flt f32) | 10 => some (.flt f16) | 11 => some (.flt bf16)
  | 12 => (narrowFmt desc).map .flt
  | 13 => some .mass
  | _ => none

/-- Bits of an element. -/
def EType.width : EType → Nat
  | .int f => f.w
  | .flt f => f.width
  | .mass => 32

/-- Val of an element; a mass at exponent `e` is L × 2^e (R217). -/
def EType.val (t : EType) (e : Int) (x : Nat) : FVal :=
  match t with
  | .int f => .fin (exactOfInt (f.int x) 0 false)
  | .flt f => f.val (x % 2 ^ f.width)
  | .mass => .fin ⟨false, x % 2 ^ 32, e, false⟩

/-- Conversion of an element (R217): Round(Val(a, S), T, m), a NaN by R98 and R99. -/
def convert (src dst : EType) (e : Int) (md : RMode) (x : Nat) : Rounded :=
  match dst with
  | .int f => ⟨f.round (src.val e x) md, .near⟩
  | .mass => ⟨roundMass e (src.val e x) md, .near⟩
  | .flt g =>
    match src with
    | .flt f =>
      let y := x % 2 ^ f.width
      if f.isNan y then ⟨f.nanTo g y, .lost⟩ else g.roundVal (f.val y) md
    | _ => g.roundVal (src.val e x) md

/-- The residual of `vcvn` (R109), in the source format `g`, for source `x` and narrowed result `r` of format `f`. DESIGN
CHOICE (log 65): the spec calls the difference exactly representable in `g`, which it is not everywhere under RUP, RDN or
SR; there it is rounded to `g` under RNE. DESIGN CHOICE (log 65): an exactly zero difference is +0 in every mode. -/
def residual (g f : FFmt) (x : Nat) (r : Rounded) : Nat :=
  match g.val x with
  | .nan => g.quiet x
  | .inf _ => if r.kind == .near then 0 else x
  | .fin v =>
    match r.kind, f.val r.bits with
    | .lost, _ => x
    | _, .fin q =>
      match (FVal.fin v).add (FVal.fin q).negate .rne with
      | .fin d => if d.m = 0 && !d.sticky then 0 else (g.roundVal (.fin d) .rne).bits
      | d => (g.roundVal d .rne).bits
    | _, _ => x

end Sys2Proof.Machine
end

