-- ==== Sys2Proof/Machine/Cipher.lean ====
section
/-!
DEFINITION. The cipher of main memory: AES-256-XTS over 64-byte units (spec/25_errors_and_containment.md R344). The spec names the
cipher as IEEE 1619 defines it, which is built on FIPS 197; both are taken from there (log 8).
-/
namespace Sys2Proof.Machine

/-! ### AES-256 (FIPS 197) -/

/-- Multiplication by x in GF(2^8) modulo x^8 + x^4 + x^3 + x + 1. -/
def gfDouble (a : Byte) : Byte := (a <<< 1) ^^^ (if a.msb then 0x1B else 0)
/-- Multiplication in GF(2^8), by the bits of the first factor. -/
def gfMul (a b : Byte) : Byte :=
  ((List.range 8).foldl (fun (p : Byte × Byte) i => (if a.getLsbD i then p.1 ^^^ p.2 else p.1, gfDouble p.2)) (0, b)).1
/-- The inverse in GF(2^8), 0 of 0: the power 254. -/
def gfInv (a : Byte) : Byte :=
  (List.range 6).foldl (fun (p : Byte) _ => gfMul (gfMul p p) a) a |> fun p => gfMul p p

/-- The substitution of a byte. -/
def aesSub (a : Byte) : Byte :=
  let b := gfInv a
  b ^^^ b.rotateLeft 1 ^^^ b.rotateLeft 2 ^^^ b.rotateLeft 3 ^^^ b.rotateLeft 4 ^^^ 0x63
/-- Its inverse. -/
def aesUnsub (a : Byte) : Byte := gfInv (a.rotateLeft 1 ^^^ a.rotateLeft 3 ^^^ a.rotateLeft 6 ^^^ 0x05)

/-- Byte `i` of a block of 16 bytes; row `r` of column `c` is byte r + 4c. -/
def blockByte (l : List Byte) (i : Nat) : Byte := l.getD i 0
/-- Sum of two blocks. -/
def blockXor (x y : List Byte) : List Byte := (List.range 16).map fun i => blockByte x i ^^^ blockByte y i
/-- Row `r` of every column moves `r` columns to the left, or back. -/
def shiftRows (back : Bool) (l : List Byte) : List Byte :=
  (List.range 16).map fun i => blockByte l (i % 4 + 4 * ((i / 4 + if back then 4 - i % 4 else i % 4) % 4))
/-- Every column is multiplied by the circulant of `m`. -/
def mixColumns (m : List Byte) (l : List Byte) : List Byte :=
  (List.range 16).map fun i =>
    (List.range 4).foldl (fun (x : Byte) j => x ^^^ gfMul (m.getD ((j + 4 - i % 4) % 4) 0) (blockByte l (4 * (i / 4) + j))) 0

/-- The words of the key schedule, oldest first: each the sum of the word eight before and the last one, which every fourth time
is substituted, and every eighth rotated as well, with the round constant added. -/
def keyWords (key : List Byte) : List (List Byte) :=
  (List.range 52).foldl (fun w k =>
    let last := w.getD (k + 7) []
    let rcon := (List.range (k / 8)).foldl (fun (x : Byte) _ => gfDouble x) 1
    let t := if k % 8 = 0 then
        let r := [last.getD 1 0, last.getD 2 0, last.getD 3 0, last.getD 0 0].map aesSub
        (r.getD 0 0 ^^^ rcon) :: r.drop 1
      else if k % 8 = 4 then last.map aesSub else last
    w ++ [(List.range 4).map fun i => (w.getD k []).getD i 0 ^^^ t.getD i 0])
    ((List.range 8).map fun i => (List.range 4).map fun j => key.getD (4 * i + j) 0)
/-- The key of round `r`. -/
def roundKey (w : List (List Byte)) (r : Nat) : List Byte := (List.range 4).flatMap fun i => w.getD (4 * r + i) []

/-- AES-256 of one block under a key of 32 bytes. -/
def aesEncrypt (key x : List Byte) : List Byte :=
  let w := keyWords key
  let half (l : List Byte) : List Byte := shiftRows false (l.map aesSub)
  let x := (List.range 13).foldl (fun l r => blockXor (mixColumns [2, 3, 1, 1] (half l)) (roundKey w (r + 1))) (blockXor x (roundKey w 0))
  blockXor (half x) (roundKey w 14)

/-- Its inverse. -/
def aesDecrypt (key x : List Byte) : List Byte :=
  let w := keyWords key
  let half (l : List Byte) : List Byte := (shiftRows true l).map aesUnsub
  let x := (List.range 13).foldl (fun l r => mixColumns [0xE, 0xB, 0xD, 9] (blockXor (half l) (roundKey w (13 - r))))
    (blockXor x (roundKey w 14))
  blockXor (half x) (roundKey w 0)

/-! ### XTS over a unit of 64 bytes (R344) -/

/-- The 64 bytes of a key: data key, then tweak key (R283, R344, R352). -/
def keyBlock : KeyVal → BitVec 512
  | .drawn b o => Config.drawnKey b o
  | .module b => Config.moduleKey b
  | .loaded k => k

/-- `n` bytes of a value from byte `i` on. -/
def bytesFrom {w : Nat} (x : BitVec w) (i n : Nat) : List Byte := (List.range n).map fun j => x.extractLsb' (8 * (i + j)) 8

/-- The value of the bytes of a block, byte 0 least significant. -/
def blockValue (l : List Byte) : BitVec 128 := l.foldr (fun b x => (x <<< 8) ||| b.setWidth 128) 0

/-- The mask of block `j` of the unit at physical address `pa`: the tweak, PA[51:6], under the tweak key, times x^j. -/
def xtsMask (k : KeyVal) (pa j : Nat) : List Byte :=
  let tweak : BitVec 128 := BitVec.ofNat 128 (pa / 64 % 2 ^ 46)
  let t := blockValue (aesEncrypt (bytesFrom (keyBlock k) 32 32) (bytesFrom tweak 0 16))
  bytesFrom ((List.range j).foldl (fun (x : BitVec 128) _ => (x <<< 1) ^^^ (if x.msb then 0x87 else 0)) t) 0 16

/-- The 16-byte block at `pa` enciphered, or deciphered. -/
def xtsBlock (crypt : List Byte → List Byte → List Byte) (k : KeyVal) (pa : Nat) (x : BitVec 128) : BitVec 128 :=
  let mask := xtsMask k pa (pa % 64 / 16)
  blockValue (blockXor (crypt (bytesFrom (keyBlock k) 0 32) (blockXor (bytesFrom x 0 16) mask)) mask)

/-- What a reader with key `reader` finds of a 16-byte block at `pa` written under the key `written` (R344, R347). -/
def decryptOther (written reader : KeyVal) (pa : Nat) (x : BitVec 128) : BitVec 128 :=
  xtsBlock aesDecrypt reader pa (xtsBlock aesEncrypt written pa x)

end Sys2Proof.Machine
end

