-- ==== Sys2Proof/Machine/State.lean ====
section
/-!
DEFINITION. The state of a TL-2048 module as plain data: everything spec/ names (INVENTORY.md, '## State'), the
reasons a step stops, and the machine after reset (spec/26_boot_and_bring_up.md R356).
Sparse tables (`Store`) hold the entries that differ from the reset record of their unit.
-/
namespace Sys2Proof.Machine

/-! ### Accesses of the ordering machine (spec/04_ordering.md) -/

/-- Ordering kinds of R79, R308. -/
inductive OrdKind where
  /-- strong -/
  | s
  /-- release-consistent -/
  | rc
  /-- unordered -/
  | u
  deriving DecidableEq, Repr

/-- The two images of R78. -/
inductive Image where
  /-- the coherent image C -/
  | c
  /-- the memory image B -/
  | b
  deriving DecidableEq, Repr

/-- Where an access goes (R56, R78): a plate window, a cluster window or main memory. -/
inductive Dest where
  | plate (n : Nat)
  | cluster (g : Nat)
  | main (img : Image)
  deriving DecidableEq, Repr

/-- The tiers of R308, R310. -/
inductive Tier where
  | hbm
  | cxl
  | flash
  deriving DecidableEq, Repr

/-- Full/empty forms (R192). -/
inductive FeOp where
  | ldff | ldfe | fet | stef | stxf | stxe
  deriving DecidableEq, Repr

/-- Atomic operations (R194). -/
inductive AtomOp where
  | swap | cas | add | and | or | xor | minS | maxS | minU | maxU | fadd
  deriving DecidableEq, Repr

/-- Range operations of one line (R89, R94). -/
inductive RangeOp where
  | clean | inval | flush | icinv
  deriving DecidableEq, Repr

/-- A scalar destination register: `sup` when it lies in the supervisor bank (R277). -/
structure SReg where
  sup : Bool
  reg : Nat
  deriving DecidableEq, Repr

/-- What an access does when it is performed (R80). -/
inductive AccOp where
  /-- part `idx` of gather `gid`: a load to main memory -/
  | load (gid idx : Nat)
  /-- a store of the low `size` bytes -/
  | store (data : Word)
  /-- an atomic (R194): operand, expected value, destination when it returns -/
  | atom (op : AtomOp) (x e : Word) (ret : Option SReg)
  /-- a remote full/empty access (R192, R193) -/
  | fe (op : FeOp) (data : Word) (ret : Option SReg)
  /-- a decrement-and-wake (R34, R197) -/
  | dec (amount : Nat) (work : Word) (ret : Option SReg)
  /-- a message to the inbox of the plate window (R201) -/
  | msg (r : Rec)
  /-- a record to ring `ring` of the plate window (R202, R273) -/
  | push (ring : Nat) (r : Rec)
  /-- a fault message to the core of the plate window (R49): a release of every kind -/
  | faultMsg (r : Rec)
  /-- one line of a range operation (R199, R200) -/
  | range (op : RangeOp)
  /-- a plain fence or `fence.all` of a scope (R198) -/
  | fence (all : Bool) (scope : Nat)
  deriving DecidableEq, Repr

/-- One issued access, fence or range line that has not been performed (R78, R80). -/
structure Access where
  id : Nat
  op : AccOp
  dest : Dest
  /-- window offset, or physical address -/
  addr : Nat
  size : Nat
  va : Word
  kind : OrdKind
  tier : Tier
  /-- `.stream`: allocates in no cache (R70) -/
  stream : Bool
  cache : Nat
  owner : Nat
  sup : Bool
  acq : Bool
  /-- a release of this scope (R83) -/
  rel : Option Nat
  /-- it was queued for a line when an error in that line was detected (R335) -/
  detected : Bool
  /-- MODEL FIELD: issued before a pre-emption, so that it precedes every access issued after the restore (R95) -/
  late : Bool
  /-- arbitration points it is still to pass, the next first, as class and instance (R123, R127) -/
  path : List (Nat × Nat)
  /-- it holds an entry of the first of them (R124) -/
  entered : Bool
  /-- a compare-and-swap that a younger store to its window has passed as one that fails: it counts only as a load, and is
  performed only where it fails (R81, R194) -/
  fails : Bool
  deriving DecidableEq, Repr

/-- One store or atomic in the coherence order of the locations it writes (R78): its place, its bytes, and the owner it was made
for. -/
structure Ordered where
  dest : Dest
  addr : Nat
  size : Nat
  owner : Nat
  deriving DecidableEq, Repr

/-- Where a gather delivers its parts (R189, R212, R256, R281, R205). -/
inductive GDest where
  | sreg (d : SReg) (z : Nat) (signed : Bool)
  | vreg (d : Nat) (z : Nat)
  /-- `wld` of `n` leaves into tree `w`: the update is made when the last load is performed -/
  | tree (w n : Nat)
  /-- `atag` with LOAD -/
  | tile (t o : Nat)
  /-- `wtag` with LOAD -/
  | treeSlot (w o : Nat)
  /-- `ald.d`: reply word and work identifier -/
  | async (reply work : Word)
  deriving DecidableEq, Repr

/-- One load part: lane, byte offset in the lane, bytes, and the value once performed. -/
structure Part where
  lane : Nat
  off : Nat
  size : Nat
  val : Option Word
  deriving DecidableEq, Repr

/-- A load whose parts are being performed. -/
structure Gather where
  gid : Nat
  dest : GDest
  parts : List Part
  va : Word
  /-- the first poisoned address, once one part met poison (R188, R212) -/
  poison : Option Word
  /-- while its core stalls for a window reply at this load: the first word of its chain (R188, R212) -/
  stalls : Option Word
  deriving DecidableEq, Repr

/-! ### What a core is doing -/

/-- A core blocked in an instruction (R43, R44). -/
structure Blocked where
  /-- STATE: 1 active-blocked, 2 clock-gated, 3 power-gated -/
  gate : Nat
  cause : Nat
  ring : Nat
  core : Nat
  resid : Nat
  /-- a hang has been reported in this episode (R45) -/
  reported : Bool
  /-- MODEL FIELD: bit d: the last scan of die d's monitor saw this episode (R46) -/
  seen : BitVec 4
  /-- the blocked full/empty access has been performed and returns this (R63) -/
  done : Option Word
  /-- its destination register -/
  ret : Option SReg
  deriving DecidableEq, Repr

/-- Why a core issues nothing at the moment. -/
inductive Hold where
  | none
  /-- a window load or remote full/empty reply is outstanding (R76, R193) -/
  | reply
  /-- a remote full/empty request is in transit (R193) -/
  | fe (id : Nat)
  /-- blocked (R43) -/
  | blocked (b : Blocked)
  /-- a replayable translation fault awaits its reply (R311) -/
  | fault
  /-- `wld`, `atag` or `wtag` waits for its loads (R88, R284) -/
  | gather (gid : Nat)
  /-- `tinv` waits (R282): the numbers of the accesses to be performed first (R316), and the owner whose entries it dropped -/
  | tinv (ids : List Nat) (owner : Nat)
  /-- `icinv.range` waits (R200) -/
  | icinv
  /-- `keyld` of a slot waits (R283) -/
  | keyld (slot : Nat)
  deriving DecidableEq, Repr

/-- A splice being applied (R142): the core and ring whose engine applies it, the rings of the stage, and the stores that
must be performed before its next step (R144), each with its core. -/
structure Transfer where
  core : Nat
  ring : Nat
  rings : List Nat
  after : List (Nat × Nat)
  deriving DecidableEq, Repr

/-- The running handler (R25 to R28). -/
structure Handler where
  /-- the record kind delivered in s4 (R26) -/
  kind : Nat
  /-- the ring it was dispatched from -/
  ring : Nat
  /-- plate offset of the record's slot -/
  slot : Nat
  entry : Word
  /-- the record as dispatched (R49, words 4 and 5 of a fault message) -/
  record : Rec
  /-- it was dispatched from a fault message (R343) -/
  fromFault : Bool
  /-- set for a state-transfer handler (R142) -/
  transfer : Option Transfer
  /-- frame addresses of the running inline levels, innermost first (R39) -/
  frames : List Word
  /-- LIMIT in force since dispatch and the cycles counted (R42) -/
  limit : Nat
  count : Nat
  deriving DecidableEq, Repr

/-- A ring descriptor (R134), field by field; res0 bits are not stored. -/
structure Ring where
  log2n : BitVec 4
  prio : BitVec 3
  mode : BitVec 2
  grp : BitVec 3
  halt : Bool
  base : BitVec 11
  tail : BitVec 32
  head : BitVec 32
  disp : BitVec 32
  sseq : BitVec 32
  handler : BitVec 48
  state : BitVec 46
  lv : Bool
  lr : Bool
  lrack : BitVec 8
  lcore : BitVec 11
  lring : BitVec 4
  hseq : BitVec 32
  hwait : BitVec 32
  fails : BitVec 32
  applied : BitVec 32
  deriving DecidableEq, Repr

/-- A free ring: every field 0 (R134, R356). -/
def Ring.free : Ring :=
  ⟨0, 0, 0, 0, false, 0, 0, 0, 0, 0, 0, 0, false, false, 0, 0, 0, 0, 0, 0, 0⟩

/-- STATE of a tile (R65). -/
inductive TileState where
  | empty | filling | ready | draining
  deriving DecidableEq, Repr

/-- A tile table entry (R65). -/
structure Tile where
  state : TileState
  prog : BitVec 11
  lenm1 : BitVec 10
  base : BitVec 10
  seq : BitVec 8
  agent : BitVec 8
  deriving DecidableEq, Repr

/-- A request waiting at a plate port for a ring or inbox slot (R32, R202, class 9 of R123). -/
structure PortWait where
  owner : Nat
  /-- the requester's number at the port (R124) -/
  issuer : Nat
  ring : Nat
  /-- the lottery has granted it a slot -/
  granted : Bool
  /-- it holds an entry of the port's queue, else it waits upstream (R124) -/
  entered : Bool
  /-- MODEL FIELD: which of the requester's messages it is: 0 the one a core sends or pushes itself, e + 1 the wake message of
  job entry e, 33 one that the core's ring engine sends, 34 a launch -/
  tag : Nat
  deriving DecidableEq, Repr

/-- A full/empty request parked at a plate port (R63). -/
structure Parked where
  issuer : Nat
  op : FeOp
  addr : Nat
  size : Nat
  data : Word
  ret : Option SReg
  deriving DecidableEq, Repr

/-- A push onto the ready ring that waits for a slot (R37). -/
structure ReadyPush where
  codelet : Word
  work : Word
  issuer : Nat
  deriving DecidableEq, Repr

/-- A cached translation (R309): owner (or supervisor root), virtual page, page size code and leaf entry. -/
structure Trans where
  owner : Nat
  sup : Bool
  page : Nat
  shift : Nat
  leaf : Word
  deriving DecidableEq, Repr

/-- How an agent stands (R243 to R245). -/
inductive AgentState where
  | running
  | ended
  /-- stopped with a cause of R235 -/
  | stopped (cause : Nat)
  deriving DecidableEq, Repr

/-- A steep or rack (R243). -/
structure Agent where
  /-- the 24 words of its descriptor -/
  desc : List Word
  state : AgentState
  /-- elements moved so far -/
  elem : Nat
  /-- records appended or received, drains or fills completed -/
  count : Nat
  /-- kind 3: records accepted and not yet written -/
  buf : List Rec
  /-- kind 3: records written -/
  written : Nat
  /-- kind 3 with WRAP: the consumer count last read -/
  ack : Word
  /-- kind 3 with WRAP: the consumer count is read again before the next record (log 32) -/
  reread : Bool
  /-- waiting for a page (R311) -/
  faulted : Bool
  owner : Nat
  tlb : List Trans
  deriving DecidableEq, Repr

/-- The unit of a drain that was in flight when its tile was released (R67): the tile, the agent's handle, the agent as it
stood, the unit and the plate offset of the tile. -/
structure Flight where
  tile : Nat
  handle : Nat
  agent : Agent
  unit : Nat
  start : Nat
  /-- it is still counted in PROG: the entry has not been written since -/
  counts : Bool
  deriving DecidableEq, Repr

/-- One instruction-cache line: owner, 64-byte line number, bytes (R296). -/
structure ILine where
  owner : Nat
  line : Nat
  data : List Byte
  deriving DecidableEq, Repr

/-- One scalar core with its plate, rings, tiles and agents. -/
structure Core where
  sregs : Vector Word 32
  /-- v0-v31: lane i of vector d at key 256·d + i, 0 where unlisted -/
  vregs : Store Word
  pregs : Vector Pred 16
  fregs : Vector Word 8
  /-- the supervisor bank: s24-s31 while SUP = 1 (R278) -/
  supBank : Vector Word 8
  pc : Word
  /-- the hints of the chain in progress and the address of its first word (R154, R156) -/
  hints : List Code
  chainPc : Word
  /-- MODEL FIELD: the word last fetched, which an instruction that has begun goes on with -/
  ir : Code
  /-- MODEL FIELD: the instruction at the pc has begun and stalls: it was woken (R43), or the lane pool has served its claim
  (R209); no trap is taken before it completes (R156) -/
  begun : Bool
  /-- owner id of the context the core holds (R323) -/
  ctx : Option Nat
  handler : Option Handler
  sup : Bool
  supCount : Nat
  /-- cause of the trap that entered supervisor code (R278) -/
  supCause : BitVec 8
  work : Word
  lanes : Nat
  demand : Nat
  depthCur : Nat
  depthLimit : Nat
  watchdog : Nat
  hangExp : Nat
  round : Nat
  userIndex : Word
  trapCause : BitVec 8
  trapInfo : Word
  trapPc : Word
  faultHandler : BitVec 48
  faultCore : BitVec 11
  hold : Hold
  /-- lines already issued by the range instruction that stalls on a full portion of `ctl.usc` (R74, R199) -/
  rangeAt : Nat
  /-- a trap to be taken at the next chain boundary (R188, R312): cause and info -/
  pending : Option (BitVec 8 × Word)
  /-- MODEL FIELD: the record a waiting push read at issue (R202) -/
  pushRec : Option Rec
  /-- MODEL FIELD: the pc of the `jwait` that stalled last (R236) -/
  jwaitAt : Option Word
  /-- cycles spent idle in the dispatcher or stalled in `jwait`, and the gating that follows: 1 active, 2 clock-gated, 3
  power-gated (R43, R236) -/
  calm : Nat
  gate : Nat
  /-- issued accesses in program order (R78) -/
  pend : List Access
  gathers : List Gather
  /-- plate bytes (R59), 0 where unlisted -/
  plate : List Host.Cell
  /-- full words of the plate (R62), empty where unlisted -/
  full : Store Bool
  rings : Vector Ring 16
  ages : Vector Nat 16
  inboxAge : Nat
  /-- ring taken last at each priority, 0 for none (R40) -/
  lastTaken : Vector Nat 8
  /-- reserved slots of each ring, the inbox at 0 (R201, R202, R205) -/
  reserved : Vector Nat 16
  /-- fault messages in the reserved region of the inbox (R49), oldest first: the inbox TAIL at the arrival and the
  number 0-63 of the slot of the region -/
  faultBox : List (BitVec 32 × Nat)
  /-- numbers of the inbox records that are replies of poisoned asynchronous loads (R205) -/
  poisonReplies : List (BitVec 32)
  tiles : Vector Tile 32
  parked : List Parked
  readyWait : List ReadyPush
  portWait : List PortWait
  /-- steep slots 1-8 and rack slots 0x81-0x88 by handle -/
  agents : Store Agent
  /-- MODEL FIELD: units of a tile in its present fill whose bytes are undefined (R65, R68): tile, plate offset / 128 -/
  spoilt : List (Nat × Nat)
  /-- MODEL FIELD: units in flight of released drains (R67) -/
  flights : List Flight
  /-- a state-transfer handler to run as the next handler: entry, s1, s2, s3 and the splice's ring (R142) -/
  transfer : Option (Word × Word × Word × Word × Transfer)
  /-- MODEL FIELD: splices of this core whose commit waits for the stores it releases (R144) -/
  commits : List Transfer
  /-- MODEL FIELD: rings whose head record failed in one application, in the order they leave in (R143) -/
  failing : List Nat
  /-- MODEL FIELD: HSEQ of a halted ring as it stood before the halt (R146) -/
  hseqWas : Store (BitVec 32)
  icache : List ILine
  /-- words fetched ahead from lines dropped since, each with its address (R94) -/
  ahead : List (Word × Code)
  tlb : List Trans
  /-- dispatch is stopped by a slice end (R330) or a kill (R341) -/
  stopped : Bool
  /-- BLK and RPC of the save block (R331) -/
  blk : Bool
  rpc : Word
  wdc : Nat
  deriving DecidableEq, Repr

/-- The engine state of a saved context, whose layout the save block keeps internal (R331). -/
structure Saved where
  handler : Option Handler
  faultBox : List (BitVec 32 × Nat)
  poisonReplies : List (BitVec 32)
  /-- inbox slots reserved for outstanding asynchronous loads -/
  reserved : Nat
  agents : Store Agent
  spoilt : List (Nat × Nat)
  transfer : Option (Word × Word × Word × Word × Transfer)
  failing : List Nat
  hseqWas : Store (BitVec 32)
  /-- the trap to be taken when the context runs again (R312) -/
  pending : Option (BitVec 8 × Word)
  /-- ready pushes of the core's own decrements that wait for a slot (R37) -/
  readyWait : List ReadyPush
  deriving DecidableEq, Repr

/-- A core after reset (R356, with the reset values of R42, R44, R45, R182): idle in the dispatcher, no context. -/
def Core.reset : Core where
  sregs := Vector.replicate 32 0
  vregs := []
  pregs := Vector.replicate 16 0
  fregs := Vector.replicate 8 0
  supBank := Vector.replicate 8 0
  pc := 0
  hints := []
  chainPc := 0
  ir := 0
  begun := false
  ctx := none
  handler := none
  sup := false
  supCount := 0
  supCause := 0
  work := 0
  lanes := 0
  demand := 0
  depthCur := 0
  depthLimit := 4
  watchdog := 0x400000
  hangExp := 30
  round := 0
  userIndex := 0
  trapCause := 0
  trapInfo := 0
  trapPc := 0
  faultHandler := 0
  faultCore := 0
  hold := .none
  rangeAt := 0
  pending := none
  pushRec := none
  jwaitAt := none
  calm := 0
  gate := 1
  pend := []
  gathers := []
  plate := []
  full := []
  rings := Vector.replicate 16 Ring.free
  ages := Vector.replicate 16 0
  inboxAge := 0
  lastTaken := Vector.replicate 8 0
  reserved := Vector.replicate 16 0
  faultBox := []
  poisonReplies := []
  tiles := Vector.replicate 32 ⟨.empty, 0, 0, 0, 0, 0⟩
  parked := []
  readyWait := []
  portWait := []
  agents := []
  spoilt := []
  flights := []
  transfer := none
  commits := []
  failing := []
  hseqWas := []
  icache := []
  ahead := []
  tlb := []
  stopped := false
  blk := false
  rpc := 0
  wdc := 0

/-! ### Clusters -/

/-- The tag of an accumulator tile (R238). -/
inductive Tag where
  | none
  | owner (o : Nat)
  | sup
  deriving DecidableEq, Repr

/-- A sum-tree register (R249); its nodes are computed from the leaves. -/
structure Tree where
  /-- RAW leaves, 0 where unlisted -/
  raw : Store (BitVec 32)
  exp : BitVec 8
  limit : Nat
  seq : BitVec 32
  tag : Option Nat
  deriving DecidableEq, Repr

/-- The reset state of R249. -/
def Tree.reset : Tree := ⟨[], 0, 256, 0, none⟩

/-- STATE of a job (R227). A job that is done has freed its entry, which shows it until another job takes it (log 31). -/
inductive JobState where
  | done | queued | running | suspended | failed | cancelled
  deriving DecidableEq, Repr

/-- One entry of a job queue (R226 to R235, R246). -/
structure Job where
  seq : BitVec 32
  /-- 1 matrix, 2 copy or bank op, 3 collective -/
  type : Nat
  state : JobState
  cause : Nat
  /-- rows committed, elements completed, or bytes of DST written by a collective (whose status shows PROG 0) -/
  prog : Nat
  owner : Nat
  sup : Bool
  issuer : Nat
  work : Word
  card : List Word
  /-- the descriptors of the fmt registers A and B name (R102, R234) -/
  fmtA : Word
  fmtB : Word
  /-- footprints as intervals [lo, hi) of virtual addresses (R231, R240, R246) -/
  reads : List (Nat × Nat)
  writes : List (Nat × Nat)
  /-- arrival number at the cluster's queues (R90) -/
  order : Nat
  /-- sectors read for the row or run in progress, by virtual line number (R91, R92) -/
  held : Store (List Byte)
  /-- 4-byte elements of the row in progress committed, or sectors of the drain written (R91, R232, R233) -/
  part : Nat
  /-- 4-byte accumulator elements of the row in progress that have been read, by their place in the row (R91, R232) -/
  accs : Store Nat
  /-- 4 KiB pages that the row or element in progress has translated: first byte's physical address and leaf (R316) -/
  pages : Store (Nat × Word)
  /-- some of them under an entry that a `tinv` has dropped since (R316) -/
  stale : Bool
  /-- `jcancel` asked a running job to stop (R237) -/
  cancel : Bool
  /-- every read and write has been made -/
  moved : Bool
  /-- the drain stores have been performed (R233) -/
  drained : Bool
  /-- suspended at a page fault whose record is pending (R311) -/
  faulted : Bool
  /-- the wake message is still to be accepted (R233) -/
  wakeDue : Bool
  /-- collectives: cycles of the I/O island at which it started (R248) -/
  started : Nat
  deriving DecidableEq, Repr

/-- One cluster: accumulator tiles, trees, job queue, lane pool and the translations of its engines. -/
structure Cluster where
  /-- accumulator bytes by window offset (R61), 0 where unlisted -/
  acc : List Host.Cell
  tags : Store Tag
  trees : Vector Tree 8
  jobs : Vector (Option Job) 32
  jobSeq : BitVec 32
  arrivals : Nat
  /-- cores waiting for a claim, each with the lanes it asks for (R209), or for a job entry (R226), and those the lottery has
  granted -/
  claims : List (Nat × Nat)
  claimGrants : List Nat
  admits : List Nat
  admitGrants : List Nat
  meTlb : List Trans
  cpyTlb : List Trans
  deriving DecidableEq, Repr

/-- A cluster after reset (R356). -/
def Cluster.reset : Cluster where
  acc := []
  tags := []
  trees := Vector.replicate 8 Tree.reset
  jobs := Vector.replicate 32 none
  jobSeq := 0
  arrivals := 0
  claims := []
  claimGrants := []
  admits := []
  admitGrants := []
  meTlb := []
  cpyTlb := []

/-! ### Owners and virtual devices -/

/-- Requester of a replayable fault (SRC of R312). -/
inductive FaultSrc where
  | fetch (n : Nat)
  | data (n : Nat)
  /-- the job with SEQ `seq` in entry `e` of cluster `g`, issued by core `n` -/
  | job (g e : Nat) (seq : BitVec 32) (n : Nat) (copy : Bool)
  | agent (n h : Nat)
  /-- the ring engine of core `n`, checking the handlers of the splice `r` in slot number `i` of ring `j` (R146) -/
  | splice (n j : Nat) (i : BitVec 32) (r : Rec)
  deriving DecidableEq, Repr

/-- A fault record pending for one 4 KiB page, with its waiters (R312). -/
structure FaultRec where
  va : Word
  write : Bool
  empty : Bool
  src : FaultSrc
  tag : BitVec 32
  /-- each with the address it faulted at -/
  waiters : List (FaultSrc × Word)
  /-- the record has been written to the queue -/
  written : Bool
  /-- words 2 to 7 of the record -/
  info : List Word
  deriving DecidableEq, Repr

/-- Counters of one arbitration class for one owner (R131). -/
structure Exceed where
  bins : Store Nat
  self : Nat
  grants : Nat
  deriving DecidableEq, Repr

/-- The sweep of a placement epoch (R120, R121): class 1 to 3 and the next set of each instance. -/
structure Sweep where
  phase : Nat
  next : Store Nat
  deriving DecidableEq, Repr

/-- One owner id: its entry (R321), seeds and placement (R114 to R121), fault queue (R312) and bookkeeping. -/
structure Owner where
  /-- the entry last accepted, the entry in force since the last restore, and the entry whose tickets and limiters
  the points use (R321), each 512 bytes -/
  entryNext : BitVec 4096
  entry : BitVec 4096
  entryPts : BitVec 4096
  /-- `ctl.seed.place`, `.arb` and `.user` (R114) -/
  seedPlace : Key128
  seedArb : Key128
  seedUser : Key128
  /-- the seed the arbitration points use, by class·2^32 + instance, `seedArb` at reset value where unlisted -/
  arbInUse : Store Key128
  epoch : BitVec 32
  /-- keys of the current and of the old epoch: seed ⊕ salt as they stood -/
  keyNow : Key128
  keyOld : Option Key128
  sweep : Option Sweep
  /-- placement requests waiting, oldest first (R270): the core that entered each, or none for a change of salt (R115) -/
  reseeds : List (Option Nat)
  exceed : Store Exceed
  /-- limiter balances by class·2^32 + instance (R324) -/
  balance : Store Int
  faults : List FaultRec
  faultTag : BitVec 32
  key : KeyVal
  /-- the id is being retired, and no `keyld` has been performed since the retirement (R346) -/
  retiring : Bool
  needKey : Bool
  killed : Bool
  /-- it has been restored at least once, so FAULTC has been taken (R321) -/
  started : Bool
  deriving DecidableEq, Repr

/-- An owner after reset (R356). -/
def Owner.reset (b o : Nat) : Owner where
  entryNext := 0
  entry := 0
  entryPts := 0
  seedPlace := 0
  seedArb := 0
  seedUser := 0
  arbInUse := []
  epoch := 0
  keyNow := 0
  keyOld := none
  sweep := none
  reseeds := []
  exceed := []
  balance := []
  faults := []
  faultTag := 0
  key := .drawn b o
  retiring := false
  needKey := false
  killed := false
  started := false

/-- Where a virtual device stands in its slice (R329, R330). -/
inductive Slice where
  | off
  | running
  /-- phases 1 to 4 finished up to this number -/
  | ending (phase : Nat)
  deriving DecidableEq, Repr

/-- The launch record being sent (R52). -/
structure Sending where
  bytes : BitVec 1024
  /-- next value of each field -/
  next : List Nat
  deriving DecidableEq, Repr

/-- One record of an error log (R336). -/
abbrev LogRec := BitVec 512

/-- One function (R319): its virtual-device entry, launch queue, log and vectors. -/
structure Func where
  entryNext : BitVec 2048
  entry : BitVec 2048
  entryPts : BitVec 2048
  salt : Key128
  tail : BitVec 32
  head : BitVec 32
  sending : Option Sending
  /-- TAIL was out of range: the sequencer waits for a TAIL write (R326) -/
  launchStop : Bool
  slice : Slice
  /-- LOG by slot 0-63 -/
  log : Store LogRec
  elhead : BitVec 32
  eltail : BitVec 32
  ellost : BitVec 32
  /-- the next record carries LOST -/
  lostMark : Bool
  /-- MSI-X by vector: masked (true where unlisted), pending bit, events counted, timer -/
  masked : Store Bool
  pba : Store Bool
  events : Store Nat
  timer : Store Nat
  /-- interrupts sent, by vector (what the host sees) -/
  sent : Store Nat
  /-- ENABLED was cleared by a partition stop (R342) -/
  disabled : Bool
  deriving DecidableEq, Repr

/-- A function after reset (R356). -/
def Func.reset (b f : Nat) : Func where
  entryNext := 0
  entry := 0
  entryPts := 0
  salt := Config.resetSalt b f
  tail := 0
  head := 0
  sending := none
  launchStop := false
  slice := .off
  log := []
  elhead := 0
  eltail := 0
  ellost := 0
  lostMark := false
  masked := []
  pba := []
  events := []
  timer := []
  sent := []
  disabled := false

/-! ### Main memory -/

/-- A line present in the coherent image C (R78), with the owner it is charged to (R126). -/
structure CLine where
  /-- its 128 bytes, lowest address first -/
  data : List Byte
  dirty : Bool
  /-- the ESEQ of the detection that poisoned it (R338) -/
  poison : Option (BitVec 32)
  owner : Nat
  sup : Bool
  deriving DecidableEq, Repr

/-- One cached copy in a directory of L1D (1), L2 (2) or MSC (3) (R69, R118). -/
structure Copy where
  cls : Nat
  inst : Nat
  set : Nat
  way : Nat
  line : Nat
  owner : Nat
  epoch : BitVec 32
  /-- a copy in an MSC that holds what HBM4E does not (R122, R325) -/
  dirty : Bool
  deriving DecidableEq, Repr

/-- An open L2 read-merge window (R72): its die, line, owner and the joined reads (core, access id). -/
structure Merge where
  die : Nat
  line : Nat
  owner : Nat
  joined : List (Nat × Nat)
  /-- the window has closed: no read joins any more -/
  closed : Bool
  /-- once a write has reached the line: its contents and poison mark before the write, which the joined reads return -/
  old : Option (List Byte × Option (BitVec 32))
  deriving DecidableEq, Repr

/-- Who caches a translation (R309). -/
inductive Walker where
  | core (n : Nat)
  | matrix (g : Nat)
  | copy (g : Nat)
  | agent (n h : Nat)
  deriving DecidableEq, Repr

/-- How far a share break has come (R313). -/
inductive BreakStep where
  /-- the count was read: it is 1 -/
  | sole
  /-- the count was read: it is not 1 -/
  | shared
  /-- frame `f` has been popped -/
  | popped (f : Nat)
  /-- the page has been copied to it -/
  | copied (f : Nat)
  /-- its count is 1 -/
  | counted (f : Nat)
  /-- the leaf names it -/
  | swapped (f : Nat)
  /-- the old frame's count was 1 -/
  | last
  /-- the leaf allows the write -/
  | done
  /-- the owner's translations of the page have been dropped; the accesses of those numbers were made under them (R316) -/
  | dropped (ids : List Nat)
  /-- the write that caused the break is to be performed first -/
  | writing
  deriving DecidableEq, Repr

/-- A share break in progress (R313): the owner and page, the unit whose write caused it and where that stood, the leaf as the
walk read it, and its physical address. -/
structure Break where
  owner : Nat
  sup : Bool
  page : Nat
  shift : Nat
  unit : Walker
  at_ : Word
  leaf : Word
  addr : Nat
  step : BreakStep
  deriving DecidableEq, Repr

/-! ### Arbitration, log, links -/

/-- A slot counter of an arbitration point (R124). -/
structure Point where
  slot : BitVec 32
  slotEpoch : BitVec 32
  paused : Bool
  /-- slots each present owner has waited (W of R125) -/
  waits : Store Nat
  deriving DecidableEq, Repr

/-- A request that is no access of a core and passes arbitration points (R124, R126, R127): of an engine, a steep or rack, the
launch sequencer, the table walker, a fetch or the host port, or a write-back. -/
structure Traffic where
  owner : Nat
  /-- the requester's number at the points (R124) -/
  who : Nat
  line : Nat
  /-- arbitration points it is still to pass, the next first -/
  path : List (Nat × Nat)
  /-- it has an entry in the queue of the next one -/
  entered : Bool
  deriving DecidableEq, Repr

/-- A message built by the device itself, not yet accepted (R147, R233, R365). -/
structure DevMsg where
  target : Nat
  owner : Nat
  fault : Bool
  r : Rec
  /-- the core whose ring engine sends it (R147) -/
  src : Option Nat
  /-- that core's older accesses it is a release of (R33, R147) -/
  after : List Nat
  /-- the requester's number at the plate port, and which of its messages this is (R124) -/
  who : Nat
  tag : Nat
  deriving DecidableEq, Repr

/-- An error detected and not yet logged (R336, R337). -/
structure ErrRec where
  eseq : BitVec 32
  cls : Nat
  cause : Nat
  /-- owner of the detecting access, none when unknown -/
  owner : Option Nat
  kill : Bool
  stop : Bool
  va : Word
  pa : Word
  struct : Word
  core : Nat
  detail : Word
  /-- the owners notified, in increasing id, each with its address and core -/
  owners : List (Nat × Word × Nat)
  /-- the record in function 0's log has been written (R337) -/
  first : Bool
  /-- with no owner known, the function whose log takes the record as well (R51, R312, R326) -/
  func : Option Nat
  deriving DecidableEq, Repr

/-- BOOT.STATE (R355) is a number 0-4, 14 or 15. -/
structure Boot where
  state : Nat
  hbmFail : BitVec 8
  svn : BitVec 16
  fuseSvn : BitVec 16
  slotB : Bool
  trained : BitVec 8
  attempts : Store Nat
  cxlBase : BitVec 22
  cxlGiB : BitVec 32
  rcBase : BitVec 40
  nonce : BitVec 384
  attCmd : Nat
  /-- MODEL FIELD: the command last written to ATTCMD, being carried out while `attCmd` is 1 -/
  attReq : Nat
  attAddr : BitVec 40
  reports : Nat
  /-- the last report written to the host at ATTADDR (R354) -/
  report : List Byte
  /-- boot flash bytes written since delivery, slot A at 0 and slot B at 2^25 (R350) -/
  flash : Store Byte
  prefB : Bool
  bootCount : Nat
  /-- measurements M0-M7 (R354) -/
  meas : Vector (BitVec 384) 8
  raise : Bool
  /-- number of resets, the argument of what entropy drew -/
  resets : Nat
  deriving DecidableEq, Repr

/-- One island (R357, R360). -/
structure Island where
  cycles : Word
  mhz : BitVec 16
  mv : BitVec 16
  temp : BitVec 16
  mw : BitVec 32
  /-- consecutive milliseconds above 105 °C (R363) -/
  hotMs : Nat
  /-- MODEL FIELD: the clock the firmware has asked for; the island's points pause until it is `mhz` (R128, R358) -/
  want : BitVec 16
  deriving DecidableEq, Repr

/-- The module. -/
structure State where
  /-- MODEL FIELD: moves still to be made, first to last (log 3) -/
  agenda : List Instr
  /-- MODEL FIELD: the core whose words issue while the agenda is empty (log 3) -/
  cur : Nat
  /-- MODEL FIELD: the last word of core `cur` stalled, so that another move comes first (log 3) -/
  waited : Bool
  /-- MODEL FIELD: free values drawn so far (log 4, 5) -/
  freeCtr : Nat
  /-- MODEL FIELD: steps made, the argument of elapsed time (log 4) -/
  moves : Nat
  /-- MODEL FIELD: choices that moves with an open choice take next, first to last (R92, R94; log 3) -/
  choices : List Nat
  /-- MODEL FIELD: next number of an access or gather -/
  nextId : Nat
  cores : Store Core
  clusters : Store Cluster
  owners : Store Owner
  funcs : Store Func
  /-- image B (R78): plaintext bytes by physical address -/
  memB : List Host.Cell
  /-- key under which each 64-byte unit of HBM4E or CXL was last written (R345, R347) -/
  unitKey : Store KeyVal
  /-- poisoned 128-byte lines of B with the ESEQ of their detection (R338) -/
  poisonB : Store (BitVec 32)
  /-- MODEL FIELD: lines that hold an uncorrectable error not yet detected, put there from outside (R338; log 28) -/
  latent : List Nat
  /-- image C by line number (R78) -/
  memC : Store CLine
  /-- stores and atomics in the order in which they were performed: the coherence order of each location (R78) -/
  coherence : List Ordered
  /-- atomics that have reached their Kiln unit or L2 slice and are still to be performed, oldest first: core and number (R78,
  R87, R196) -/
  arrivals : List (Nat × Nat)
  /-- share breaks in progress (R313) -/
  breaks : List Break
  copies : List Copy
  /-- fill counters by class·2^32 + instance (R122) -/
  fills : Store (BitVec 32)
  merges : List Merge
  points : Store Point
  /-- requests of others than cores on their way, oldest first (R124, R127) -/
  traffic : List Traffic
  /-- hot-row throttle: activations by (owner·2^64 + row) in the window (R126) -/
  rows : Store Nat
  devMsgs : List DevMsg
  /-- engine state of saved contexts by owner·2^16 + core (R331) -/
  saved : Store Saved
  /-- asynchronous loads of saved contexts whose replies enter the saved inbox: core, access, gather (R331) -/
  lateLoads : List (Nat × Access × Gather)
  errs : List ErrRec
  eseq : BitVec 32
  vdtBase : BitVec 40
  owtBase : BitVec 40
  schBase : BitVec 40
  commitErr : Bool
  schedEn : Bool
  schedErr : Bool
  nrm1 : BitVec 6
  /-- number of the round each cluster is in since SCHED.EN became 1 (R329), 0 where unlisted -/
  rounds : Store Nat
  stopPending : Bool
  /-- while a stop is pending: functions of rounds below this one are still restored (R362) -/
  stopRound : Nat
  boot : Boot
  islands : Store Island
  pwrLim : BitVec 16
  pwrNow : BitVec 32
  capCnt : BitVec 32
  /-- consecutive milliseconds with PWRNOW above PWRLIM (R359) -/
  floorMs : Nat
  /-- MODEL FIELD: the record of that state has been written (R359) -/
  floorTold : Bool
  /-- corrected-error counters by structure code (R361) -/
  corrected : Store Word
  /-- BAR 0 bytes of registers with no behaviour of their own, by function·2^20 + offset -/
  bar : Store Word
  /-- a module-fatal error has stopped every partition (R334) -/
  fatal : Bool
  /-- the value the host's last read through the host port returned (R345) -/
  hostData : Word
  /-- the wait-for relation as each die's last scan built it (R46): pairs of a blocked core and one it waits on -/
  scans : Store (List (Nat × Nat))
  /-- accesses to the bring-up window through the host port held while STATE is 3 (R353), oldest first: function, write,
  address and data -/
  hostHeld : List (Nat × Bool × Nat × Word)
  /-- step 5 of the switch-over has run (R353) -/
  switched : Bool
  deriving DecidableEq, Repr

/-! ### Outcomes -/

/-- Faults of the machine. -/
inductive Fault where
  /-- Raised by HOST_PORT_ACCESS to a physical address where R364 and R355 place no memory: the spec gives the
  host's access no effect. Safe: the machine stops where a chip would do something the spec does not state. -/
  | hostAddressHole
  deriving DecidableEq, Repr

/-- Refusals of a step. -/
inductive Refusal where
  /-- Raised by an instruction the model gives no meaning yet. Safe: nothing follows from it. -/
  | notModelled (mnemonic : String)
  /-- Raised by a move of an event row whose own condition (the rule of its row) does not hold in the state: the
  hardware does not make that move there, so there is no next state to give. Safe: it excludes no move the spec
  allows. -/
  | notEnabled (move : String)
  deriving DecidableEq, Repr

/-- The clock an island starts at (R357). -/
def resetMhz (i : Nat) : BitVec 16 :=
  if i < 36 then 3000 else if i < 44 then 1600 else 2000

/-- An island after reset (R357, R360). -/
def Island.reset (i : Nat) : Island := ⟨0, resetMhz i, 0, 0, 0, 0, resetMhz i⟩

/-- Bytes of boot flash (R350): what has been written, or what was delivered. -/
def flashAt (flash : Store Byte) (slotB : Bool) (i : Nat) : Byte :=
  match flash.find? fun x => x.1 == (if slotB then 2 ^ 25 else 0) + i with
  | some x => x.2
  | none => Config.flashByte slotB i

/-- `n` bytes of an image from offset `a`. -/
def imageBytes (im : Nat → Byte) (a n : Nat) : List Byte := (List.range n).map fun i => im (a + i)

/-- A number of `n` bytes, little-endian. -/
def bytesNum (l : List Byte) : Nat := l.foldr (fun b x => b.toNat + 256 * x) 0

/-- Fields of an image's header (R350). -/
def imageVer (im : Nat → Byte) : Nat := bytesNum (imageBytes im 4 4)
def imageLength (im : Nat → Byte) : Nat := bytesNum (imageBytes im 8 8)
def imageSvn (im : Nat → Byte) : BitVec 16 := BitVec.ofNat 16 (imageVer im)
def imageRaise (im : Nat → Byte) : Bool := imageVer im / 2 ^ 16 % 2 == 1

/-- `n` bytes of a number, little-endian. -/
def numBytes (x n : Nat) : List Byte := (List.range n).map fun i => BitVec.ofNat 8 (x / 2 ^ (8 * i))

/-- M ← SHA-384(M ‖ data) (R354). -/
def extendMeas (m : BitVec 384) (data : List Byte) : BitVec 384 := Config.sha384 (numBytes m.toNat 48 ++ data)

/-- M0 to M3 of a boot with an accepted image, and the others at 0 (R354). -/
def measured (im : Nat → Byte) (fuseSvn : BitVec 16) : Vector (BitVec 384) 8 :=
  #v[extendMeas 0 Config.romBytes, extendMeas 0 (imageBytes im 0 4096), extendMeas 0 (imageBytes im 4096 (imageLength im)),
    extendMeas 0 (Config.fuseBytes ++ numBytes fuseSvn.toNat 2), 0, 0, 0, 0]

/-- Extend M4 over HBMFAIL. -/
def measureTraining (m : Vector (BitVec 384) 8) (fail : BitVec 8) : Vector (BitVec 384) 8 :=
  m.setIfInBounds 4 (extendMeas (m.getD 4 0) [fail])

/-- Base and size of the CXL window: with base 0, or no byte, there is none (R355). -/
def cxlWindow : BitVec 22 × BitVec 32 := if Config.cxlBase = 0 ∨ Config.cxlGiB = 0 then (0, 0) else (Config.cxlBase, Config.cxlGiB)

/-- The boot controller at STATE 4 after the first boot, which the image in the preferred slot runs (R355, R356; log 1, 9). -/
def Boot.ready : Boot where
  state := 4
  hbmFail := 0
  svn := imageSvn (flashAt [] Config.flashPrefB)
  fuseSvn := if imageRaise (flashAt [] Config.flashPrefB) then imageSvn (flashAt [] Config.flashPrefB) else Config.fuseSvn
  slotB := Config.flashPrefB
  trained := 0xFF
  attempts := []
  cxlBase := cxlWindow.1
  cxlGiB := cxlWindow.2
  rcBase := 0x7FE0000
  nonce := 0
  attCmd := 0
  attReq := 0
  attAddr := 0
  reports := 0
  report := []
  flash := []
  prefB := Config.flashPrefB
  bootCount := Config.bootCount
  meas := measureTraining (measured (flashAt [] Config.flashPrefB) Config.fuseSvn) 0
  raise := imageRaise (flashAt [] Config.flashPrefB)
  resets := 0

/-- The module right after reset: the state of R356, at BOOT.STATE 4 (log 1, 11). -/
def State.reset : State where
  agenda := []
  cur := 0
  waited := false
  freeCtr := 0
  moves := 0
  choices := []
  nextId := 0
  cores := []
  clusters := []
  owners := []
  funcs := []
  memB := []
  unitKey := []
  poisonB := []
  latent := []
  memC := []
  coherence := []
  arrivals := []
  breaks := []
  copies := []
  fills := []
  merges := []
  points := []
  traffic := []
  rows := []
  devMsgs := []
  lateLoads := []
  saved := []
  errs := []
  eseq := 0
  vdtBase := 0
  owtBase := 0
  schBase := 0
  commitErr := false
  schedEn := false
  schedErr := false
  nrm1 := 0
  rounds := []
  stopPending := false
  stopRound := 0
  boot := Boot.ready
  islands := []
  pwrLim := 2000
  pwrNow := 0
  capCnt := 0
  floorMs := 0
  floorTold := false
  corrected := []
  bar := []
  fatal := false
  hostData := 0
  scans := []
  hostHeld := []
  switched := false

end Sys2Proof.Machine
end

