-- ==== Sys2Proof/Machine/Stipple.lean ====
section
/-!
DEFINITION. The Stipple generator and the choices drawn from it (spec/06_owner_draws.md R112, R113, R117, R124).
-/
namespace Sys2Proof.Machine

/-- The four 32-bit words x0 to x3 of the generator (R112). -/
structure Quad where
  x0 : BitVec 32
  x1 : BitVec 32
  x2 : BitVec 32
  x3 : BitVec 32
  deriving DecidableEq, Repr

/-- Word `i` of a 128-bit key or counter (R112). -/
def quadWord (k : Key128) (i : Nat) : BitVec 32 := k.extractLsb' (32 * i) 32

/-- k[i mod 5], with k4 the exclusive OR of the key words and 0x3C6E_F372 (R112). -/
def keyWord (k : Key128) (i : Nat) : BitVec 32 :=
  if i % 5 = 4 then quadWord k 0 ^^^ quadWord k 1 ^^^ quadWord k 2 ^^^ quadWord k 3 ^^^ 0x3C6EF372#32
  else quadWord k (i % 5)

/-- Inject(j) (R112). -/
def inject (k : Key128) (j : Nat) (q : Quad) : Quad :=
  ⟨q.x0 + keyWord k j, q.x1 + keyWord k (j + 1), q.x2 + keyWord k (j + 2),
   q.x3 + keyWord k (j + 3) + BitVec.ofNat 32 j⟩

/-- The rotation pairs ρ (R112). -/
def rho (i : Nat) : Nat × Nat :=
  match i % 8 with
  | 0 => (13, 16) | 1 => (21, 8) | 2 => (5, 24) | 3 => (29, 11)
  | 4 => (17, 9) | 5 => (3, 27) | 6 => (23, 14) | _ => (11, 19)

/-- Round `r`, 1 to 12 (R112). -/
def stippleRound (k : Key128) (r : Nat) (q : Quad) : Quad :=
  let (a, b) := rho (r - 1)
  let x0 := q.x0 + q.x1
  let x1 := q.x1.rotateLeft a ^^^ x0
  let x2 := q.x2 + q.x3
  let x3 := q.x3.rotateLeft b ^^^ x2
  let q' : Quad := ⟨x0, x3, x2, x1⟩
  if r % 4 = 0 then inject k (r / 4) q' else q'

/-- Stipple(K, C) (R112). -/
def stipple (k : Key128) (c0 c1 c2 c3 : BitVec 32) : Quad :=
  (List.range 12).foldl (fun q i => stippleRound k (i + 1) q) (inject k 0 ⟨c0, c1, c2, c3⟩)

/-- Output word `i` (mod 4) of a draw. -/
def Quad.word (q : Quad) (i : Nat) : BitVec 32 :=
  match i % 4 with
  | 0 => q.x0 | 1 => q.x1 | 2 => q.x2 | _ => q.x3

/-- o0 | o1<<32 (R112). -/
def Quad.lo (q : Quad) : Word := q.x1 ++ q.x0
/-- o2 | o3<<32 (R112). -/
def Quad.hi (q : Quad) : Word := q.x3 ++ q.x2

/-- The choice ⌊u × n / 2^32⌋ of one of n (R112). -/
def choose (u : BitVec 32) (n : Nat) : Nat := u.toNat * n / 2 ^ 32

/-- The set index of line `line` under placement key `k` in epoch `e`, for class `cls` with 2^`s` sets (R117). -/
def placeSet (k : Key128) (cls : Nat) (e : BitVec 32) (s : Nat) (line : Nat) : Nat :=
  let q := stipple k (BitVec.ofNat 32 cls) 0 e 1
  let m := q.lo ||| 1
  let h := (BitVec.ofNat 64 line ^^^ q.hi) * m
  h.toNat / 2 ^ (64 - s)

/-- log2 of the number of sets of a cache class (R117). -/
def setBits (cls : Nat) : Nat := if cls = 1 then 6 else 15

end Sys2Proof.Machine
end

