-- ==== Sys2Proof/Machine/Regs.lean ====
section
/-!
DEFINITION. Named reads and writes of the state: units by number (R8), the scalar, vector, predicate and fmt registers
(R11, R207, R278), rings (R134), the table entries of R321, and free values.
-/
namespace Sys2Proof.Machine

/-! ### Units -/

/-- Core `n`. -/
def State.core (s : State) (n : Nat) : Core := Store.get Core.reset n s.cores
/-- Replace core `n`. -/
def State.setCore (s : State) (n : Nat) (c : Core) : State := { s with cores := Store.put n c s.cores }
/-- Change core `n`. -/
def State.updCore (s : State) (n : Nat) (f : Core → Core) : State := s.setCore n (f (s.core n))
/-- Cluster `g`. -/
def State.cluster (s : State) (g : Nat) : Cluster := Store.get Cluster.reset g s.clusters
/-- Replace cluster `g`. -/
def State.setCluster (s : State) (g : Nat) (c : Cluster) : State := { s with clusters := Store.put g c s.clusters }
/-- Change cluster `g`. -/
def State.updCluster (s : State) (g : Nat) (f : Cluster → Cluster) : State := s.setCluster g (f (s.cluster g))
/-- Owner `o`. -/
def State.owner (s : State) (o : Nat) : Owner := Store.get (Owner.reset s.boot.resets o) o s.owners
/-- Change owner `o`. -/
def State.updOwner (s : State) (o : Nat) (f : Owner → Owner) : State :=
  { s with owners := Store.put o (f (s.owner o)) s.owners }
/-- Function `f`. -/
def State.func (s : State) (f : Nat) : Func := Store.get (Func.reset s.boot.resets f) f s.funcs
/-- Change function `f`. -/
def State.updFunc (s : State) (f : Nat) (h : Func → Func) : State :=
  { s with funcs := Store.put f (h (s.func f)) s.funcs }
/-- Island `i`. -/
def State.island (s : State) (i : Nat) : Island := Store.get (Island.reset i) i s.islands
/-- Change island `i`. -/
def State.updIsland (s : State) (i : Nat) (f : Island → Island) : State :=
  { s with islands := Store.put i (f (s.island i)) s.islands }

/-- The global cluster of core `n` (R8). -/
def clusterOf (n : Nat) : Nat := n / 8
/-- The compute die of core `n` (R8). -/
def dieOf (n : Nat) : Nat := n / 512
/-- The cluster island of core `n` (R357). -/
def islandOf (n : Nat) : Nat := 8 * dieOf n + (n / 8 % 64) / 8
/-- The base of the plate window of core `n` (R59). -/
def plateBase (n : Nat) : Nat := 0x000E000000000000 + n * 0x100000

/-- Draw one free value: its number, and the state with the next number. -/
def State.draw (s : State) : Nat × State := (s.freeCtr, { s with freeCtr := s.freeCtr + 1 })
/-- Take the next number of an access. -/
def State.newId (s : State) : Nat × State := (s.nextId, { s with nextId := s.nextId + 1 })

/-! ### Registers of a core -/

/-- s[r]: s0 reads as zero (R11); s24 to s31 are the supervisor bank while SUP = 1 (R277). -/
def Core.s (c : Core) (r : BitVec 5) : Word :=
  if r = 0 then 0
  else if c.sup && 24 ≤ r.toNat then c.supBank.getD (r.toNat - 24) 0
  else c.sregs[r.toNat]'r.isLt

/-- s[r] ← v: a result in s0 is discarded (R11). -/
def Core.setS (c : Core) (r : BitVec 5) (v : Word) : Core :=
  if r = 0 then c
  else if c.sup && 24 ≤ r.toNat then { c with supBank := c.supBank.setIfInBounds (r.toNat - 24) v }
  else { c with sregs := c.sregs.set r.toNat v r.isLt }

/-- The register a later write will reach: the bank in force at issue. -/
def Core.sreg (c : Core) (r : BitVec 5) : SReg := ⟨c.sup && 24 ≤ r.toNat, r.toNat⟩

/-- Write a scalar register named at issue (R80, R277). -/
def Core.setSReg (c : Core) (r : SReg) (v : Word) : Core :=
  if r.reg = 0 then c
  else if r.sup then { c with supBank := c.supBank.setIfInBounds (r.reg - 24) v }
  else { c with sregs := c.sregs.setIfInBounds r.reg v }

/-- p[r] for r 0-15 (R180). -/
def Core.p (c : Core) (r : Nat) : Pred := c.pregs.getD r 0
/-- p[r] ← v. -/
def Core.setP (c : Core) (r : Nat) (v : Pred) : Core := { c with pregs := c.pregs.setIfInBounds r v }

/-- v[d][i] (R207). -/
def Core.v (c : Core) (d i : Nat) : Word := Store.get 0 (256 * d + i) c.vregs
/-- v[d][i] ← x. -/
def Core.setV (c : Core) (d i : Nat) (x : Word) : Core :=
  { c with vregs := if x = 0 then Store.del (256 * d + i) c.vregs else Store.put (256 * d + i) x c.vregs }

/-- fmt register r (R222). -/
def Core.fmt (c : Core) (r : Nat) : Word := c.fregs.getD r 0

/-- Ring `j` (R134). -/
def Core.ring (c : Core) (j : Nat) : Ring := c.rings.getD j Ring.free
/-- Replace ring `j`. -/
def Core.setRing (c : Core) (j : Nat) (r : Ring) : Core := { c with rings := c.rings.setIfInBounds j r }
/-- Slots reserved in ring `j` (R201, R202). -/
def Core.resv (c : Core) (j : Nat) : Nat := c.reserved.getD j 0
/-- Change the reservation count of ring `j`. -/
def Core.setResv (c : Core) (j n : Nat) : Core := { c with reserved := c.reserved.setIfInBounds j n }
/-- Tile table entry `t` (R65). -/
def Core.tile (c : Core) (t : Nat) : Tile := c.tiles.getD t ⟨.empty, 0, 0, 0, 0, 0⟩
/-- Replace tile entry `t`. -/
def Core.setTile (c : Core) (t : Nat) (x : Tile) : Core := { c with tiles := c.tiles.setIfInBounds t x }

/-! ### Rings -/

/-- Slots of a ring (R135). -/
def Ring.size (r : Ring) : Nat := if r.log2n = 0 then 0 else 2 ^ r.log2n.toNat
/-- Occupancy TAIL − HEAD (R135). -/
def Ring.occ (r : Ring) : Nat := (r.tail - r.head).toNat
/-- Records not yet taken from the head: TAIL − DISP (R134). -/
def Ring.waiting (r : Ring) : Nat := (r.tail - r.disp).toNat
/-- The plate offset of the slot with number `i` (R135). -/
def Ring.slotAt (r : Ring) (i : BitVec 32) : Nat := r.base.toNat * 64 + (i.toNat % r.size) * 64
/-- Whether ring `j` of a core has a slot that is neither occupied nor reserved (R135, R201). -/
def Core.hasRoom (c : Core) (j : Nat) : Bool := (c.ring j).occ + c.resv j < (c.ring j).size

/-- The words of a ring descriptor (R134). -/
def Ring.word (r : Ring) (i : Nat) : Word :=
  match i with
  | 0 => r.log2n.setWidth 64 <<< 44 ||| r.prio.setWidth 64 <<< 41 ||| r.mode.setWidth 64 <<< 39
          ||| r.grp.setWidth 64 <<< 36 ||| (BitVec.ofBool r.halt).setWidth 64 <<< 35 ||| r.base.setWidth 64 <<< 6
  | 1 => r.tail ++ r.head
  | 2 => r.disp ++ r.sseq
  | 3 => r.handler.setWidth 64 <<< 4
  | 4 => r.state.setWidth 64 <<< 6
  | 5 => (BitVec.ofBool r.lv).setWidth 64 <<< 63 ||| (BitVec.ofBool r.lr).setWidth 64 <<< 62
          ||| r.lrack.setWidth 64 <<< 16 ||| r.lcore.setWidth 64 <<< 4 ||| r.lring.setWidth 64
  | 6 => r.hseq ++ r.hwait
  | 7 => r.fails ++ r.applied
  | _ => 0

/-- A descriptor with word `i` written (privileged stores and restore, R64, R333); res0 bits are ignored (R4). MODE 3 is never
shown (R134): DESIGN CHOICE (log 67), a store of it leaves 0. DESIGN CHOICE (log 77): a LOG2N of 11 to 15, which the spec gives no
meaning, is stored as it is. -/
def Ring.setWord (r : Ring) (i : Nat) (w : Word) : Ring :=
  match i with
  | 0 => { r with log2n := w.extractLsb' 44 4, prio := w.extractLsb' 41 3, mode := if w.extractLsb' 39 2 = 3 then 0 else w.extractLsb' 39 2,
                  grp := w.extractLsb' 36 3, halt := bitOf w 35, base := w.extractLsb' 6 11 }
  | 1 => { r with tail := w.extractLsb' 32 32, head := w.extractLsb' 0 32 }
  | 2 => { r with disp := w.extractLsb' 32 32, sseq := w.extractLsb' 0 32 }
  | 3 => { r with handler := w.extractLsb' 4 48 }
  | 4 => { r with state := w.extractLsb' 6 46 }
  | 5 => { r with lv := bitOf w 63, lr := bitOf w 62, lrack := w.extractLsb' 16 8, lcore := w.extractLsb' 4 11,
                  lring := w.extractLsb' 0 4 }
  | 6 => { r with hseq := w.extractLsb' 32 32, hwait := w.extractLsb' 0 32 }
  | 7 => { r with fails := w.extractLsb' 32 32, applied := w.extractLsb' 0 32 }
  | _ => r

/-- FAILS + 1, saturating (R134). -/
def Ring.fail (r : Ring) : Ring := { r with fails := if r.fails = 0xFFFFFFFF then r.fails else r.fails + 1 }

/-- STATE of a tile as its code (R65). -/
def TileState.code : TileState → Nat
  | .empty => 0 | .filling => 1 | .ready => 2 | .draining => 3
/-- The STATE of a code. -/
def TileState.ofCode : Nat → TileState
  | 1 => .filling | 2 => .ready | 3 => .draining | _ => .empty

/-- Word 0 of a tile table entry (R65). -/
def Tile.word0 (t : Tile) : Word :=
  BitVec.ofNat 64 t.state.code <<< 62 ||| t.prog.setWidth 64 <<< 42 ||| t.lenm1.setWidth 64 <<< 32
    ||| t.base.setWidth 64 <<< 7
/-- Word 1 of a tile table entry: CMD reads as 0 (R65). -/
def Tile.word1 (t : Tile) : Word := t.seq.setWidth 64 <<< 32 ||| t.agent.setWidth 64 <<< 8
/-- The bytes of a tile (R65). -/
def Tile.bytes (t : Tile) : Nat := (t.lenm1.toNat + 1) * 128
/-- Its first plate offset. -/
def Tile.start (t : Tile) : Nat := t.base.toNat * 128

/-! ### Plates -/

/-- Byte `a` of a plate. -/
def Core.plateByte (c : Core) (a : Nat) : Byte := (memRead zeroMem c.plate a).getD 0
/-- `n` plate bytes from `a` (n ≤ 8). -/
def Core.plateRead (c : Core) (a n : Nat) : Word := readWord c.plateByte a n
/-- Write the low `n` bytes of a value at plate offset `a`. -/
def Core.plateWrite {w : Nat} (c : Core) (a n : Nat) (x : BitVec w) : Core :=
  { c with plate := writeBytes zeroMem x a n c.plate }
/-- The 64-byte record at plate offset `a`. -/
def Core.plateRec (c : Core) (a : Nat) : Rec := mkRec ((List.range 8).map fun i => c.plateRead (a + 8 * i) 8)
/-- Words of the plate from offset `a`. -/
def Core.plateWords (c : Core) (a n : Nat) : List Word := (List.range n).map fun i => c.plateRead (a + 8 * i) 8
/-- The full/empty bit of the plate word that contains offset `a` (R62). -/
def Core.fe (c : Core) (a : Nat) : Bool := Store.get false (a / 4) c.full
/-- Set the full/empty bit of that word. -/
def Core.setFe (c : Core) (a : Nat) (b : Bool) : Core :=
  { c with full := if b then Store.put (a / 4) true c.full else Store.del (a / 4) c.full }

/-! ### Owner and virtual-device entries (R321) -/

/-- `n` bytes of an entry from byte `i`, as a number. -/
def field {w : Nat} (e : BitVec w) (i n : Nat) : Nat := (e.toNat / 2 ^ (8 * i)) % 2 ^ (8 * n)

namespace Vd
/-- PART bit g. -/
def part (e : BitVec 2048) (g : Nat) : Bool := bitOf e g
/-- Owner id of slot i. -/
def own (e : BitVec 2048) (i : Nat) : Nat := field e (32 + i) 1
/-- Whether slot i is valid. -/
def svalid (e : BitVec 2048) (i : Nat) : Bool := bitOf e (36 * 8 + i)
/-- ENABLED. -/
def enabled (e : BitVec 2048) : Bool := bitOf e (36 * 8 + 4)
def l2mask (e : BitVec 2048) : Nat := field e 38 2
def mscMask (e : BitVec 2048) (tc : Nat) : Nat := field e (40 + 2 * tc) 2
/-- The 6 policy bits of a traffic class (R325). -/
def mscPol (e : BitVec 2048) (tc : Nat) : Nat := field e 48 3 / 2 ^ (6 * tc) % 64
def coalT (e : BitVec 2048) : Nat := field e 52 4
def coalN (e : BitVec 2048) : Nat := field e 56 2
def lvec (e : BitVec 2048) : Nat := field e 58 2
def lqBase (e : BitVec 2048) : Nat := field e 64 8 / 128 * 128
def lqLog2 (e : BitVec 2048) : Nat := field e 64 8 % 16
def trapEnt (e : BitVec 2048) : Word := BitVec.ofNat 64 (field e 72 8)
def sptBase (e : BitVec 2048) : Nat := field e 80 8
def ffs4 (e : BitVec 2048) : Nat := field e 88 8
def ffs64 (e : BitVec 2048) : Nat := field e 96 8
/-- DSLO with EN, DSHI, DSBASE of range j (R317). -/
def ds (e : BitVec 2048) (j : Nat) : Nat × Nat × Nat :=
  (field e (104 + 24 * j) 8, field e (112 + 24 * j) 8, field e (120 + 24 * j) 8)
def groupT (e : BitVec 2048) : Nat := field e 200 8
end Vd

namespace Own
def ptBase (e : BitVec 4096) : Nat := field e 0 8
def fqBase (e : BitVec 4096) : Nat := field e 8 8
def fqLog2 (e : BitVec 4096) : Nat := field e 16 1
def valid (e : BitVec 4096) : Bool := bitOf e (17 * 8)
def fvec (e : BitVec 4096) : Nat := field e 18 2
def evec (e : BitVec 4096) : Nat := field e 20 2
/-- Tickets of class k (R123). -/
def tick (e : BitVec 4096) (k : Nat) : Nat := field e (24 + 2 * k) 2
def rate (e : BitVec 4096) (k : Nat) : Nat := field e (44 + 4 * k) 2
def depth (e : BitVec 4096) (k : Nat) : Nat := field e (46 + 4 * k) 2
def csBase (e : BitVec 4096) : Nat := field e 88 8
def asBase (e : BitVec 4096) : Nat := field e 96 8
/-- SEED i: place, arb, user. -/
def seed (e : BitVec 4096) (i : Nat) : Key128 := BitVec.ofNat 128 (field e (104 + 16 * i) 16)
def faultC (e : BitVec 4096) : Word := BitVec.ofNat 64 (field e 152 8)
/-- The cores of cluster g that carry this owner's context. -/
def cmap (e : BitVec 4096) (g : Nat) : Nat := field e (256 + g) 1
/-- Whether core n is in CMAP. -/
def hasCore (e : BitVec 4096) (n : Nat) : Bool := (cmap e (n / 8)) / 2 ^ (n % 8) % 2 == 1
end Own

/-- The slot of an entry that names owner `o`, if one does. -/
def slotNaming (e : BitVec 2048) (o : Nat) : Option Nat :=
  [0, 1, 2, 3].find? fun i => Vd.svalid e i && Vd.own e i == o

/-- The function and slot whose entry in force names owner `o` (R319). -/
def State.ownerSlot (s : State) (o : Nat) : Option (Nat × Nat) :=
  s.funcs.findSome? fun (f, x) => (slotNaming x.entry o).map fun i => (f, i)

/-- The function of owner `o`; the bring-up owner belongs to function 0 (R353). -/
def State.funcOf (s : State) (o : Nat) : Nat := ((s.ownerSlot o).map Prod.fst).getD 0

/-- The function whose virtual device runs on cluster `g` in the present slice (R329): that of a context on its cores. -/
def State.vdOn (s : State) (g : Nat) : Option Nat :=
  ((List.range 8).findSome? fun k => (s.core (8 * g + k)).ctx).map s.funcOf

/-- The owner id a core works for: its context's, 0 without one (R182). -/
def Core.own (c : Core) : Nat := c.ctx.getD 0

/-- The entry of the virtual device whose context runs on core `n`. -/
def State.vdOf (s : State) (n : Nat) : BitVec 2048 := (s.func (s.funcOf (s.core n).own)).entry

/-- The owners of the virtual device that runs on cluster `g` (R123, R329). -/
def State.clusterOwners (s : State) (g : Nat) : List Nat :=
  match s.vdOn g with
  | some f => ([0, 1, 2, 3].filter fun i => Vd.svalid (s.func f).entry i).map fun i => Vd.own (s.func f).entry i
  | none => []

/-- A context of owner `o` runs on core `n`: between the save of a slice end and the switch its state is the saved one
(R330, R365). -/
def State.liveFor (s : State) (o n : Nat) : Bool :=
  (s.core n).ctx == some o && (Store.find (o * 2 ^ 16 + n) s.saved).isNone

/-- The limiter of owner `o` at point `i` of class `k` holds a new request back (R126, R324). -/
def State.limited (s : State) (o k i : Nat) : Bool :=
  Own.rate (s.owner o).entryPts k != 0 && decide (Store.get 0 (k * 2 ^ 32 + i) (s.owner o).balance ≤ 0)

/-- A request admitted at point `i` of class `k` takes 1 from its limiter's balance (R324). -/
def State.debit (s : State) (o k i : Nat) : State :=
  if Own.rate (s.owner o).entryPts k = 0 then s
  else s.updOwner o fun w =>
    { w with balance := Store.put (k * 2 ^ 32 + i) (Store.get 0 (k * 2 ^ 32 + i) w.balance - 1) w.balance }

/-- Whether core `t` passes R58 for an access by core `n`: it holds a context of the accessor's owner. -/
def State.mayPlate (s : State) (n t : Nat) : Bool :=
  (s.core n).ctx.isSome && (s.core t).ctx == (s.core n).ctx

/-- Whether cluster `g` passes R58 for core `n`: it is in the partition of the accessor's virtual device, as the core's own is. -/
def State.mayCluster (s : State) (n g : Nat) : Bool := (s.core n).ctx.isSome && (g == clusterOf n || Vd.part (s.vdOf n) g)

end Sys2Proof.Machine
end

