-- ==== Sys2Proof/Machine/Memory.lean ====
section
/-!
DEFINITION. Main memory: the two images of spec/04_ordering.md R78 with keys (R344 to R347) and poison (R338), the cache
directory of R69 with placement and replacement (R117 to R122), the table walk of R307 to R309 and share breaks (R313).
-/
namespace Sys2Proof.Machine

/-! ### Physical memory and keys -/

/-- The CXL window holds the physical address (R310, R355); with base 0 there is none. -/
def State.inCxl (s : State) (pa : Nat) : Bool :=
  s.boot.cxlBase != 0 && decide (s.boot.cxlBase.toNat * 2 ^ 30 ≤ pa) &&
    decide (pa < (s.boot.cxlBase.toNat + s.boot.cxlGiB.toNat) * 2 ^ 30)

/-- The HBM4E tier holds the physical address (R364). -/
def inHbm (pa : Nat) : Bool := decide (pa < 0x8000000000)

/-- Memory lies at the physical address (R364). -/
def State.populated (s : State) (pa : Nat) : Bool := inHbm pa || s.inCxl pa

/-- The key of an access made for owner `o`, or with SUP = 1 (R345); the bring-up window is under the module key (R353). -/
def State.keyFor (s : State) (o : Nat) (sup : Bool) : KeyVal :=
  if sup || s.boot.state != 4 then .module s.boot.resets else (s.owner o).key

/-- The module key (R345). -/
def State.moduleKey (s : State) : KeyVal := .module s.boot.resets

/-- The byte of image B at `pa` as plaintext of the key it was written under (log 7). -/
def State.bRaw (s : State) (pa : Nat) : Byte := (memRead bMem s.memB pa).getD (Config.resetByte s.boot.resets pa)

/-- The byte at `pa` of a 16-byte block written under key `k`, as a reader with key `key` sees it (R344, R347; log 8). -/
def otherKey (k key : KeyVal) (raw : Nat → Byte) (pa : Nat) : Byte :=
  byteAt (decryptOther k key (pa - pa % 16) (BitVec.ofNat 128 (joinBytes raw (pa - pa % 16) 16))) (pa % 16)

/-- The byte of image B at `pa` as a reader with key `key` sees it (R347; log 7, 8). -/
def State.bByte (s : State) (key : KeyVal) (pa : Nat) : Byte :=
  match Store.find (pa / 64) s.unitKey with
  | some k => if k = key then s.bRaw pa else otherKey k key s.bRaw pa
  | none => s.bRaw pa

/-- Bring a 64-byte unit under key `key`: its bytes become what that key reads (R347). -/
def State.bRekey (s : State) (key : KeyVal) (u : Nat) : State :=
  match Store.find u s.unitKey with
  | some k =>
    if k = key then s else
      { s with
        memB := (List.range 64).foldl (fun m i => memWrite bMem m (64 * u + i) (s.bByte key (64 * u + i))) s.memB
        unitKey := Store.put u key s.unitKey }
  | none => { s with unitKey := Store.put u key s.unitKey }

/-- Write one byte of image B under a key. -/
def State.bWriteByte (s : State) (key : KeyVal) (pa : Nat) (v : Byte) : State :=
  let s := s.bRekey key (pa / 64)
  { s with memB := memWrite bMem s.memB pa v }

/-- Write the low `n` bytes of a value in image B. -/
def State.bWrite {w : Nat} (s : State) (key : KeyVal) (x : BitVec w) (pa : Nat) : Nat → State
  | 0 => s
  | n + 1 => (s.bWrite key x pa n).bWriteByte key (pa + n) (byteAt x n)

/-- `n` bytes of image B (n ≤ 8). -/
def State.bRead (s : State) (key : KeyVal) (pa n : Nat) : Word := readWord (s.bByte key) pa n

/-- The byte of image C at `pa`: of the present line, else of B. A clean copy another key filled is passed over, since
a lookup compares only lines of the owner (R118); a dirty one reads as bytes of that other key (R347; log 13). -/
def State.cByte (s : State) (key : KeyVal) (pa : Nat) : Byte :=
  match Store.find (pa / 128) s.memC with
  | none => s.bByte key pa
  | some l =>
    let lk := s.keyFor l.owner l.sup
    let raw := l.data.getD (pa % 128) 0
    if lk = key then raw
    else if l.dirty then otherKey lk key (fun a => l.data.getD (a % 128) 0) pa else s.bByte key pa

/-- `n` bytes of image C (n ≤ 8). -/
def State.cRead (s : State) (key : KeyVal) (pa n : Nat) : Word := readWord (s.cByte key) pa n

/-- The byte of an image. -/
def State.imgByte (s : State) (img : Image) (key : KeyVal) (pa : Nat) : Byte :=
  match img with
  | .c => s.cByte key pa
  | .b => s.bByte key pa

/-- `n` bytes of an image. -/
def State.imgRead (s : State) (img : Image) (key : KeyVal) (pa n : Nat) : Word := readWord (s.imgByte img key) pa n

/-! ### Detected errors (R335, R338) -/

/-- The pseudo-channel of a physical address (R364). -/
def pseudoChannel (pa : Nat) : Nat := pa / 2 ^ 36 % 8 * 64 + pa / 4096 % 64

/-- Insert an owner in increasing id, once. -/
def insertOwner (x : Nat × Word × Nat) : List (Nat × Word × Nat) → List (Nat × Word × Nat)
  | [] => [x]
  | y :: l => if x.1 < y.1 then x :: y :: l else if x.1 = y.1 then y :: l else y :: insertOwner x l

/-- The structure that holds a line, as R336 writes it: the L1D or L2 slice of a copy when the line is read in C, else the
MSC with a copy, else its pseudo-channel; 0 for a line behind the CXL port, which R336 gives no code. -/
def State.lineStruct (s : State) (line : Nat) (inC : Bool) : Word :=
  let at_ (cls : Nat) : Option Copy := s.copies.find? fun c => c.line == line && c.cls == cls
  let word (code inst : Nat) : Word := BitVec.ofNat 64 (code * 2 ^ 24 + inst)
  match (if inC then at_ 1 else none), (if inC then at_ 2 else none), at_ 3 with
  | some c, _, _ => word 0x10 c.inst
  | none, some c, _ => word 0x11 c.inst
  | none, none, some c => word 0x12 c.inst
  | none, none, none => if inHbm (128 * line) then word 0x13 (pseudoChannel (128 * line)) else 0

/-- The arbitration point `p` is a queue of the structure word `w` (R335, R336): a bank of the L2 slice, of the MSC or of the
pseudo-channel. What waits at a cache that a read of a deeper structure fills counts as queued there. -/
def queueOf (w : Word) (p : Nat × Nat) : Bool :=
  let code := bitsOf w 31 24
  let inst := bitsOf w 23 0
  match p.1 with
  | 1 => if code = 0x11 then p.2 / 4 == inst else code == 0x12 || code == 0x13 || code == 0
  | 2 => if code = 0x12 then p.2 / 16 == inst else code == 0x13 && p.2 / 16 == inst / 64
  | 4 => code == 0x13 && p.2 / 16 == inst
  | _ => false

/-- A request on its way stands in a queue of the structure `w`, or has passed every point and is being served. -/
def standsAt (w : Word) (path : List (Nat × Nat)) (entered : Bool) : Bool :=
  match path with
  | [] => true
  | p :: _ => entered && queueOf w p

/-- The access is a request for a line of main memory queued at the structure `w` (R335). -/
def Access.queuedFor (b : Access) (line : Nat) (w : Word) : Bool :=
  (match b.dest with | .main _ => b.addr / 128 == line | _ => false) && standsAt w b.path b.entered

/-- An uncorrectable error of a line not detected before is detected as the line is read, in the copy of C when `inC`
(R335, R338): the owners with a copy, with a request queued at the detecting structure or of the access itself are notified,
and the line is poisoned. `va` is the address of the access where known, `n` its core, `cause` the trap or job cause it meets
(R336). -/
def State.detectLine (s : State) (line : Nat) (inC : Bool) (o : Nat) (va : Word) (n : Nat) (cause : Nat := 0x0C) : State :=
  if !s.latent.contains line then s else
  let held := if inC then Store.find line s.memC else none
  let w := s.lineStruct line held.isSome
  let queued := s.cores.flatMap fun (m, c) => (c.pend.filter fun b => b.queuedFor line w).map fun b => (b.owner, b.va, m)
  let late := (s.lateLoads.filter fun x => x.2.1.queuedFor line w).map fun x => (x.2.1.owner, x.2.1.va, x.1)
  let others := (s.traffic.filter fun x => x.line == line && standsAt w x.path x.entered).map fun x => (x.owner, (0 : Word), 0)
  let own := (queued ++ late ++ others).foldl (fun l x => insertOwner x l) [(o, va, n)]
  let own := (s.copies.filter fun c => c.line == line).foldl (fun l c => insertOwner (c.owner, 0, 0) l) own
  let mark (b : Access) : Access := if b.queuedFor line w then { b with detected := true } else b
  { s with
    eseq := s.eseq + 1
    errs := s.errs ++ [⟨s.eseq, 0x02, cause, some o, false, false, va, BitVec.ofNat 64 (128 * line), w, n, 0, own, false, none⟩]
    latent := s.latent.filter (· != line)
    memC := match held with
      | some l => Store.put line { l with poison := some s.eseq } s.memC
      | none => s.memC
    poisonB := match held with
      | some l => if l.dirty then s.poisonB else Store.put line s.eseq s.poisonB
      | none => Store.put line s.eseq s.poisonB
    cores := s.cores.map fun (m, c) => (m, { c with pend := c.pend.map mark })
    lateLoads := s.lateLoads.map fun x => (x.1, mark x.2.1, x.2.2) }

/-- Queue the records of one detection (R336, R337): it takes the next ESEQ. -/
def State.report (s : State) (cls cause : Nat) (o : Option Nat) (va : Word) (n : Nat) (detail : Word)
    (kill : Bool := false) (stop : Bool := false) (pa : Word := 0) (func : Option Nat := none) (struct : Word := 0) : State :=
  { s with
    eseq := s.eseq + 1
    errs := s.errs ++
      [⟨s.eseq, cls, cause, o, kill, stop, va, pa, struct, n, detail, o.toList.map (fun q => (q, va, n)), false, func⟩] }

/-- Fill (R80): an absent line of C becomes a clean copy of B, keeping the poison mark (R338). -/
def State.fillLine (s : State) (line o : Nat) (sup : Bool) : State :=
  match Store.find line s.memC with
  | some _ => s
  | none =>
    let s := s.detectLine line false o 0 0 0
    let key := s.keyFor o sup
    let data := (List.range 128).map fun i => s.bByte key (128 * line + i)
    { s with memC := Store.put line ⟨data, false, Store.find line s.poisonB, o, sup⟩ s.memC }

/-- The bit of the sector that holds `pa` in the dirty-sector table of owner `o`'s virtual device (R317). The OR is made
under the module key, as the driver's accesses with SUP = 1 are (R345), so that no bit recorded is lost (R318; log 60). -/
def State.markSector (s : State) (o pa : Nat) : State :=
  let e := (s.func (s.funcOf o)).entry
  (List.range 4).foldl (fun s j =>
    let (lo, hi, base) := Vd.ds e j
    if lo % 2 = 1 && decide (lo - lo % 4096 ≤ pa) && decide (pa < hi) then
      let a := base + 4 * ((pa - (lo - lo % 4096)) / 4096)
      let key := s.moduleKey
      let old := s.bRead key a 4
      s.bWrite key (old ||| (1#64 <<< (pa % 4096 / 128))) a 4
    else s) s

/-- The set of a line for owner `o` under its current keys, or the old ones (R117, R119). -/
def Owner.setOf (w : Owner) (cls line : Nat) (old : Bool) : Option Nat :=
  if old then w.keyOld.map fun k => placeSet k cls (w.epoch - 1) (setBits cls) line
  else some (placeSet w.keyNow cls w.epoch (setBits cls) line)

/-- The set of a line for owner `o`. -/
def State.setNow (s : State) (o cls line : Nat) : Nat := ((s.owner o).setOf cls line false).getD 0

/-- The MSC bank of a line for owner `o`, its Kiln unit and its HBM bank scheduler, as points of R123 (R364). -/
def State.mscBank (s : State) (o line : Nat) : Nat × Nat := (2, line / 2 ^ 29 % 8 * 16 + s.setNow o 3 line % 16)
def kilnUnit (line : Nat) : Nat × Nat := (3, pseudoChannel (128 * line))
def hbmBank (line : Nat) : Nat × Nat := (4, pseudoChannel (128 * line) * 16 + line / 2 ^ 11 % 16)

/-- The instance of a class that serves core `n` for a line, given the set (R117). -/
def cacheInst (cls n set line : Nat) : Nat :=
  if cls = 1 then clusterOf n else if cls = 2 then dieOf n * 64 + set / 512 else line / 2 ^ 29

/-- Owner `o` finds the line in the cache of class `cls` that serves core `n` (R118, R119). -/
def State.hits (s : State) (n o cls line : Nat) : Bool :=
  let w := s.owner o
  s.copies.any fun c => c.cls == cls && c.line == line && c.owner == o &&
    [false, true].any fun old => match w.setOf cls line old with
      | some st => (!old || w.sweep.isSome) && c.set == st && c.inst == cacheInst cls n st line
      | none => false

/-- A number of an instance a class has (R123). The spec does not count the routers and the die links: their numbers are
those a structure identifier holds, `class << 24 | instance`, so that different points have different ones (R129). -/
def pointExists (k i : Nat) : Bool :=
  match k with
  | 0 => decide (i < 2 ^ 24)
  | 1 => decide (i < 1024)
  | 2 => decide (i < 128)
  | 3 => decide (i < 512)
  | 4 => decide (i < 8192)
  | 5 => decide (i < 256)
  | 6 => decide (i < 768)
  | 7 => decide (i < 2 ^ 24)
  | 8 => decide (i < 12)
  | 9 => decide (i < 2048)
  | _ => false

/-- A class of routers or links (R123). -/
def linkClass (k : Nat) : Bool := k == 0 || k == 7 || k == 8

/-- The routers and links from one place to the next (R123, R130): which they are is free, since the spec gives no topology
(log 16). -/
def linkPoints (a b : Nat × Nat) : List (Nat × Nat) :=
  (Config.route a b).filter fun p => linkClass p.1 && pointExists p.1 p.2

/-- A path from place `a` through the given points, with the routers and links between them. -/
def linked (a : Nat × Nat) : List (Nat × Nat) → List (Nat × Nat)
  | [] => []
  | b :: l => linkPoints a b ++ b :: linked b l

/-- Kind of access for the MSC policies of R325. -/
inductive CacheOp where
  | read | write | atomic
  deriving DecidableEq, Repr

/-- Whether the MSC allocates (R325). -/
def mscAllocates (pol : Nat) : CacheOp → Bool
  | .read => pol % 4 == 0
  | .write => pol / 4 % 4 != 1
  | .atomic => pol / 16 % 4 == 0

/-- The MSC keeps what such an access writes, and HBM4E is written when the copy is a victim (R325). -/
def mscKeeps (pol : Nat) : CacheOp → Bool
  | .read => false
  | .write => pol / 4 % 4 == 0
  | .atomic => pol / 16 % 4 == 0

/-- MSCPOL of owner `o` for a traffic class. -/
def State.mscPolOf (s : State) (o tc : Nat) : Nat := Vd.mscPol (s.func (s.funcOf o)).entryPts tc

/-- A request goes on from the MSC to HBM4E: a miss, or a write that the policy does not leave in the MSC (R325). -/
def State.goesOn (s : State) (o line tc : Nat) (op : CacheOp) : Bool :=
  !s.hits 0 o 3 line || (op != .read && !mscKeeps (s.mscPolOf o tc) op)

/-- The points that a request to a line passes in the memory of its stack: the MSC bank, and the HBM bank scheduler where it
goes on to HBM4E (R123, R127, R325). -/
def State.mscPath (s : State) (o line : Nat) (op : CacheOp := .read) (tc : Nat := 0) : List (Nat × Nat) :=
  if s.boot.state != 4 || !inHbm (128 * line) then []
  else s.mscBank o line :: (if s.goesOn o line tc op then [hbmBank line] else [])

/-- The line number of a request that goes to no line of main memory. -/
def noLine : Nat := 2 ^ 45

/-- A request of owner `o` that is no core's access begins to pass the points of a path, where it has any. DESIGN CHOICE
(log 16): the data of the request moves in the move that makes it, and the request then passes its points. -/
def State.cross (s : State) (o who line : Nat) (path : List (Nat × Nat)) (entered : Bool := false) : State :=
  { s with traffic := s.traffic ++ if path.isEmpty then [] else [⟨o, who, line, path, entered⟩] }

/-- Numbers of the requesters of a point that are no cores, in the order of R124: the matrix engine and the copy unit of
cluster `g`, agent `h` of core `n`, the launch sequencer, the table walker and the host port. DESIGN CHOICE (log 16):
write-backs, which the table of R124 does not list, come last. -/
def matrixRequester (g : Nat) : Nat := 2 ^ 14 + g
def copyRequester (g : Nat) : Nat := 2 ^ 15 + g
def agentRequester (n h : Nat) : Nat := 2 ^ 20 + 256 * n + h
def launchRequester : Nat := 2 ^ 30
def walkRequester : Nat := 2 ^ 30 + 1
def hostRequester : Nat := 2 ^ 30 + 2
def backRequester : Nat := 2 ^ 30 + 3

/-- The place the requests of a requester that is no core or cluster's unit come from. -/
def placeOfUnit (who : Nat) : Nat × Nat := (10, who - 2 ^ 30)

/-- A write-back charged to owner `o` takes 1 from its limiter at the first point it passes, down to −DEPTH, and is arbitrated
there as a request of the owner, admitted at once (R126, R127, R324). -/
def State.chargeBack (s : State) (o line : Nat) (path : List (Nat × Nat)) : State :=
  let e := (s.owner o).entryPts
  (match path with
    | (k, i) :: _ =>
      if Own.rate e k = 0 then s
      else s.updOwner o fun w =>
        let b := max (0 - (Own.depth e k : Int)) (Store.get 0 (k * 2 ^ 32 + i) w.balance - 1)
        { w with balance := Store.put (k * 2 ^ 32 + i) b w.balance }
    | [] => s).cross o backRequester line path true

/-- A copy of owner `o` in an MSC takes a write that HBM4E does not get now (R325). -/
def State.soil (s : State) (o line : Nat) : State :=
  { s with copies := s.copies.map fun c => if c.cls == 3 && c.line == line && c.owner == o then { c with dirty := true } else c }

/-- Write-back (R80): B takes the contents of a dirty line of C under its owner's key, with its poison mark, and the line
becomes clean; an error of the line is detected as it is read (R338), and the write is charged to owner `o`, the line's own
or that of the victim (R122, R126, R317). It is a write at the MSC, in traffic class TC0 (log 61). -/
def State.writeBackLine (s : State) (line : Nat) (o : Option Nat := none) : State :=
  match (Store.find line s.memC).bind fun l =>
      if l.dirty then Store.find line (s.detectLine line true l.owner 0 0 0).memC else none with
  | none => s
  | some l =>
    if l.dirty then
      let q := o.getD l.owner
      let s := s.detectLine line true l.owner 0 0 0
      let s := s.chargeBack q line (linked (placeOfUnit backRequester) (s.mscPath q line .write))
      let s := if mscKeeps (s.mscPolOf q 0) .write then s.soil q line else s
      let key := s.keyFor l.owner l.sup
      let s := (List.range 128).foldl (fun s i => s.bWriteByte key (128 * line + i) (l.data.getD i 0)) s
      let s := { s with
        memC := Store.put line { l with dirty := false } s.memC
        poisonB := match l.poison with
          | some e => Store.put line e s.poisonB
          | none => Store.del line s.poisonB }
      s.markSector l.owner (128 * line)
    else s

/-- Drop (R80): a line of C becomes absent. -/
def State.dropLine (s : State) (line : Nat) : State := { s with memC := Store.del line s.memC }

/-- A write to a line closes its read-merge windows: the reads that joined them return the line's contents and mark before the
write (R72). -/
def State.closeMerges (s : State) (line : Nat) (data : List Byte) (mark : Option (BitVec 32)) : State :=
  { s with merges := s.merges.map fun m =>
      if m.line = line && m.old.isNone then { m with closed := true, old := some (data, mark) } else m }

/-- Write the low `n` bytes of a value in image C at `pa`, within one line: the line is filled first, belongs to the
writer and becomes dirty (R80). -/
def State.cWrite {w : Nat} (s : State) (o : Nat) (sup : Bool) (x : BitVec w) (pa n : Nat) : State :=
  let line := pa / 128
  let s := s.fillLine line o sup
  let key := s.keyFor o sup
  let old := (List.range 128).map fun i => s.cByte key (128 * line + i)
  let mark := (Store.find line s.memC).bind CLine.poison
  let data := (List.range 128).map fun i =>
    let a := 128 * line + i
    if pa ≤ a ∧ a < pa + n then byteAt x (a - pa) else old.getD i 0
  let s := s.closeMerges line old mark
  { s with memC := Store.put line ⟨data, true, mark, o, sup⟩ s.memC }

/-- One move has written the whole line in an image: its poison is cleared, and an error not yet detected is gone (R338). -/
def State.clearPoison (s : State) (img : Image) (line : Nat) : State :=
  let s := { s with latent := s.latent.filter (· != line) }
  match img with
  | .b => { s with poisonB := Store.del line s.poisonB }
  | .c => match Store.find line s.memC with
    | some l => { s with memC := Store.put line { l with poison := none } s.memC }
    | none => s

/-- A write joins the coherence order of its locations (R78, R80). -/
def State.joinOrder (s : State) (d : Dest) (o pa n : Nat) : State := { s with coherence := s.coherence ++ [⟨d, pa, n, o⟩] }

/-- Write an image: B also sets the dirty-sector bit (R317), and a whole-line write clears the poison (R338). -/
def State.imgWrite {w : Nat} (s : State) (img : Image) (o : Nat) (sup : Bool) (x : BitVec w) (pa n : Nat) : State :=
  let s := s.joinOrder (.main img) o pa n
  match img with
  | .c => if n = 128 then (s.cWrite o sup x pa n).clearPoison .c (pa / 128) else s.cWrite o sup x pa n
  | .b =>
    let s := if n = 128 then s else s.detectLine (pa / 128) false o 0 0 0
    let s := s.bWrite (s.keyFor o sup) x pa n
    let s := if n = 128 then s.clearPoison .b (pa / 128) else s
    s.markSector o pa

/-- The poison mark of the line an access of image `img` meets. -/
def State.poisonOf (s : State) (img : Image) (line : Nat) : Option (BitVec 32) :=
  match img with
  | .b => Store.find line s.poisonB
  | .c => match Store.find line s.memC with
    | some l => l.poison
    | none => Store.find line s.poisonB

/-! ### The cache directory (R69, R117 to R122) -/

/-- Remove a copy (R122): a dirty line of C goes back to memory with a victim of L2 or with its last copy, which takes the line
of C with it; a dirty copy of an MSC goes to HBM4E. Either is charged to the victim's owner (R126). DESIGN CHOICE (log 61): a
victim of L1D whose line stays in an L2 leaves its dirty contents there. -/
def State.evict (s : State) (c : Copy) : State :=
  let gone (s : State) : State := { s with copies := s.copies.filter (· != c) }
  if c.cls = 3 then
    gone (if c.dirty then s.chargeBack c.owner c.line (linked (s.mscBank c.owner c.line) [hbmBank c.line]) else s)
  else if s.copies.any (fun x => x != c && x.line == c.line && x.cls != 3) then
    gone (if c.cls = 2 then s.writeBackLine c.line (some c.owner) else s)
  else (gone (s.writeBackLine c.line (some c.owner))).dropLine c.line

/-- The way a fill or move takes in a set (R122): the lowest invalid permitted way, or a drawn victim. Either is a choice
that the instance's fill counter counts. -/
def State.allocate (s : State) (cls inst set line o : Nat) (ways : List Nat) (dirty : Bool := false) : State :=
  if ways.isEmpty then s else
    let w := s.owner o
    let held := s.copies.filter fun c => c.cls == cls && c.inst == inst && c.set == set
    let ctr := Store.get 0 (cls * 2 ^ 32 + inst) s.fills
    let s := { s with fills := Store.put (cls * 2 ^ 32 + inst) (ctr + 1) s.fills }
    match ways.find? (fun k => !held.any (fun c => c.way == k)) with
    | some k => { s with copies := s.copies ++ [⟨cls, inst, set, k, line, o, w.epoch, dirty⟩] }
    | none =>
      let q := stipple w.keyNow (BitVec.ofNat 32 (cls * 2 ^ 24 + inst)) ctr w.epoch 3
      let k := ways.getD (choose q.x0 ways.length) 0
      let s := match held.find? (fun c => c.way == k) with
        | some v => s.evict v
        | none => s
      { s with copies := s.copies ++ [⟨cls, inst, set, k, line, o, w.epoch, dirty⟩] }

/-- Positions of the 1 bits of a 16-bit mask. -/
def maskWays (m : Nat) : List Nat := (List.range 16).filter fun k => m / 2 ^ k % 2 == 1

/-- The permitted ways of owner `o` in a class, for a traffic class (R122). -/
def State.waysOf (s : State) (o cls tc : Nat) : List Nat :=
  let e := (s.func (s.funcOf o)).entryPts
  if cls = 1 then [0, 1, 2, 3] else maskWays (if cls = 2 then Vd.l2mask e else Vd.mscMask e tc)

/-- One lookup and fill of a class (R118, R119): a hit in the old-epoch set moves the line, or evicts it where its new set
has no permitted way (R120); a miss allocates. -/
def State.touchClass (s : State) (n o cls line tc : Nat) (alloc : Bool) : State :=
  let w := s.owner o
  let at_ (old : Bool) : Option (Nat × Nat) := (w.setOf cls line old).map fun st => (cacheInst cls n st line, st)
  let find (p : Nat × Nat) := s.copies.find? fun c =>
    c.cls == cls && c.inst == p.1 && c.set == p.2 && c.line == line && c.owner == o
  match at_ false with
  | none => s
  | some new =>
    match find new with
    | some _ => s
    | none =>
      match (if w.sweep.isSome then (at_ true).bind find else none) with
      | some c =>
        let ways := s.waysOf o cls tc
        if ways.isEmpty then s.evict c
        else { s with copies := s.copies.filter (· != c) }.allocate cls new.1 new.2 line o ways c.dirty
      | none => if alloc then s.allocate cls new.1 new.2 line o (s.waysOf o cls tc) else s

/-- The MSC of stack 0 during bring-up (R353): each line of the window has its own set and way. -/
def State.touchLocked (s : State) (line : Nat) : State :=
  if 2 ^ 19 ≤ line || s.copies.any (fun c => c.cls == 3 && c.line == line) then s
  else { s with copies := s.copies ++ [⟨3, 0, line % 2 ^ 15, line / 2 ^ 15, line, 0, 0, false⟩] }

/-- What an access is at the MSC: one that goes through L2 comes as the read that fills the line there (R70, R325). -/
def atMsc (cache : Nat) (op : CacheOp) : CacheOp := if cache ≤ 1 then .read else op

/-- An access to a line passes the caches its page attributes allow (R70). DESIGN CHOICE (log 61): each level is looked up
and filled at every access, also at one that hits nearer the core, which the spec does not say. -/
def State.touch (s : State) (n o line cache : Nat) (tier : Tier) (stream : Bool) (op : CacheOp) (tc : Nat) : State :=
  let s := if cache = 0 && op != .atomic then s.touchClass n o 1 line tc (!stream) else s
  let s := if cache ≤ 1 then s.touchClass n o 2 line tc (!stream) else s
  if cache ≤ 2 && tier == .hbm then
    if s.boot.state == 4 then
      let pol := s.mscPolOf o tc
      let s := s.touchClass n o 3 line tc (!stream && mscAllocates pol (atMsc cache op))
      if mscKeeps pol (atMsc cache op) then s.soil o line else s
    else s.touchLocked line
  else s

/-- The bank of the L2 slice that holds a line for owner `o` at the die of core `n` (R123). DESIGN CHOICE (log 16): the bank
is bits [1:0] of the set, which the spec does not say. -/
def State.l2Bank (s : State) (n o line : Nat) : Nat × Nat :=
  (1, dieOf n * 256 + s.setNow o 2 line / 512 * 4 + s.setNow o 2 line % 4)

/-- The arbitration points that an access from place `from_`, at the die of core `n`, to a line of main memory passes, in order
(R123, R127): L2 bank, MSC bank, the Kiln unit for an access performed at the Kiln, and the HBM bank scheduler where it goes on
to HBM4E, with the routers and links between them. -/
def State.memPath (s : State) (from_ : Nat × Nat) (n o line cache : Nat) (tier : Tier) (op : CacheOp) (tc : Nat := 0) :
    List (Nat × Nat) :=
  if s.boot.state != 4 || (cache == 0 && op != .atomic && s.hits n o 1 line) then []
  else
    let l2 := if cache ≤ 1 then [s.l2Bank n o line] else []
    if cache ≤ 1 && s.hits n o 2 line || tier != .hbm then linked from_ l2
    else
      let msc := if cache ≤ 2 then [s.mscBank o line] else []
      let unit := if 2 ≤ cache then [kilnUnit line] else []
      linked from_ (l2 ++ msc ++ unit ++
        if cache ≤ 2 && !s.goesOn o line tc (atMsc cache op) then [] else [hbmBank line])

/-! ### Translation (R307 to R314) -/

namespace Leaf
def tier (e : Word) : Nat := bitsOf e 59 58
def cow (e : Word) : Bool := bitOf e 57
/-- CACHE as it acts: memory-side pages at least 2, CXL 2 as 3 (R70). -/
def cache (e : Word) : Nat :=
  let c := if bitOf e 54 then max 2 (bitsOf e 56 55) else bitsOf e 56 55
  if tier e = 1 && c = 2 then 3 else c
def ms (e : Word) : Bool := bitOf e 54
def kind (e : Word) : OrdKind := match bitsOf e 53 52 with | 1 => .s | 2 => .u | _ => .rc
def frame (e : Word) : Nat := bitsOf e 51 12 * 4096
/-- The image of the page's accesses (R79). -/
def image (e : Word) : Image := if ms e || 2 ≤ cache e then .b else .c
def tierOf (e : Word) : Tier := match tier e with | 1 => .cxl | 2 => .flash | _ => .hbm
end Leaf

/-- How a walk ends (R309). -/
inductive Walked where
  /-- an entry not present, or a flash leaf -/
  | absent
  | malformed
  /-- a leaf entry, log2 of its page size and the physical address of the entry -/
  | leaf (e : Word) (shift addr : Nat)
  deriving DecidableEq, Repr

/-- Levels of the tables: lowest VA bit and index width (R307). -/
def tableLevels : List (Nat × Nat) := [(34, 18), (29, 5), (21, 8), (16, 5), (12, 4)]

/-- Whether a leaf of page size 2^`shift` is well formed (R308, R309). -/
def leafOk (e : Word) (shift : Nat) : Bool :=
  bitsOf e 63 60 == 0 && bitsOf e 7 5 == 0 && bitsOf e 53 52 != 3 && bitsOf e 59 58 != 3
    && Leaf.frame e % 2 ^ shift == 0
    && !(Leaf.cow e && (decide (16 < shift) || Leaf.tier e != 0))
    && !(Leaf.tier e == 1 && Leaf.ms e)

/-- A page of 2^`shift` bytes with leaf `e` yields a physical address where its tier has memory (R310, R364). -/
def State.paOk (s : State) (e : Word) (shift va : Nat) : Bool :=
  let pa := Leaf.frame e + va % 2 ^ shift
  if Leaf.tier e = 1 then s.inCxl pa else inHbm pa

/-- The walk of R309 from one table on; entries are read in image C under the module key (R345). -/
def State.walkFrom (s : State) (va : Nat) : List (Nat × Nat) → Nat → Walked
  | [], _ => .malformed
  | (lo, w) :: rest, base =>
    let a := base + 8 * (va / 2 ^ lo % 2 ^ w)
    if !s.populated a then .malformed else
    let e := s.cRead s.moduleKey a 8
    if !bitOf e 0 then .absent
    else if bitOf e 1 then
      if Leaf.tier e = 2 then .absent else if leafOk e lo && s.paOk e lo va then .leaf e lo a else .malformed
    else if bitsOf e 63 52 != 0 || bitsOf e 7 2 != 0 then .malformed
    else s.walkFrom va rest (Leaf.frame e)

/-- The lines of the entries that a walk reads (R309). -/
def State.walkReads (s : State) (va : Nat) : List (Nat × Nat) → Nat → List Nat
  | [], _ => []
  | (lo, w) :: rest, base =>
    let a := base + 8 * (va / 2 ^ lo % 2 ^ w)
    if !s.populated a then [] else
    let e := s.cRead s.moduleKey a 8
    a / 128 :: (if !bitOf e 0 || bitOf e 1 then [] else s.walkReads va rest (Leaf.frame e))

/-- The root of the tables an access uses (R321). -/
def State.rootOf (s : State) (o : Nat) (sup : Bool) : Nat :=
  if sup then Vd.sptBase (s.func (s.funcOf o)).entry else Own.ptBase (s.owner o).entry

/-- The identity map of the bring-up window: leaves of KIND 0, CACHE 2, R, W and X (R353). -/
def bringUpWalk (va : Nat) : Walked :=
  if va < 2 ^ 26 then .leaf (BitVec.ofNat 64 (va / 4096 * 4096 + 2 * 2 ^ 55 + 0x1F)) 12 0 else .malformed

/-- The walk of a virtual address. -/
def State.walk (s : State) (o : Nat) (sup : Bool) (va : Nat) : Walked :=
  if s.boot.state = 4 then s.walkFrom va tableLevels (s.rootOf o sup) else bringUpWalk va

/-- A core of the die whose L2 a unit's walks read through. -/
def Walker.core_ : Walker → Nat
  | .core n => n
  | .matrix g => 8 * g
  | .copy g => 8 * g
  | .agent n _ => n

/-- The number of the unit among the requesters of a point (R124). -/
def Walker.source : Walker → Nat
  | .core n => n
  | .matrix g => matrixRequester g
  | .copy g => copyRequester g
  | .agent n h => agentRequester n h

/-- The place its requests come from. -/
def Walker.place : Walker → Nat × Nat
  | .core n => (9, n)
  | .matrix g => (6, 256 + 2 * g)
  | .copy g => (6, 257 + 2 * g)
  | .agent n _ => (9, n)

/-- A walk reads its entries through L2, never through L1D (R309); errors of their lines are detected as they are read (R335). -/
def State.walkTouch (s : State) (k : Walker) (o : Nat) (sup : Bool) (va : Nat) : State :=
  if s.boot.state != 4 then s else
    (s.walkReads va tableLevels (s.rootOf o sup)).foldl (fun s line =>
      let tier : Tier := if inHbm (128 * line) then .hbm else .cxl
      let s := s.detectLine line true o 0 k.core_ 0
      (s.cross o walkRequester line (s.memPath (placeOfUnit walkRequester) k.core_ o line 1 tier .read)).touch
        k.core_ o line 1 tier false .read 0) s

/-- An agent slot as it reads when nothing runs there. -/
def Agent.none : Agent := ⟨[], .ended, 0, 0, [], 0, 0, false, false, 0, []⟩

/-- The cached translations of a unit. -/
def State.tlbOf (s : State) : Walker → List Trans
  | .core n => (s.core n).tlb
  | .matrix g => (s.cluster g).meTlb
  | .copy g => (s.cluster g).cpyTlb
  | .agent n h => ((Store.find h (s.core n).agents).getD Agent.none).tlb

/-- Replace them. -/
def State.setTlb (s : State) (l : List Trans) : Walker → State
  | .core n => s.updCore n fun c => { c with tlb := l }
  | .matrix g => s.updCluster g fun c => { c with meTlb := l }
  | .copy g => s.updCluster g fun c => { c with cpyTlb := l }
  | .agent n h => s.updCore n fun c =>
      match Store.find h c.agents with
      | some a => { c with agents := Store.put h { a with tlb := l } c.agents }
      | none => c

/-- Change every list of cached translations of the module, with those of the agents of saved contexts (R331). -/
def State.mapTlbs (s : State) (f : List Trans → List Trans) : State :=
  { s with
    cores := s.cores.map fun (n, c) =>
      (n, { c with tlb := f c.tlb, agents := c.agents.map fun (h, a) => (h, { a with tlb := f a.tlb }) })
    saved := s.saved.map fun (k, x) => (k, { x with agents := x.agents.map fun (h, a) => (h, { a with tlb := f a.tlb }) })
    clusters := s.clusters.map fun (g, c) => (g, { c with meTlb := f c.meTlb, cpyTlb := f c.cpyTlb }) }

/-- Drop the translations of owner `o` that meet the page of 2^`shift` bytes at `va`, module-wide (R282, R313). -/
def State.dropPage (s : State) (o va shift : Nat) : State :=
  s.mapTlbs fun l => l.filter fun t =>
    !(t.owner == o &&
      (t.page * 2 ^ t.shift / 2 ^ shift == va / 2 ^ shift || va / 2 ^ t.shift == t.page))

/-- Drop every translation of owner `o`. -/
def State.dropOwnerTlb (s : State) (o : Nat) : State := s.mapTlbs fun l => l.filter fun t => t.owner != o

/-- The cached translation a unit holds for an address. -/
def State.cached (s : State) (k : Walker) (o : Nat) (sup : Bool) (va : Nat) : Option Trans :=
  (s.tlbOf k).find? fun t => t.sup == sup && (t.owner == o) && va / 2 ^ t.shift == t.page

/-- What a translation gives. -/
inductive Xl where
  | ok (pa : Nat) (leaf : Word)
  /-- malformed, or a permission is missing: trap 0x05 or job cause 0x04 -/
  | trap
  /-- a replayable fault (R311), with EMPTY for an empty frame stack -/
  | fault (empty : Bool)
  /-- a share break of the page is in progress: the write waits and walks again (R313) -/
  | busy
  deriving DecidableEq, Repr

/-- The accesses of owner `o` to the frame at `f` of 2^`shift` bytes that are issued and not performed. -/
def State.frameAccesses (s : State) (o f shift : Nat) : List Nat :=
  (((s.cores.flatMap fun (_, c) => c.pend) ++ s.lateLoads.map fun x => x.2.1).filter fun (a : Access) =>
    a.owner == o && (match a.dest with | .main _ => a.addr / 2 ^ shift == f / 2 ^ shift | _ => false)).map Access.id

/-- One of the accesses of those numbers has not been performed. -/
def State.anyPending (s : State) (ids : List Nat) : Bool :=
  s.cores.any (fun (_, c) => c.pend.any fun a => ids.contains a.id) || s.lateLoads.any fun x => ids.contains x.2.1.id

/-- A row or element in progress holds a translation of the page of 2^`shift` bytes at `va` for owner `o` (R316). -/
def Job.holdsPage (j : Job) (o va shift : Nat) : Bool :=
  j.owner == o && j.pages.any fun x => x.1 * 4096 / 2 ^ shift == va / 2 ^ shift

/-- Change the jobs of cluster `g` that `p` names. -/
def Cluster.mapJobs (c : Cluster) (p : Job → Bool) (f : Job → Job) : Cluster :=
  { c with jobs := c.jobs.map fun j => j.map fun x => if p x then f x else x }

/-- The rows and elements in progress that `p` names go on under entries that have been dropped (R316). -/
def State.markStale (s : State) (p : Job → Bool) : State :=
  { s with clusters := s.clusters.map fun (g, c) => (g, c.mapJobs p fun (j : Job) => { j with stale := true }) }

/-- A row or element of owner `o` that such an entry serves is in progress. -/
def State.anyStale (s : State) (o : Nat) : Bool :=
  s.clusters.any fun (_, c) => c.jobs.toList.any fun j => match j with
    | some x => x.owner == o && x.stale && x.state == .running
    | none => false

/-- An engine whose write waits for a share break has read what its element reads, and translates anew from here (R313, R316). -/
def State.renew (s : State) (k : Walker) (o : Nat) : State :=
  let again (g : Nat) (copy : Bool) : State := s.updCluster g fun c =>
    c.mapJobs (fun (j : Job) => j.owner == o && j.state == .running && (j.type != 1) == copy && j.stale)
      fun (j : Job) => { j with pages := [], stale := false }
  match k with
  | .matrix g => again g false
  | .copy g => again g true
  | _ => s

/-- The address of the count of a frame (R313). -/
def State.countAddr (s : State) (f : Nat) : Nat := s.boot.rcBase.toNat * 4096 + 4 * (f / 4096)

/-- A Kiln operation that the walker makes for owner `o` at `pa` passes its points (R127, R313). -/
def State.kilnOp (s : State) (o pa : Nat) : State :=
  s.cross o walkRequester (pa / 128) (linked (placeOfUnit walkRequester) [kilnUnit (pa / 128), hbmBank (pa / 128)])

/-- A Kiln operation of the walker that writes the low `k` bytes of a value at `pa`, under the module key, and sets the
dirty-sector bit (R313, R317, R345). -/
def State.kilnWrite {w : Nat} (s : State) (o : Nat) (x : BitVec w) (pa k : Nat) : State :=
  (((s.kilnOp o pa).bWrite s.moduleKey x pa k).joinOrder (.main .b) o pa k).markSector o pa

/-- Push a frame onto a free-frame stack: dropped when the stack is full, and counted as lost in a class 0x0B record (R314). -/
def State.pushFrame (s : State) (o stack f : Nat) (va : Word) (n : Nat) : State :=
  let h := s.bRead s.moduleKey stack 8
  let top := bitsOf h 31 0
  if top < bitsOf h 63 32 then
    (s.kilnWrite o (BitVec.ofNat 64 (f / 4096)) (stack + 8 + 8 * top) 8).kilnWrite o (BitVec.ofNat 32 (top + 1)) stack 4
  else (s.kilnOp o stack).report 0x0B 0 (some o) va n 0

/-- Copy line `a` to line `b` in image B under `key`, with its poison mark; an error of the line copied is detected as it is
read (R313, R338). -/
def State.copyLine (s : State) (key : KeyVal) (o va a b : Nat) : State :=
  let s := (s.detectLine a false o (BitVec.ofNat 64 va) 0 0).kilnOp o (128 * b)
  let s := (List.range 128).foldl (fun s i => s.bWriteByte key (128 * b + i) (s.bByte key (128 * a + i))) s
  let s := s.clearPoison .b b
  { s with poisonB := match Store.find a s.poisonB with
    | some p => Store.put b p s.poisonB
    | none => s.poisonB }

/-- The free-frame stack of a page size of owner `o`'s virtual device (R314). -/
def State.frameStack (s : State) (o shift : Nat) : Nat :=
  let vd := (s.func (s.funcOf o)).entry
  if shift = 12 then Vd.ffs4 vd else Vd.ffs64 vd

/-- The leaf that a share break writes: it names frame `f`, with COW = 0 (R313). -/
def Break.leafTo (b : Break) (f : Nat) : Word :=
  (b.leaf &&& ~~~(1#64 <<< 57) &&& ~~~(0xFFFFFFFFFF#64 <<< 12)) ||| BitVec.ofNat 64 f

/-- A share break goes on to a step. -/
def State.setBreak (s : State) (b : Break) (x : BreakStep) : State :=
  { s with breaks := s.breaks.map fun y => if y == b then { b with step := x } else y }

/-- A share break is over, or is given up: the write walks again. -/
def State.endBreak (s : State) (b : Break) : State := { s with breaks := s.breaks.filter (· != b) }

/-- The unit whose write caused the break still stands at it. -/
def State.causes (s : State) (b : Break) : Bool :=
  let runs (g : Nat) (copy : Bool) : Bool := (s.cluster g).jobs.toList.any fun j => match j with
    | some x => x.owner == b.owner && x.state == .running && (x.type != 1) == copy
    | none => false
  match b.unit with
  | .core n => (s.core n).ctx == some b.owner && (s.core n).handler.isSome && (s.core n).hold == .none && (s.core n).pc == b.at_
  | .matrix g => runs g false
  | .copy g => runs g true
  | .agent n h => match Store.find h (s.core n).agents with
    | some a => a.owner == b.owner && a.state == .running
    | none => false

/-- The write that caused the break is issued and not performed. -/
def State.causePending (s : State) (b : Break) (f : Nat) : Bool :=
  match b.unit with
  | .core n => (s.core n).pend.any fun a => match a.op, a.dest with
    | .load .., _ => false
    | _, .main _ => a.owner == b.owner && a.addr / 2 ^ b.shift == f / 2 ^ b.shift
    | _, _ => false
  | _ => false

/-- One step of a share break that unit `k` meets (R313), short of the write itself: what the write comes to is `none` where it
may now be made. -/
def State.breakGo (s : State) (k : Walker) (b : Break) (va : Nat) : State × Option Bool :=
  let o := b.owner
  let f0 := Leaf.frame b.leaf
  let stack := s.frameStack o b.shift
  let same := s.cRead s.moduleKey b.addr 8 == b.leaf
  match b.step with
  | .sole => (if same then (s.cWrite o true (b.leafTo f0) b.addr 8).setBreak b .done else s.endBreak b, some false)
  | .shared =>
    let top := bitsOf (s.bRead s.moduleKey stack 8) 31 0
    if top = 0 then (s.endBreak b, some true) else
    let f := bitsOf (s.bRead s.moduleKey (stack + 8 + 8 * (top - 1)) 8) 39 0 * 4096
    ((s.kilnWrite o (BitVec.ofNat 32 (top - 1)) stack 4).setBreak b (.popped f), some false)
  | .popped f =>
    (((List.range (2 ^ b.shift / 128)).foldl (fun s i =>
      (s.copyLine (s.keyFor o b.sup) o va (f0 / 128 + i) (f / 128 + i)).markSector o (f + 128 * i)) s).setBreak b (.copied f),
      some false)
  | .copied f => ((s.kilnWrite o 1#32 (s.countAddr f) 4).setBreak b (.counted f), some false)
  | .counted f =>
    (if same then (s.cWrite o true (b.leafTo f) b.addr 8).setBreak b (.swapped f)
      else (s.pushFrame o stack f (BitVec.ofNat 64 va) k.core_).endBreak b, some false)
  | .swapped _ =>
    let old := s.bRead s.moduleKey (s.countAddr f0) 4
    ((s.kilnWrite o (old - 1) (s.countAddr f0) 4).setBreak b (if old = 1 then .last else .done), some false)
  | .last => ((s.pushFrame o stack f0 (BitVec.ofNat 64 va) k.core_).setBreak b .done, some false)
  | .done =>
    (((s.dropPage o va b.shift).markStale fun j => j.holdsPage o va b.shift).setBreak b
      (.dropped (s.frameAccesses o f0 b.shift)), some false)
  | .dropped ids =>
    let s := s.renew k o
    if s.anyPending ids || s.anyStale o || (k != b.unit && s.causes b) then (s, some false)
    else ({ s with breaks := s.breaks.map fun y => if y == b then { b with unit := k, step := .writing } else y }, none)
  | .writing =>
    let f := match s.walk o b.sup va with | .leaf e _ _ => Leaf.frame e | _ => 0
    if k != b.unit && (s.causes b || s.causePending b f) then (s, some false) else (if k = b.unit then s else s.endBreak b, none)

/-- Whether a leaf has the permissions of an access (R309). -/
def leafAllows (e : Word) (r w x : Bool) : Bool := (!r || bitOf e 2) && (!w || bitOf e 3) && (!x || bitOf e 4)

/-- Translate `va` for owner `o` by a unit's cached translations and the walk; a write to a page whose share is being broken
takes part in the break, one step at a time, and waits (R309, R313). -/
def State.translate (s : State) (k : Walker) (o : Nat) (sup : Bool) (va : Nat) (r w x : Bool) : State × Xl :=
  let ok (s : State) (e : Word) (shift : Nat) : State × Xl := (s, .ok (Leaf.frame e + va % 2 ^ shift) e)
  let fresh (s : State) : State × Xl :=
    let s := s.walkTouch k o sup va
    match s.walk o sup va with
    | .absent => (s, .fault false)
    | .malformed => (s, .trap)
    | .leaf e shift addr =>
      if !leafAllows e r w x then (s, .trap)
      else if w && Leaf.cow e then
        let at_ := match k with | .core n => (s.core n).pc | _ => 0
        let sole := s.bRead s.moduleKey (s.countAddr (Leaf.frame e)) 4 == 1
        let b : Break := ⟨o, sup, va / 2 ^ shift, shift, k, at_, e, addr, if sole then .sole else .shared⟩
        ({ s.kilnOp o (s.countAddr (Leaf.frame e)) with breaks := s.breaks ++ [b] }, .busy)
      else ok (s.setTlb (⟨o, sup, va / 2 ^ shift, shift, e⟩ :: s.tlbOf k) k) e shift
  let plain (s : State) : State × Xl :=
    match s.cached k o sup va with
    | some t =>
      if !s.paOk t.leaf t.shift va || !leafAllows t.leaf r w x then (s, .trap)
      else if w && Leaf.cow t.leaf then fresh (s.setTlb ((s.tlbOf k).filter (· != t)) k)
      else ok s t.leaf t.shift
    | none => fresh s
  match (if w then s.breaks.find? fun b => b.owner == o && b.sup == sup && va / 2 ^ b.shift == b.page else none) with
  | none => plain s
  | some b =>
    match s.breakGo k b va with
    | (s, none) => plain s
    | (s, some false) => (s, .busy)
    | (s, some true) => (s, .fault true)

end Sys2Proof.Machine
end

