-- ==== Sys2Proof/Machine/Ports.lean ====
section
/-!
DEFINITION. What an access does when it is performed: at a plate port (R34, R37, R63, R86), in a cluster window (R61), in
an image of main memory (R78, R87); the portions of `ctl.usc` (R74, R75) and the rows of R81; the error log's queue
(R336) and the vectors (R328).
-/
namespace Sys2Proof.Machine

/-! ### Error reports and vectors -/

/-- A device event accumulates on a vector of a function (R328): its timer starts at the first. -/
def State.raiseVector (s : State) (f v : Nat) : State :=
  let now := (s.island 44).cycles.toNat
  s.updFunc f fun x =>
    { x with
      events := Store.put v (Store.get 0 v x.events + 1) x.events
      timer := if Store.get 0 v x.events = 0 then Store.put v now x.timer else x.timer }

/-! ### Portions and scopes -/

/-- The portions of `ctl.usc` (R74). -/
inductive Portion where
  | cl | die | mod | mem | sys
  deriving DecidableEq, Repr

/-- The portion of a window on core `n`'s side: that of a cluster (R74). -/
def portionOfCluster (n g : Nat) : Portion :=
  if g = clusterOf n then .cl else if g / 64 = dieOf n then .die else .mod

/-- The portion of an access of core `n`; its own plate has none (R74, R82). -/
def portionOf (n : Nat) (d : Dest) (t : Tier) : Option Portion :=
  match d with
  | .plate m => if m = n then none else some (portionOfCluster n (clusterOf m))
  | .cluster g => some (portionOfCluster n g)
  | .main _ => some (if t = .cxl then .sys else .mem)

/-- Whether a scope (0 core, 1 cl, 2 die, 3 mod, 4 sys) covers a portion (R75). -/
def scopeCovers (σ : Nat) (p : Portion) : Bool :=
  match p with
  | .cl | .mem => 1 ≤ σ
  | .die => 2 ≤ σ
  | .mod => 3 ≤ σ
  | .sys => 4 ≤ σ

/-- The smallest scope that contains two cores (R33, R36). -/
def smallestScope (n m : Nat) : Nat :=
  if n = m then 0 else if clusterOf n = clusterOf m then 1 else if dieOf n = dieOf m then 2 else 3

/-! ### The rows of R81 -/

/-- The access is a load for R81. -/
def AccOp.isLoad : AccOp → Bool
  | .load .. => true
  | .atom _ _ _ ret => ret.isSome
  | .fe op _ _ => op = .ldff || op = .ldfe || op = .fet
  | .dec _ _ ret => ret.isSome
  | _ => false

/-- The access is a store for R81 (R73, R89, R196, R204). -/
def AccOp.isStore : AccOp → Bool
  | .store _ | .atom .. | .dec .. | .msg _ | .push .. | .range _ => true
  | .fe op _ _ => op = .ldfe || op = .stef || op = .stxf || op = .stxe
  | _ => false

/-- An atomic of R194. -/
def AccOp.isAtomic : AccOp → Bool
  | .atom .. => true
  | _ => false

/-- Kind of access for the MSC policies (R325). -/
def AccOp.cacheOp : AccOp → CacheOp
  | .load .. => .read
  | .atom .. => .atomic
  | _ => .write

/-- The access counts in `ctl.usc` (R73, R193, R197). -/
def AccOp.counted : AccOp → Bool
  | .store _ | .dec .. | .msg _ | .push .. | .range _ | .fe .. => true
  | .atom _ _ _ ret => ret.isNone
  | _ => false

/-- The bytes an access touches, as offsets from `lo` to `hi` − 1. A message or push touches every slot of its ring, since
the slot is the one its perform move finds, and TAIL of the descriptor (R201, R202, R204; log 57). -/
def Access.touches (a : Access) : List (Nat × Nat) :=
  let tail (j : Nat) : Nat × Nat := (0x2000C + 64 * j, 0x20010 + 64 * j)
  match a.op with
  | .msg _ => [(a.addr, a.addr + a.size), tail 0]
  | .push j _ => [(a.addr, a.addr + a.size), tail j]
  | _ => [(a.addr, a.addr + a.size)]

/-- Two accesses touch a common byte (row 1 of R81). -/
def Access.overlaps (b a : Access) : Bool :=
  (match b.dest, a.dest with
    | .plate m, .plate k => m = k
    | .cluster g, .cluster h => g = h
    | .main _, .main _ => true
    | _, _ => false) &&
    b.touches.any fun x => a.touches.any fun y => decide (x.1 < y.2) && decide (y.1 < x.2)

/-- Both go to one plate or cluster window (row 2 of R81). -/
def Access.sameWindow (b a : Access) : Bool :=
  match b.dest, a.dest with
  | .plate m, .plate k => m = k
  | .cluster g, .cluster h => g = h
  | _, _ => false

/-- A main-memory access is one of the pages' kinds; a fence is none (R79). -/
def AccOp.isFence : AccOp → Bool
  | .fence .. | .faultMsg _ => true
  | _ => false

/-- An older `b` holds back a release or plain fence of scope `σ` (rows 5 and 6). -/
def Access.heldFor (n : Nat) (b : Access) (σ : Nat) : Bool :=
  !b.op.isFence && b.kind != .u &&
    (b.op.isLoad || (b.op.isStore && match portionOf n b.dest b.tier with | none => false | some p => scopeCovers σ p))

/-- An older `b` holds back a `fence.all` of scope `σ` (row 8). -/
def Access.heldForAll (n : Nat) (b : Access) (σ : Nat) : Bool :=
  !b.op.isFence &&
    (b.op.isLoad || (b.op.isStore && match portionOf n b.dest b.tier with | none => false | some p => scopeCovers σ p))

/-- A row of R81 puts the older `b` of core `n` before its younger `a`. -/
def blocks (n : Nat) (b a : Access) : Bool :=
  match a.op with
  | .fence false σ => b.heldFor n σ
  | .fence true σ => b.heldForAll n σ
  | .faultMsg _ => b.heldForAll n (a.rel.getD 0)
  | _ =>
    match b.op with
    | .fence false _ => a.kind != .u
    | .fence true _ => true
    | .faultMsg _ => false
    | _ =>
      b.late || b.overlaps a || (b.op.isStore && a.op.isStore && b.sameWindow a) || (b.kind == .s && a.kind == .s)
        || (b.acq && a.kind != .u)
        || (match a.rel with | some σ => b.heldFor n σ | none => false)

/-- The scope whose waiting ready pushes hold an access back (R37). -/
def Access.waitScope (a : Access) : Option Nat :=
  match a.op with
  | .fence _ σ => some σ
  | _ => a.rel

/-- Some ready push that core `n` caused still waits at a plate port in scope `σ` (R37). -/
def State.pushWaits (s : State) (n σ : Nat) : Bool :=
  s.cores.any fun (m, c) =>
    c.readyWait.any (fun q => q.issuer == n) &&
      (match portionOf n (.plate m) .hbm with | none => false | some p => scopeCovers σ p)

/-- The accesses of a core older than number `id`. -/
def Core.olderThan (c : Core) (id : Nat) : List Access := c.pend.takeWhile (fun b => b.id != id)

/-- The unacknowledged stores of core `n` in a portion (R73, R74). -/
def State.uscCount (s : State) (n : Nat) (p : Portion) : Nat :=
  let c := s.core n
  (c.pend.filter fun a => a.op.counted && portionOf n a.dest a.tier == some p).length +
    s.cores.foldl (fun k (m, x) =>
      if portionOf n (.plate m) .hbm = some p then
        k + (x.readyWait.filter fun q => q.issuer == n).length + (x.parked.filter fun q => q.issuer == n).length
      else k) 0

/-- `ctl.usc` as it reads (R74). -/
def State.usc (s : State) (n : Nat) : Word :=
  let f (p : Portion) (i : Nat) := s.uscCount n p * 2 ^ (12 * i)
  BitVec.ofNat 64 (f .cl 0 + f .die 1 + f .mod 2 + f .mem 3 + f .sys 4)

/-! ### Plate ports -/

/-- Append a record at the tail of ring `j` (R135). -/
def Core.append (c : Core) (j : Nat) (r : Rec) : Core :=
  let g := c.ring j
  (c.plateWrite (g.slotAt g.tail) 64 r).setRing j { g with tail := g.tail + 1 }

/-- The record of a codelet's ready push (R35). -/
def readyRec (codelet work : Word) (issuer : Nat) : Rec := mkRec [codelet, work, BitVec.ofNat 64 issuer]

/-- Push onto the ready ring, or wait for a slot (R34, R37). -/
def Core.readyPush (c : Core) (codelet work : Word) (issuer : Nat) : Core :=
  if c.readyWait.isEmpty && c.hasRoom 1 then c.append 1 (readyRec codelet work issuer)
  else { c with readyWait := c.readyWait ++ [⟨codelet, work, issuer⟩] }

/-- The decrement-and-wake of R34 on the codelet at plate offset `a` of core `t`: the old counter, and the core after. -/
def Core.decrement (c : Core) (t a d : Nat) (work : Word) (issuer : Nat) : Word × Core :=
  let old := c.plateRead (a + 8) 4
  let new := if d < old.toNat then old - BitVec.ofNat 64 d else 0
  let c := c.plateWrite (a + 8) 4 new
  (old, if old ≠ 0 && new = 0 then c.readyPush (BitVec.ofNat 64 (plateBase t + a)) work issuer else c)

/-- The full/empty bits of an access are all `b` (R62). -/
def Core.feAll (c : Core) (a z : Nat) (b : Bool) : Bool := c.fe a == b && (z != 8 || c.fe (a + 4) == b)
/-- Set the full/empty bits of an access. -/
def Core.feSet (c : Core) (a z : Nat) (b : Bool) : Core := if z = 8 then (c.setFe a b).setFe (a + 4) b else c.setFe a b

/-- One full/empty access at the port, if its condition holds: the value returned and the core after (R192). -/
def Core.feTry (c : Core) (op : FeOp) (a z : Nat) (data : Word) : Option (Word × Core) :=
  match op with
  | .ldff => if c.feAll a z true then some (c.plateRead a z, c) else none
  | .ldfe => if c.feAll a z true then some (c.plateRead a z, c.feSet a z false) else none
  | .fet =>
    some (BitVec.ofNat 64 (b2n (c.fe a) + (if z = 8 then 2 * b2n (c.fe (a + 4)) else 0)), c)
  | .stef => if c.feAll a z false then some (0, (c.plateWrite a z data).feSet a z true) else none
  | .stxf => some (0, (c.plateWrite a z data).feSet a z true)
  | .stxe => some (0, (c.plateWrite a z data).feSet a z false)

/-- Release parked requests: the oldest whose condition holds, until none does (R63). Answers what was released. -/
def Core.feRelease : Nat → Core → Core × List (Parked × Word)
  | 0, c => (c, [])
  | k + 1, c =>
    match takeFirst (fun q => (c.feTry q.op q.addr q.size q.data).isSome) c.parked with
    | none => (c, [])
    | some (q, rest) =>
      match c.feTry q.op q.addr q.size q.data with
      | none => (c, [])
      | some (v, c') =>
        let (c'', l) := Core.feRelease k { c' with parked := rest }
        (c'', (q, v) :: l)

/-- A released request returns to its issuer: an own-plate one completes at the wake (R43), a remote one writes its
register and leaves the core stalled for the reply (R193). -/
def State.feReturn (s : State) (t : Nat) (q : Parked) (v : Word) : State :=
  s.updCore q.issuer fun c =>
    if q.issuer = t then
      match c.hold with
      | .blocked b => { c with hold := .blocked { b with done := some v, ret := q.ret } }
      | _ => c
    else
      let c := match q.ret with | some r => c.setSReg r v | none => c
      { c with hold := .reply, pc := c.pc + 4, hints := [] }

/-- An access that stores joins the coherence order of its locations (R78, R80). -/
def State.joinStore (s : State) (a : Access) : State :=
  if a.op.isStore then s.joinOrder a.dest a.owner a.addr a.size else s

/-- A released request that stores does (R78). -/
def State.joinParked (s : State) (t : Nat) (q : Parked) : State :=
  if (AccOp.fe q.op q.data q.ret).isStore then s.joinOrder (.plate t) (s.core q.issuer).own q.addr q.size else s

/-- After a change of full/empty bits at core `t`, release what is ready. -/
def State.fePort (s : State) (t : Nat) : State :=
  let c := s.core t
  let (c, l) := Core.feRelease c.parked.length c
  l.foldl (fun s (q, v) => (s.joinParked t q).feReturn t q v) (s.setCore t c)

/-- A plain store into a tile that is filling makes the bytes of its unit undefined, whether the fill has written that
unit or is still to write it (R68). -/
def State.spoilFilling (s : State) (t a z : Nat) : State :=
  let hit := (List.range 32).filter fun k =>
    let x := (s.core t).tile k
    x.state == .filling && decide (x.start < a + z) && decide (a < x.start + x.bytes)
  if hit.isEmpty then s else
    let u := a / 128
    let k := s.freeCtr
    { (s.updCore t fun c =>
        (List.range 128).foldl (fun c i => c.plateWrite (128 * u + i) 1 (Config.freeByte (k + i)))
          { c with spoilt := c.spoilt ++ hit.map fun x => (x, u) })
      with freeCtr := k + 128 }

/-- A plain store at a plate port: bytes, or a descriptor word for a privileged store (R62, R64). -/
def State.plateStore (s : State) (t a z : Nat) (data : Word) : State :=
  if a < 0x20000 then (s.updCore t fun c => c.plateWrite a z data).spoilFilling t a z
  else s.updCore t fun c => c.setRing ((a - 0x20000) / 64) ((c.ring ((a - 0x20000) / 64)).setWord (a % 64 / 8) data)

/-- The value at a plate-window offset (R59). -/
def Core.windowRead (c : Core) (a z : Nat) : Word :=
  if a < 0x20000 then c.plateRead a z
  else if a < 0x20400 then (c.ring ((a - 0x20000) / 64)).word (a % 64 / 8)
  else let t := c.tile ((a - 0x21000) / 16); if a % 16 = 0 then t.word0 else t.word1

/-! ### Cluster windows -/

/-- Byte of the accumulator tiles. -/
def Cluster.accByte (c : Cluster) (a : Nat) : Byte := (memRead zeroMem c.acc a).getD 0
/-- Bytes of the accumulator tiles (R61). -/
def Cluster.accRead (c : Cluster) (a n : Nat) : Word := readWord c.accByte a n
/-- Write bytes of the accumulator tiles. -/
def Cluster.accWrite {w : Nat} (c : Cluster) (a n : Nat) (x : BitVec w) : Cluster :=
  { c with acc := writeBytes zeroMem x a n c.acc }

/-! ### Atomics -/

/-- The new value of an atomic on a `z`-byte location, `none` when nothing is written (R194); at a Kiln unit a NaN sum is
the canonical NaN. -/
def atomNew (op : AtomOp) (z : Nat) (old x e : Word) (kiln : Bool) : Option Word :=
  let sx (v : Word) := (sextN (8 * z) v).toInt
  let m (v : Word) := zextN (8 * z) v
  match op with
  | .swap => some (m x)
  | .cas => if old = m e then some (m x) else none
  | .add => some (m (old + x))
  | .and => some (m (old &&& x))
  | .or => some (m (old ||| x))
  | .xor => some (m (old ^^^ x))
  | .minS => some (if sx x < sx old then m x else old)
  | .maxS => some (if sx old < sx x then m x else old)
  | .minU => some (if (m x).toNat < old.toNat then m x else old)
  | .maxU => some (if old.toNat < (m x).toNat then m x else old)
  | .fadd =>
    let f := if z = 4 then f32 else f64
    let r := fAdd f .rne old.toNat (m x).toNat
    some (BitVec.ofNat 64 (if kiln && f.isNan r then f.nanCode else r))

/-! ### Applying accesses -/

/-- The value at the place of an access. DESIGN CHOICE (log 71): a load of the accumulator of a queued or running job returns the
value an element has now, of those it has held since the job was queued (R61). -/
def State.placeRead (s : State) (a : Access) : Word :=
  match a.dest with
  | .plate t => (s.core t).windowRead a.addr a.size
  | .cluster g => (s.cluster g).accRead a.addr a.size
  | .main img => s.imgRead img (s.keyFor a.owner a.sup) a.addr a.size

/-- A compare-and-swap would fail now (R194). -/
def State.wouldFail (s : State) (a : Access) : Bool :=
  match a.op with
  | .atom .cas _ e _ => s.placeRead a != zextN (8 * a.size) e
  | _ => false

/-- An access as R81 orders it: a compare-and-swap that would fail now counts only as a load (R194; log 57). -/
def State.ordered (s : State) (a : Access) : Access := if s.wouldFail a then { a with op := .load 0 0 } else a

/-- The condition of "Perform" (R80): no older access that precedes `a` (R81) is unperformed. -/
def State.mayPerform (s : State) (n : Nat) (older : List Access) (a : Access) : Bool :=
  older.all (fun b => !blocks n (s.ordered b) (s.ordered a)) &&
    !(match a.waitScope with | some σ => s.pushWaits n σ | none => false)

/-- Store at the place of an access. -/
def State.placeWrite (s : State) (a : Access) (x : Word) : State :=
  match a.dest with
  | .plate t => (s.plateStore t a.addr a.size x).joinOrder a.dest a.owner a.addr a.size
  | .cluster g => (s.updCluster g fun c => c.accWrite a.addr a.size x).joinOrder a.dest a.owner a.addr a.size
  | .main img => s.imgWrite img a.owner a.sup x a.addr a.size

/-- Pass the caches of an access to main memory (R69, R70). -/
def State.passCaches (s : State) (n : Nat) (a : Access) (op : CacheOp) : State :=
  match a.dest with
  | .main _ => s.touch n a.owner (a.addr / 128) a.cache a.tier a.stream op 0
  | _ => s

/-- One line of a range operation (R89, R94). -/
def State.rangeLine (s : State) (op : RangeOp) (line : Nat) : State :=
  let undir (s : State) : State := { s with copies := s.copies.filter fun c => !(c.line == line && c.cls != 3) }
  match op with
  | .clean => s.writeBackLine line
  | .inval => undir (s.dropLine line)
  | .flush => undir ((s.writeBackLine line).dropLine line)
  | .icinv => s

/-- An instruction-cache line covers a byte of the 128 bytes at virtual address `va`. -/
def ILine.inLine (x : ILine) (va : Nat) : Bool := x.line / 2 == va / 128

/-- The tag of an instruction-cache line: supervisor code is fetched through other tables (R296, R321). -/
def Core.fetchTag (c : Core) : Nat := c.own + (if c.sup then 256 else 0)

/-- The word at `a` in a line. -/
def ILine.word (x : ILine) (a : Nat) : Code :=
  let b (i : Nat) : Byte := x.data.getD (a % 64 + i) 0
  b 3 ++ b 2 ++ b 1 ++ b 0

/-- Up to `k` words from `a` on that the core has at hand: fetched ahead, or in its cache. -/
def Core.wordsAt (c : Core) (a : Word) : Nat → List (Word × Code)
  | 0 => []
  | k + 1 =>
    match c.ahead.find? (fun x => x.1 == a), c.icache.find? (fun x => x.owner == c.fetchTag && x.line == a.toNat / 64) with
    | some x, _ => x :: c.wordsAt (a + 4) k
    | none, some l => (a, l.word a.toNat) :: c.wordsAt (a + 4) k
    | none, none => []

/-- Drop the lines that `gone` names from the core's cache. What it has fetched ahead of its current instruction, up to 16
words, stays with it until they are discarded (R94, R296; log 62). -/
def Core.dropLines (c : Core) (k : Nat) (gone : ILine → Bool) : Core :=
  { c with ahead := if c.icache.any gone then c.wordsAt c.pc (min 16 k) else c.ahead
           icache := c.icache.filter fun x => !gone x }

/-- One line of `icinv.range` (R94, R200): dropped from every instruction cache of the partition, for the issuing owner
or, with SUP = 1, for every owner of its virtual device. -/
def State.dropCode (s : State) (a : Access) : State :=
  let f := s.funcOf a.owner
  let e := (s.func f).entry
  let mine (q : Nat) : Bool := if a.sup then s.funcOf q == f else q == a.owner
  { s with cores := s.cores.map fun (m, c) =>
      if Vd.part e (clusterOf m) then
        (m, c.dropLines (Config.fetchedAhead s.moves m) fun x => x.inLine a.va.toNat && mine (x.owner % 256))
      else (m, c) }

/-- A fault message enters the reserved region of the inbox of core `t`, or is lost (R49, R301, R343). -/
def State.faultArrive (s : State) (t : Nat) (r : Rec) : State :=
  let c := s.core t
  let base := (c.ring 0).base.toNat * 64 - 4096
  let busy (k : Nat) : Bool := c.faultBox.any (fun x => x.2 == k) ||
    (match c.handler with | some h => h.fromFault && h.slot == base + 64 * k | none => false)
  match (List.range 64).find? (fun k => !busy k) with
  | some k =>
    s.setCore t { (c.plateWrite (base + 64 * k) 64 r) with faultBox := c.faultBox ++ [((c.ring 0).tail, k)] }
  | none => s.report 0x0A 0 c.ctx 0 t 0 (struct := BitVec.ofNat 64 (0x14 * 2 ^ 24 + t))

/-- A record that has entered ring `j` of core `t` is in the coherence order of its slot (R78). -/
def State.joinSlot (s : State) (a : Access) (t j : Nat) : State :=
  let g := (s.core t).ring j
  if g.log2n = 0 then s else s.joinOrder a.dest a.owner (g.slotAt (g.tail - 1)) 64

/-- Perform the store side of an access of core `n`: its effect, and the value it returns (R80, R87). Poison is checked
by the caller. A full/empty access is performed only when its condition holds. -/
def State.applyAccess (s : State) (n : Nat) (a : Access) : Word × State :=
  match a.op, a.dest with
  | .store x, _ => (0, (s.passCaches n a .write).placeWrite a x)
  | .atom op x e _, _ =>
    let old := s.placeRead a
    let s := s.passCaches n a .atomic
    (old, match atomNew op a.size old x e (a.dest == .main .b) with
      | some v => s.placeWrite a v
      | none => s)
  | .dec d work _, .plate t =>
    let (old, c) := (s.core t).decrement t (a.addr - 8) d work n
    (old, (s.setCore t c).joinStore a)
  | .fe op data _, .plate t =>
    match (s.core t).feTry op a.addr a.size data with
    | some (v, c) => (v, ((s.setCore t c).joinStore a).fePort t)
    | none => (0, s)
  | .msg r, .plate t => (0, (s.updCore t fun c => (c.append 0 r).setResv 0 (c.resv 0 - 1)).joinSlot a t 0)
  | .push j r, .plate t => (0, (s.updCore t fun c =>
      let c := c.setResv j (c.resv j - 1)
      if (c.ring j).log2n = 0 then c else c.append j r).joinSlot a t j)
  | .faultMsg r, .plate t =>
    (0, if s.liveFor a.owner t then s.faultArrive t r
      else { s with devMsgs := s.devMsgs ++ [⟨t, a.owner, true, r, none, [], n, 33⟩] })
  | .range op, .main img =>
    (0, if op = .icinv then s.dropCode a else if img = .c then s.rangeLine op (a.addr / 128) else s)
  | _, _ => (0, s)

end Sys2Proof.Machine
end

