-- ==== Sys2Proof/Machine/Groups.lean ====
section
/-!
DEFINITION. The collective record and its participants (spec/12_matrix_copy_jobs.md R246), and the failure of a collective
at its other participants (R248), which a kill or a cancellation brings about as well (R237, R341).
-/
namespace Sys2Proof.Machine

/-- Word `i` of a card. -/
def cw (ws : List Word) (i : Nat) : Word := ws.getD i 0

namespace Coll
def cseq (w : List Word) : BitVec 32 := (cw w 0).extractLsb' 32 32
def wcore (w : List Word) : Nat := bitsOf (cw w 0) 31 21
def wake (w : List Word) : Bool := bitOf (cw w 0) 20
def group (w : List Word) : Nat := bitsOf (cw w 0) 19 12
def tcode (w : List Word) : Nat := bitsOf (cw w 0) 11 8
def red (w : List Word) : Nat := bitsOf (cw w 0) 5 4
def op (w : List Word) : Nat := bitsOf (cw w 0) 3 0
def src (w : List Word) : Nat := bitsOf (cw w 1) 51 0
def dst (w : List Word) : Nat := bitsOf (cw w 2) 51 0
def count (w : List Word) : Nat := bitsOf (cw w 3) 39 0
def whand (w : List Word) : Word := cw w 4 &&& 0x000FFFFFFFFFFFF0
def user (w : List Word) : Word := cw w 5 >>> 32
/-- Bytes of an element. -/
def z (w : List Word) : Nat := match tcode w with | 2 => 4 | 3 => 8 | 8 => 8 | 9 => 4 | _ => 2
/-- OP, RED, TCODE and COUNT, in which all participants must agree (R248). -/
def header (w : List Word) : Word := cw w 0 &&& 0xF3F
end Coll

/-- The job in entry `e`. -/
def Cluster.job (c : Cluster) (e : Nat) : Option Job := c.jobs.getD e none
/-- Replace entry `e`. -/
def Cluster.setJob (c : Cluster) (e : Nat) (j : Option Job) : Cluster := { c with jobs := c.jobs.setIfInBounds e j }

/-- The group table of owner `o`'s virtual device (R246; log 25). -/
def State.groupTable (s : State) (o : Nat) : Nat := Vd.groupT (s.func (s.funcOf o)).entry

/-- The participants of a collective of owner `o` in rank order (R246). -/
def State.members (s : State) (o : Nat) (w : List Word) : List (Nat × Nat) :=
  Config.groupMembers (s.groupTable o) (Coll.group w)

/-- A job of the collective with record `w` that has not ended (R248). -/
def Job.partOf (w : List Word) (j : Job) : Bool :=
  j.type == 3 && Coll.cseq j.card == Coll.cseq w && Coll.group j.card == Coll.group w
    && (j.state == .queued || j.state == .running || j.state == .suspended)

/-- A collective of owner `o` fails at every participant of this module that has not completed (R248). -/
def State.failPeers (s : State) (o : Nat) (w : List Word) (cause : Nat) : State :=
  let ms := s.members o w
  let t := s.groupTable o
  { s with clusters := s.clusters.map fun ((h, c) : Nat × Cluster) =>
      if ms.contains (0, h) then
        (h, { c with jobs := c.jobs.map fun j => match j with
          | some x => if x.partOf w && !x.drained && s.groupTable x.owner == t then
              some { x with state := .failed, cause := cause, wakeDue := Coll.wake x.card } else some x
          | none => none })
      else (h, c) }

end Sys2Proof.Machine
end

