-- ==== Sys2Proof/Machine/Ops.lean ====
section
/-!
DEFINITION. The shared operations over handlers: the end of a handler (R28, R39), lane takeback (R210), splices applied and
failed (R142 to R147), faults of a handler and fault messages (R48, R49), the kill of a context (R341), and TAKING A TRAP
(R277, R278) with the RETURN FROM A TRAP (R279).
-/
namespace Sys2Proof.Machine

/-! ### Undefined registers -/

/-- Every scalar register of the bank in force but s0, every lane, predicate and fmt register becomes a free value (R25,
R39; log 5). -/
def Core.scramble (c : Core) (k : Nat) : Core :=
  { c with
    sregs := Vector.ofFn fun i =>
      if i.val = 0 || c.sup && 24 ≤ i.val then c.sregs.getD i.val 0 else Config.freeWord (k + i.val)
    supBank := if c.sup then Vector.ofFn fun i => Config.freeWord (k + 8256 + i.val) else c.supBank
    pregs := Vector.ofFn fun i => Config.freePred (k + i.val)
    fregs := Vector.ofFn fun i => Config.freeWord (k + 32 + i.val)
    vregs := (List.range 32).flatMap fun d =>
      (List.range c.lanes).map fun i => (256 * d + i, Config.freeWord (k + 64 + 256 * d + i)) }

/-- The free values one `scramble` takes. -/
def scrambled : Nat := 8264

/-! ### Lanes (R208 to R210) -/

/-- The cores of a cluster. -/
def coresOf (g : Nat) : List Nat := (List.range 8).map fun k => 8 * g + k
/-- Free = 256 − Σ G (R209). -/
def State.freeLanes (s : State) (g : Nat) : Nat := 256 - ((coresOf g).map fun n => (s.core n).lanes).sum
/-- Σ D over the other cores of core `n`'s cluster (R210). -/
def State.otherDemand (s : State) (n : Nat) : Nat :=
  (((coresOf (clusterOf n)).filter (· != n)).map fun m => (s.core m).demand).sum

/-- Change the grant of a core: lanes at or above it are lost, lanes newly granted are free values (R208). -/
def State.setLanes (s : State) (n l : Nat) : State :=
  let c := s.core n
  let k := s.freeCtr
  let old := c.vregs.filter fun x => x.1 % 256 < min c.lanes l
  let new := if c.lanes < l then
      (List.range 32).foldl (fun v d => (List.range (l - c.lanes)).foldl
        (fun v i => Store.put (256 * d + c.lanes + i) (Config.freeWord (k + 256 * d + i)) v) v) old
    else old
  { s.setCore n { c with lanes := l, vregs := new } with freeCtr := k + 8192 }

/-- While Free < U and G > 32 the core gives up 16 lanes (R210). -/
def takebackLoop (u : Nat) : Nat → Nat → Nat → Nat
  | 0, _, g => g
  | k + 1, free, g => if free < u && 32 < g then takebackLoop u k (free + 16) (g - 16) else g

/-- Lanes taken back at a handler boundary of core `n` (R210). -/
def State.takeback (s : State) (n : Nat) : State :=
  s.setLanes n (takebackLoop (s.otherDemand n) 16 (s.freeLanes (clusterOf n)) (s.core n).lanes)

/-- Every ring of the core is empty (R43, R210). -/
def Core.allEmpty (c : Core) : Bool := c.faultBox.isEmpty && c.rings.toList.all fun g => g.waiting == 0

/-- The core idles in its dispatcher with every ring empty, and no state-transfer handler to run (R43, R142). -/
def Core.idles (c : Core) : Bool := c.ctx.isSome && c.handler.isNone && c.hold == .none && c.transfer.isNone && c.allEmpty

/-- A dispatcher that finds every ring empty and idles gives up its grant and demand (R210). -/
def State.restIdle (s : State) (n : Nat) : State :=
  if (s.core n).idles then (s.setLanes n 0).updCore n fun c => { c with demand := 0 } else s

/-- A handler boundary of core `n` (R210): lanes are taken back. -/
def State.boundary (s : State) (n : Nat) : State :=
  (s.takeback n).restIdle n

/-! ### Messages the device builds -/

/-- The issued accesses of core `n` that a release of scope `σ` to the window of core `t` waits for (R33, R81). -/
def State.releasedBy (s : State) (n t σ : Nat) : List Nat :=
  ((s.core n).pend.filter fun b => b.heldFor n σ || (b.op.isStore && b.dest == .plate t)).map Access.id

/-- Send a message that the ring engine of core `n` builds to the inbox of core `t`, as a release of that core's older
accesses (R147): it waits at the device until they have been performed and a slot is free (R365). No store of the core, it
is not counted in `ctl.usc` (log 55). -/
def State.sendDevice (s : State) (n t o : Nat) (r : Rec) : State :=
  { s with devMsgs := s.devMsgs ++ [⟨t, o, false, r, some n, s.releasedBy n t (smallestScope n t), n, 33⟩] }

/-- The older accesses that a device message releases have been performed, and no ready push of its core waits in its scope (R37,
R147). -/
def State.devReady (s : State) (m : DevMsg) : Bool :=
  match m.src with
  | some n => (s.core n).pend.all (fun a => !m.after.contains a.id) && s.lateLoads.all (fun x => !m.after.contains x.2.1.id)
      && !s.pushWaits n (smallestScope n m.target)
  | none => true

/-- A message of core `n`'s ring engine to core `t` is still to enter, so that a later send of the core comes after it
(R31, R147). -/
def State.devBefore (s : State) (n t : Nat) : Bool := s.devMsgs.any fun m => m.src == some n && m.target == t && !m.fault

/-! ### Splices (R136 to R147) -/

/-- The rings of the stage of ring `j` (R136). -/
def Core.stage (c : Core) (j : Nat) : List Nat :=
  if (c.ring j).grp = 0 then [j]
  else (List.range 16).filter fun i => (c.ring i).grp == (c.ring j).grp && (c.ring i).log2n != 0

/-- KIND of a record (R137). -/
def recKind (r : Rec) : Nat := bitsOf r 3 0
/-- SSEQ of a record (R137). -/
def recSseq (r : Rec) : BitVec 32 := r.extractLsb' 32 32

/-- The head record of ring `j`: the first not yet taken (R134). -/
def Core.headRec (c : Core) (j : Nat) : Rec := c.plateRec ((c.ring j).slotAt (c.ring j).disp)

namespace Splice
/-- Word k of the payload (R138). -/
def p (r : Rec) (k : Nat) : Word := wordAt r (k + 2)
def op (r : Rec) : Nat := bitsOf (p r 0) 1 0
def tring (r : Rec) : Nat := bitsOf (p r 0) 5 2
def tcore (r : Rec) : Nat := bitsOf (p r 0) 16 6
def nring (r : Rec) : Nat := bitsOf (p r 0) 20 17
def ncore (r : Rec) : Nat := bitsOf (p r 0) 31 21
def nprio (r : Rec) : BitVec 3 := (p r 0).extractLsb' 32 3
def log2n (r : Rec) : Nat := bitsOf (p r 0) 38 35
def nhand (r : Rec) : Word := p r 1
def xhand (r : Rec) : Word := p r 2
def nbuf (r : Rec) : Nat := bitsOf (p r 3) 48 32
def nstate (r : Rec) : Nat := bitsOf (p r 3) 16 0
def rhand (r : Rec) : Word := p r 4 &&& ~~~(0xF#64)
def notify (r : Rec) : Bool := bitOf (p r 4) 0
def user (r : Rec) : Word := p r 5
end Splice

/-- The reply message of R147. -/
def spliceReply (n j cause : Nat) (r : Rec) (info tcause : Word) : Rec :=
  let x := if cause = 4 then info else 0
  let y := if cause = 4 then tcause &&& 0xFF else 0
  mkRec [Splice.rhand r &&& 0x000FFFFFFFFFFFF0, wordAt r 1,
    BitVec.ofNat 64 (cause + n * 2 ^ 8 + j * 2 ^ 19 + (recSseq r).toNat * 2 ^ 32), Splice.p r 0, x, y, 0, Splice.user r]

/-- Send the reply when RHAND is set, for a failure or a success with NOTIFY (R147). -/
def State.replySplice (s : State) (n j cause : Nat) (r : Rec) (info tcause : Word) : State :=
  if p0 r && (cause != 0 || Splice.notify r) then
    s.sendDevice n (bitsOf r 23 13) (s.core n).own (spliceReply n j cause r info tcause)
  else s
where p0 (r : Rec) : Bool := Splice.rhand r != 0

/-- The splice at the head of ring `j` becomes a splice-fail record in place, and the descriptor is as before it reached
the ring, but for SSEQ and FAILS (R143, R146). -/
def Core.failHead (c : Core) (j cause : Nat) : Core :=
  let g := c.ring j
  let r := c.headRec j
  let h := (wordAt r 0 &&& ~~~(0xFF00000F#64)) ||| 5 ||| BitVec.ofNat 64 (cause * 2 ^ 24)
  { (c.plateWrite (g.slotAt g.disp) 8 h).setRing j
      { g.fail with sseq := recSseq r, halt := false, hwait := 0, hseq := Store.get g.hseq j c.hseqWas } with
    hseqWas := Store.del j c.hseqWas }

/-- Fail the splices at the heads of the given rings of core `n`, in increasing ring number; they leave in that order
(R143, R146, R147). -/
def State.failSplices (s : State) (n : Nat) (rings : List Nat) (cause : Nat) (info tcause : Word) : State :=
  let s := s.updCore n fun c =>
    { c with failing := if rings.length ≤ 1 then c.failing else c.failing.filter (fun i => !rings.contains i) ++ rings }
  rings.foldl (fun s j =>
    let r := (s.core n).headRec j
    (s.updCore n fun c => c.failHead j cause).replySplice n j cause r info tcause) s

/-- A splice-fail of ring `j` waits for one of a lower ring that failed with it (R143). -/
def Core.failWaits (c : Core) (j : Nat) : Bool :=
  c.failing.contains j && (c.failing.takeWhile (· != j)).any fun i => (c.stage j).contains i

/-- The splice-fail of ring `j` has left. -/
def Core.failLeft (c : Core) (j : Nat) : Core := { c with failing := c.failing.filter (· != j) }

/-- What a commit does to one ring of the stage, but for the counters (R142). -/
def Ring.rebind (g : Ring) (r : Rec) : Ring :=
  match Splice.op r with
  | 1 => { g with lv := true, lr := false, lrack := 0, lcore := BitVec.ofNat 11 (Splice.ncore r),
                  lring := BitVec.ofNat 4 (Splice.nring r) }
  | 2 => { g with mode := 2 }
  | _ => { g with mode := 1, handler := (Splice.nhand r).extractLsb' 4 48,
                  state := (BitVec.ofNat 64 (plateBase (Splice.tcore r) + Splice.nstate r)).extractLsb' 6 46 }

/-- Commit the splice at the heads of the given rings of a stage of core `n` (R142, R143): the descriptors and counters of every
ring of the stage, one bound into it meanwhile among them (R136), the consumed records and the success messages. The record at
ring `j`, the lowest, supplies the operands. A dispatcher left with every ring empty idles (R210). -/
def State.commitSplice (s : State) (n j : Nat) (rings : List Nat) : State :=
  let c := s.core n
  let r := c.headRec j
  let old := c.ring j
  let heads := rings.map fun i => (i, c.headRec i)
  let s := (c.stage j).foldl (fun s i => s.updCore n fun c =>
    let g := (c.ring i).rebind r
    let g := { g with sseq := recSseq r, applied := if g.applied = 0xFFFFFFFF then g.applied else g.applied + 1, halt := false
                      hwait := 0 }
    if rings.contains i then
      let c := if g.disp + 1 = g.tail then { c with ages := c.ages.setIfInBounds i 0 } else c
      { c.setRing i { g with disp := g.disp + 1, head := g.head + 1 } with hseqWas := Store.del i c.hseqWas }
    else c.setRing i g) s
  let s := if Splice.op r = 1 then
      s.updCore (Splice.ncore r) fun c => c.setRing (Splice.nring r)
        { Ring.free with
          log2n := BitVec.ofNat 4 (Splice.log2n r), prio := Splice.nprio r, mode := 1
          base := BitVec.ofNat 11 (Splice.nbuf r / 64)
          handler := (Splice.nhand r).extractLsb' 4 48
          state := (BitVec.ofNat 64 (plateBase (Splice.ncore r) + Splice.nstate r)).extractLsb' 6 46
          lv := old.lv, lr := old.lr, lrack := old.lrack, lcore := old.lcore, lring := old.lring }
    else s
  (heads.foldl (fun s (i, x) => s.replySplice n i 0 x 0 0) s).restIdle n

/-- The issued stores of core `n` that a release at module scope waits for (R144). -/
def State.releasedStores (s : State) (n : Nat) : List (Nat × Nat) :=
  ((s.core n).pend.filter fun b =>
    b.op.isStore && match portionOf n b.dest b.tier with | none => false | some p => scopeCovers 3 p).map fun b => (n, b.id)

/-- The stores a transfer waits for have been performed (R144). -/
def State.performedAll (s : State) (l : List (Nat × Nat)) : Bool :=
  l.all fun (n, id) => !(s.core n).pend.any fun b => b.id == id

/-- What a transfer waits for has been performed: those stores, and the ready pushes that its core has caused elsewhere (R37,
R144). -/
def State.released (s : State) (t : Transfer) : Bool := s.performedAll t.after && !s.pushWaits t.core 3

/-- The splice of `t`, which has no state-transfer handler, is ready to commit: at once when nothing it releases is outstanding,
else it waits at its core's ring engine (R144). -/
def State.commitAfter (s : State) (t : Transfer) : State :=
  if s.released t then s.commitSplice t.core t.ring t.rings
  else s.updCore t.core fun c => { c with commits := c.commits ++ [t] }

/-! ### The end of a handler -/

/-- Free the slot of the handler's record (R27): a ring slot, or one of the fault region, which a fault message leaves at
its dispatch. -/
def Core.freeSlot (c : Core) (h : Handler) : Core :=
  if h.transfer.isSome || h.fromFault then c
  else
    let g := c.ring h.ring
    c.setRing h.ring { g with head := g.head + 1 }

/-- Append the record of a yielding handler again (R28). DESIGN CHOICE (log 56): a ready-ring record is appended as it
stood, with the work identifier and issuer it carried, which the spec does not say. -/
def Core.requeue (c : Core) (h : Handler) (r : Rec) : Core :=
  if h.transfer.isSome then c
  else if h.fromFault then
    { c with faultBox := c.faultBox ++ [((c.ring 0).tail, (h.slot - ((c.ring 0).base.toNat * 64 - 4096)) / 64)] }
  else c.append h.ring r

/-- Leave the handler: the core goes to its dispatcher (R28), in user mode. -/
def Core.idle (c : Core) : Core :=
  { c with handler := none, hold := .none, rangeAt := 0, begun := false, hints := [], sup := false, depthCur := 0
           pending := none, pushRec := none, ahead := [] }

/-- The return from an inline child (R39). DESIGN CHOICE (log 47): `end` or `yield` in supervisor mode returns to the
caller in supervisor mode, SUP staying 1, where the spec says nothing. -/
def State.childReturn (s : State) (n f : Nat) (rest : List Word) (h : Handler) : State :=
  let c := s.core n
  let a := f - plateBase n
  let w (o : Nat) := c.plateRead (a + o) 8
  let k := s.freeCtr
  let c := ((((((c.scramble k).setS 1 (w 72)).setS 2 (w 80)).setS 3 (w 88)).setS 4 (w 96)).setS 31 (w 104))
  let c := { c with work := w 112, depthCur := c.depthCur - 1, pc := w 64, hints := [], ahead := []
                    handler := some { h with frames := rest } }
  { s.setCore n c with freeCtr := k + scrambled }

/-- `end` and `yield` wait in a state-transfer handler until everything its commit releases has been performed, since the commit
is made in the same step as the end (R144, R145). -/
def State.mayEnd (s : State) (n : Nat) : Bool :=
  match (s.core n).handler with
  | some h => match h.frames, h.transfer with
    | [], some t => s.released t && (s.releasedStores n).isEmpty && !s.pushWaits n 3
    | _, _ => true
  | none => true

/-- `end` (R28, R39, R210): an inline child returns; otherwise the slot is freed, a state-transfer handler commits its
splice (R142), and the core goes to the dispatcher. `requeue` is `yield`. -/
def State.endHandler (s : State) (n : Nat) (requeue : Bool) : State :=
  match (s.core n).handler with
  | none => s.updCore n Core.idle
  | some h =>
    match h.frames with
    | f :: rest => s.childReturn n f.toNat rest h
    | [] =>
      let r := (s.core n).plateRec h.slot
      let s := s.updCore n fun c =>
        let c := c.freeSlot h
        if requeue then c.requeue h r else c
      let s := (s.updCore n Core.idle).boundary n
      match h.transfer with
      | some t => s.commitSplice t.core t.ring t.rings
      | none => s

/-! ### Kill of a context (R341) -/

/-- Requests leave a plate port, giving back the slots the lottery had granted them. -/
def Core.leavePort (c : Core) (p : PortWait → Bool) : Core :=
  let mine := c.portWait.filter fun q => p q && q.granted
  let c := mine.foldl (fun c q => c.setResv q.ring (c.resv q.ring - 1)) c
  { c with portWait := c.portWait.filter fun q => !p q }

/-- The requests that core `n` has made itself leave a plate port. -/
def Core.withdraw (c : Core) (n : Nat) : Core :=
  { c.leavePort fun q => q.issuer == n && q.tag == 0 with parked := c.parked.filter fun q => q.issuer != n }

/-- Withdraw every waiting request of core `n` (R330, R341): parked, at plate ports, at the lane pool and the job queue. -/
def State.withdraw (s : State) (n : Nat) : State :=
  { s with
    cores := s.cores.map fun (m, c) => (m, c.withdraw n)
    clusters := s.clusters.map fun (g, c) =>
      (g, { c with claims := c.claims.filter (fun x => x.1 != n), claimGrants := c.claimGrants.filter (· != n)
                   admits := c.admits.filter (· != n), admitGrants := c.admitGrants.filter (· != n) }) }

/-- Requester `who` gives up the request that its message number 0 makes at a port, granted or not: the word of a core ends in a
trap after it was woken (R32, R54), or a steep ends. -/
def State.unwait (s : State) (who : Nat) : State :=
  if s.cores.any fun (_, c) => c.portWait.any fun q => q.issuer == who && q.tag == 0 then
    { s with cores := s.cores.map fun (m, c) => (m, c.leavePort fun q => q.issuer == who && q.tag == 0) }
  else s

/-- The chain of core `n` ends in a trap that it did not raise: it waits at the lane pool and the job queue no more (R209). -/
def State.unclaim (s : State) (n : Nat) : State :=
  let g := clusterOf n
  let q := s.cluster g
  if q.claims.any (fun x => x.1 == n) || q.claimGrants.contains n || q.admits.contains n || q.admitGrants.contains n then
    s.setCluster g { q with
      claims := q.claims.filter fun x => x.1 != n
      claimGrants := q.claimGrants.filter (· != n)
      admits := q.admits.filter (· != n)
      admitGrants := q.admitGrants.filter (· != n) }
  else s

/-- Give up the slot an unperformed message or push had reserved. -/
def State.unreserve (s : State) (a : Access) : State :=
  match a.op, a.dest with
  | .msg _, .plate t => s.updCore t fun c => c.setResv 0 (c.resv 0 - 1)
  | .push j _, .plate t => s.updCore t fun c => c.setResv j (c.resv j - 1)
  | _, _ => s

/-- Every issued store, atomic, push and message of core `n` not yet performed is performed or discarded, each either
way (R341 step 3; log 26). -/
def State.settle (s : State) (n : Nat) : State :=
  let l := (s.core n).pend
  let s := { s with arrivals := s.arrivals.filter fun x => x.1 != n }
  let s := l.foldl (fun s a =>
    if a.op.isStore then
      let (k, s) := s.draw
      if Config.killPerforms k then (s.applyAccess n a).2 else s.unreserve a
    else s) s
  s.updCore n fun c => { c with pend := [], gathers := [] }

/-- A core whose context is killed: rings, tile table and counters cleared, its lanes returned, no owner (R341). -/
def Core.cleared (c : Core) : Core :=
  { c.idle with
    rings := Vector.replicate 16 Ring.free, ages := Vector.replicate 16 0, inboxAge := 0
    lastTaken := Vector.replicate 8 0, reserved := Vector.replicate 16 0, faultBox := [], poisonReplies := []
    tiles := Vector.replicate 32 ⟨.empty, 0, 0, 0, 0, 0⟩
    parked := [], readyWait := [], portWait := [], agents := [], spoilt := [], flights := [], transfer := none, commits := []
    failing := [], hseqWas := [], pend := [], gathers := []
    lanes := 0, demand := 0, vregs := [], ctx := none, stopped := false, blk := false }

/-- Set accumulator tile `a` to +0 (R341). -/
def Cluster.clearTile (c : Cluster) (a : Nat) : Cluster :=
  { c with acc := c.acc.filter fun x => x.1 / 4096 != a }

/-- A cluster after a kill of owner `o`: its jobs end, its tiles and trees are cleared and untagged (R341). -/
def Cluster.killOwner (c : Cluster) (o : Nat) : Cluster :=
  let mine := c.tags.filter fun x => x.2 == .owner o
  let c := mine.foldl (fun c x => c.clearTile x.1) c
  { c with
    tags := c.tags.filter fun x => x.2 != .owner o
    trees := c.trees.map fun t => if t.tag == some o then Tree.reset else t
    jobs := c.jobs.map fun j => match j with | some x => if x.owner = o then none else some x | none => none }

/-- Kill the context of owner `o` (R341 steps 1 to 5), with its saved parts; the caller writes the class record. -/
def State.killOwner (s : State) (o : Nat) : State :=
  let colls := s.clusters.flatMap fun (_, c) => c.jobs.toList.filterMap fun j =>
    match j with
    | some x => if x.owner = o && x.partOf x.card then some x.card else none
    | none => none
  let s := colls.foldl (fun s w => s.failPeers o w 8) s
  let ns := (s.cores.filter fun (_, c) => c.ctx == some o).map Prod.fst
  let s := ns.foldl (fun s n => (s.updCore n Core.idle).withdraw n) s
  let s := ns.foldl State.settle s
  let s := ns.foldl (fun s n => s.updCore n Core.cleared) s
  { s with
    clusters := s.clusters.map fun (g, c) => (g, c.killOwner o)
    cores := s.cores.map fun (m, c) =>
      (m, if c.portWait.any fun q => q.owner == o then c.leavePort fun q => q.owner == o else c)
    saved := s.saved.filter fun x => x.1 / 2 ^ 16 != o
    lateLoads := s.lateLoads.filter fun x => x.2.1.owner != o
    breaks := s.breaks.filter fun b => b.owner != o
    devMsgs := s.devMsgs.filter fun m => m.owner != o
    owners := Store.put o { s.owner o with killed := true, faults := [] } s.owners }

/-! ### Faults of a handler (R47 to R49) -/

/-- The fault message of R49. DESIGN CHOICE (log 69): where an inline child faults, "the faulting record" whose ring, kind and
first payload words it names is that of the outermost handler, as it stood at dispatch, a child having no record. -/
def State.faultRecord (s : State) (n cause : Nat) (info pc : Word) : Rec :=
  let c := s.core n
  let h : Handler := c.handler.getD ⟨0, 0, 0, 0, 0, false, none, [], 0, 0⟩
  let cod := h.kind = 1
  let a := wordAt h.record 0
  let w4 := if cod then a else wordAt h.record 2
  let w5 := if cod then c.plateRead (a.toNat % 0x100000 + 12) 4 else wordAt h.record 3
  mkRec [c.faultHandler.setWidth 64 <<< 4 ||| 2, c.work,
    BitVec.ofNat 64 (cause + n * 2 ^ 8 + h.ring * 2 ^ 20 + h.kind * 2 ^ 24), c.work, info, pc, w4, w5]

/-- Send the fault message to the fault core: a release of every kind (R49, R83). -/
def State.sendFault (s : State) (n cause : Nat) (info pc : Word) : State :=
  let c := s.core n
  let t := c.faultCore.toNat
  let r := s.faultRecord n cause info pc
  let (id, s) := s.newId
  s.updCore n fun c => { c with pend := c.pend ++
    [⟨id, .faultMsg r, .plate t, 0, 0, 0, .rc, .hbm, false, 0, c.own, false, false, some (smallestScope n t), false, false, [], false, false⟩] }

/-- The handler of core `n` faults (R48, R343): a state-transfer handler fails its splice (R142); without a usable fault
core the context is killed; else the handler is abandoned and the fault message sent. -/
def State.handlerFault (s : State) (n cause : Nat) (info : Word) : State :=
  let c := s.core n
  let o := c.own
  match c.handler.bind Handler.transfer with
  | some t =>
    let s := s.report 0x0D 0x0F (some o) 0 n 0
    let s := (s.updCore n Core.idle).boundary n
    s.failSplices t.core t.rings 4 info (BitVec.ofNat 64 cause)
  | none =>
    let fromFault := match c.handler with | some h => h.fromFault | none => false
    if c.faultHandler = 0 || fromFault || !Own.hasCore (s.owner o).entry c.faultCore.toNat then
      (s.killOwner o).report 0x06 cause (some o) 0 n info true
    else
      let s := s.sendFault n cause info c.trapPc
      let s := s.updCore n fun c => match c.handler with | some h => c.freeSlot h | none => c
      (s.updCore n Core.idle).boundary n

/-! ### Taking a trap and returning from one (R277 to R279) -/

/-- The first word of the chain at which core `n` stands (R156). -/
def Core.chainStart (c : Core) : Word := if c.hints = [] then c.pc else c.chainPc

/-- TAKE A TRAP (R277): the trap registers are written; in supervisor mode it is a double trap, which kills the context
(R278); without a supervisor trap entry it is a fault of the handler (R48); else SUP becomes 1 and the core goes on at the
entry. `pc` is the address of the trapping chain's first word. DESIGN CHOICE (log 34): a trap of a state-transfer handler
abandons it, as R142 says, whatever the supervisor trap entry is. -/
def State.takeTrap (s : State) (n : Nat) (cause : BitVec 8) (info pc : Word) : State :=
  let c := s.core n
  let o := c.own
  if c.sup then
    (s.killOwner o).report 0x08 c.supCause.toNat (some o) 0 n (cause.setWidth 64) true
  else
    let entry := Vd.trapEnt (s.vdOf n)
    let s := s.setCore n { c with trapCause := cause, trapInfo := info, trapPc := pc &&& 0x000FFFFFFFFFFFFC,
                                  hold := .none, rangeAt := 0, begun := false, hints := [], pending := none, pushRec := none }
    if entry = 0 || (c.handler.bind Handler.transfer).isSome then s.handlerFault n cause.toNat info
    else s.updCore n fun c => { c with sup := true, supCount := 0, supCause := cause, pc := entry, ahead := [] }

/-- RETURN FROM A TRAP (R279): SUP becomes 0 and the user's s24 to s31 come back; after a watchdog or deadlock trap, or
with `ctl.trappc`.ADDR = 0, the handler faults; else the chain at `ctl.trappc` executes. -/
def State.returnFromTrap (s : State) (n : Nat) : State :=
  let c := s.core n
  let s := s.setCore n { c with sup := false, hints := [], pc := c.trapPc, ahead := [] }
  if c.trapCause = 0x06 || c.trapCause = 0x09 || c.trapPc &&& 0x000FFFFFFFFFFFFC = 0 then
    s.handlerFault n c.trapCause.toNat c.trapInfo
  else s

/-! ### Translation faults (R311, R312) -/

/-- Record a replayable fault of owner `o`: it joins the pending record of its 4 KiB page, or makes one (R312). -/
def State.recordFault (s : State) (o : Nat) (src : FaultSrc) (va : Word) (write empty : Bool) (info : List Word) : State :=
  s.updOwner o fun w =>
    let same (f : FaultRec) : Bool := f.va.toNat / 4096 == va.toNat / 4096
    if w.faults.any same then
      { w with faults := mapFirst same (fun f =>
          { f with waiters := f.waiters.filter (fun x => x.1 != src) ++ [(src, va)] }) w.faults }
    else { w with faults := w.faults ++ [⟨va, write, empty, src, w.faultTag, [(src, va)], false, info⟩],
                       faultTag := w.faultTag + 1 }

/-- The chain of core `n` stalls on a replayable fault and will execute again from its first word (R311). -/
def State.stallFault (s : State) (n : Nat) (va : Word) (write empty : Bool) (fetch : Bool) : State :=
  let c := s.core n
  let at_ := c.chainStart
  let s := (if c.begun then s.unwait n else s).recordFault c.own (if fetch then .fetch n else .data n) va write empty [at_, 0, 0, 0, 0, 0]
  s.updCore n fun c => { c with hold := .fault, rangeAt := 0, begun := false, pc := at_, hints := [] }

/-! ### How an instruction ends -/

/-- What a meaning did: it completed, jumped, stalls (its word issues again), left the handler or the core's own flow, or
raised a trap with its `ctl.trapinfo`. -/
inductive Act where
  | done (s : State)
  | jump (s : State) (t : Word)
  | stall (s : State)
  | left (s : State)
  | trap (s : State) (cause : BitVec 8) (info : Word)

/-- A woken instruction of core `n` that ends in a trap gives up the slot granted to it (R32, R54). -/
def State.giveUp (s : State) (n : Nat) : State := if (s.core n).begun then s.unwait n else s

/-- Take a trap of core `n` at the chain boundary `pc`; a trap already waiting there is taken first, and its `rft` executes
the chain again (R156, R188, R277). -/
def State.raiseTrap (s : State) (n : Nat) (cause : BitVec 8) (info pc : Word) : State :=
  let (cause, info) := (s.core n).pending.getD (cause, info)
  (s.giveUp n).takeTrap n cause info pc

/-- The state after an instruction of core `n` (R156, R277): the next word follows a completed one. -/
def Act.finish (n : Nat) : Act → State
  | .done s => s.updCore n fun c => { c with pc := c.pc + 4, hints := [], begun := false }
  | .jump s t => s.updCore n fun c => { c with pc := t, hints := [], ahead := [], begun := false }
  | .stall s => s
  | .left s => s
  | .trap s cause info => s.raiseTrap n cause info (s.core n).chainStart

end Sys2Proof.Machine
end

