-- ==== Sys2Proof/Machine/Trees.lean ====
section
/-!
DEFINITION. Sum-tree registers (spec/13_sum_trees.md): the Tree functions of R22 computed from the leaves, and the
updates and queries of R255 to R262 as functions of one register.
-/
namespace Sys2Proof.Machine

/-- RAW[i] (R249). -/
def Tree.rawAt (t : Tree) (i : Nat) : BitVec 32 := Store.get 0 i t.raw
/-- RAW[i] ← x, with no entry for 0. -/
def Tree.setRaw (t : Tree) (i : Nat) (x : BitVec 32) : Tree :=
  { t with raw := if x = 0 then Store.del i t.raw else Store.put i x t.raw }
/-- TreeLeaf (R249). -/
def Tree.leaf (t : Tree) (i : Nat) : Nat := if i < t.limit then (t.rawAt i).toNat else 0
/-- TreePrefix: the mass of the leaves below `k` (R22); only listed leaves have mass. -/
def Tree.prefixSum (t : Tree) (k : Nat) : Nat :=
  (t.raw.map fun (i, x) => if i < k ∧ i < t.limit then x.toNat else 0).sum
/-- TreeRoot (R22). -/
def Tree.root (t : Tree) : Nat := t.prefixSum 256
/-- The first index below `n` that satisfies `p`, else `n`. -/
def firstIndex (p : Nat → Bool) (n : Nat) : Nat := ((List.range n).find? p).getD n
/-- TreeFind: the leaf at which the running sum passes `u` (R22). -/
def Tree.findLeaf (t : Tree) (u : Nat) : Nat := firstIndex (fun i => decide (u < t.prefixSum (i + 1))) 256
/-- The update's sequence number (R251). -/
def Tree.step (t : Tree) : Tree := { t with seq := t.seq + 1 }

/-- `wclr` (R255). -/
def Tree.clear (t : Tree) (e : BitVec 8) : Tree := { t with raw := [], limit := 256, exp := e }.step
/-- `wld` (R256): leaves 0 to n − 1 from `xs`, the rest 0. -/
def Tree.load (t : Tree) (xs : List (BitVec 32)) : Tree :=
  let l := (List.range xs.length).filterMap fun i => let x := xs.getD i 0; if x = 0 then none else some (i, x)
  { t with raw := l, limit := 256 }.step
/-- `wldv` (R256): leaves from `f` on. -/
def Tree.loadAt (t : Tree) (f : Nat) (xs : List (BitVec 32)) : Tree :=
  ((List.range xs.length).foldl (fun t i => t.setRaw (f + i) (xs.getD i 0)) t).step
/-- `wset` (R257). -/
def Tree.set (t : Tree) (k : Nat) (v : Nat) : Tree := (t.setRaw k (BitVec.ofNat 32 (min v (2 ^ 32 - 1)))).step
/-- `wadd` (R257). -/
def Tree.add (t : Tree) (k : Nat) (v : Int) : Tree :=
  (t.setRaw k (BitVec.ofNat 32 (max 0 (min ((t.rawAt k).toNat + v) (2 ^ 32 - 1))).toNat)).step
/-- `wexp` (R258): every stored leaf rounded onto the new grid. -/
def Tree.rescale (t : Tree) (e : BitVec 8) (md : Nat → RMode) : Tree :=
  let l := (List.range 256).filterMap fun i =>
    let y := BitVec.ofNat 32 (roundMass e.toInt (.fin ⟨false, (t.rawAt i).toNat, t.exp.toInt, false⟩) (md i))
    if y = 0 then none else some (i, y)
  { t with raw := l, exp := e }.step
/-- `wcut` (R259). -/
def Tree.cut (t : Tree) (f : Nat) : Tree :=
  let r := t.root
  if r = 0 then t.step else
    let goal := max 1 ((f * r + 2 ^ 32 - 1) / 2 ^ 32)
    { t with limit := 1 + firstIndex (fun i => decide (goal ≤ t.prefixSum (i + 1))) (t.limit - 1) }.step
/-- `wuncut` (R259). -/
def Tree.uncut (t : Tree) (l : Nat) : Tree := { t with limit := min l 256 }.step
/-- `wfind` (R261). -/
def Tree.search (t : Tree) (u : BitVec 32) : Nat :=
  let r := t.root
  if r = 0 then 256 else t.findLeaf (u.toNat * r / 2 ^ 32)

/-- Tree `w` of a cluster. -/
def Cluster.tree (c : Cluster) (w : Nat) : Tree := c.trees.getD w Tree.reset
/-- Replace tree `w`. -/
def Cluster.setTree (c : Cluster) (w : Nat) (t : Tree) : Cluster := { c with trees := c.trees.setIfInBounds w t }

/-- The 2,048 bytes of a tree slot as words (R281): RAW, EXP, LIMIT, SEQ, the rest 0. -/
def Tree.slotWords (t : Tree) : List Word :=
  ((List.range 128).map fun i => (t.rawAt (2 * i + 1)) ++ (t.rawAt (2 * i))) ++
    [t.seq ++ BitVec.ofNat 16 t.limit ++ (0#8) ++ t.exp] ++ List.replicate 127 0
/-- The tree a slot holds, its LIMIT clamped to 256 (R281). -/
def Tree.ofSlot (ws : List Word) (tag : Option Nat) : Tree :=
  let w := ws.getD 128 0
  let l := (List.range 256).filterMap fun i =>
    let x : BitVec 32 := (ws.getD (i / 2) 0).extractLsb' (32 * (i % 2)) 32
    if x = 0 then none else some (i, x)
  ⟨l, w.extractLsb' 0 8, min (bitsOf w 31 16) 256, w.extractLsb' 32 32, tag⟩

end Sys2Proof.Machine
end

