-- ==== Sys2Proof/Machine/Perform.lean ====
section
/-!
DEFINITION. The Perform, Forward and fence moves of spec/04_ordering.md R80: an issued access takes its effect, a gathered
load delivers its parts, and poison is detected and consumed (R188, R335 to R339).
-/
namespace Sys2Proof.Machine

/-! ### Poison -/

/-- Detect an uncorrectable error of a line at an access to main memory (R335, R338); `cause` is that of a core's access, or of
a job, steep or rack (R336, R339). -/
def State.detect (s : State) (n : Nat) (a : Access) (cause : Nat := 0x0C) : State :=
  match a.dest with
  | .main img => s.detectLine (a.addr / 128) (img == .c) a.owner a.va n cause
  | _ => s

/-- The record of a consumer of a line poisoned by an earlier detection (R339). -/
def State.consumed (s : State) (n : Nat) (a : Access) (e : BitVec 32) (kill : Bool) : State :=
  s.report 0x03 0x0C (some a.owner) a.va n (e.setWidth 64) kill false (BitVec.ofNat 64 a.addr)
    (struct := s.lineStruct (a.addr / 128) (a.dest == .main .c))

/-- The poison mark an access meets, in main memory only. -/
def State.poisonAt (s : State) (a : Access) : Option (BitVec 32) :=
  match a.dest with
  | .main img => s.poisonOf img (a.addr / 128)
  | _ => none

/-! ### Gathered loads -/

/-- The value of a lane of a gather: its parts, each at its byte offset. -/
def Gather.lane (g : Gather) (i : Nat) : Word :=
  g.parts.foldl (fun (v : Word) p => if p.lane = i then v ||| BitVec.shiftLeft (p.val.getD 0) (8 * p.off) else v) 0

/-- The lanes of a gather, each once. -/
def Gather.lanes (g : Gather) : List Nat := (g.parts.map Part.lane).eraseDups

/-- Extend a loaded value (R189). -/
def extend (z : Nat) (signed : Bool) (v : Word) : Word := if signed then sextN (8 * z) v else zextN (8 * z) v

/-- A trap waits at the instruction at which the core stalled for this load: its chain ends, with no register written, and
the core stands at the chain's first word (R188, R212). -/
def Core.rewind (c : Core) (g : Gather) : Core :=
  if c.hold = Hold.gather g.gid then
    { c with hold := .none, pc := if c.hints = [] then c.pc else c.chainPc, hints := [] }
  else match g.stalls with
    | some at_ => if c.hold = Hold.reply then { c with hold := .none, pc := at_, hints := [] } else c
    | none => c

/-- The core goes on past an instruction at which it stalled for its loads. -/
def Core.release (c : Core) (gid : Nat) : Core :=
  if c.hold = Hold.gather gid then { c with hold := .none, pc := c.pc + 4, hints := [] } else c

/-- The reply message of an asynchronous load (R205). -/
def asyncReply (reply work val ea : Word) (poisoned : Bool) : Rec :=
  mkRec [reply &&& 0x000FFFFFFFFFFFF0, work, if poisoned then 0 else val, ea, reply &&& 0xF,
    if poisoned then 1 else 0, 0, 0]

/-- A gather whose parts have all been performed delivers them (R80, R189, R212, R256, R281, R205); a poisoned one writes
nothing (R188). -/
def State.complete (s : State) (n : Nat) (g : Gather) : State :=
  let s := s.updCore n fun c => { c with gathers := c.gathers.filter fun x => x.gid != g.gid }
  match g.dest, g.poison with
  | .async reply work, p =>
    let r := asyncReply reply work (g.lane 0) g.va p.isSome
    s.updCore n fun c =>
      let c := if p.isSome then { c with poisonReplies := (c.ring 0).tail :: c.poisonReplies } else c
      (c.append 0 r).setResv 0 (c.resv 0 - 1)
  | _, some _ => s
  | .sreg d z signed, none => s.updCore n fun c => c.setSReg d (extend z signed (g.lane 0))
  | .vreg d z, none => s.updCore n fun c =>
      (g.lanes.filter fun i => i < c.lanes).foldl (fun c i => c.setV d i (zextN (8 * z) (g.lane i))) c
  | .tree w k, none =>
    let xs := (List.range k).map fun i => (g.lane i).setWidth 32
    let o := (s.core n).own
    let t := (s.cluster (clusterOf n)).tree w
    match t.tag with
    | some q =>
      if q = o then (s.updCluster (clusterOf n) fun c => c.setTree w (t.load xs)).updCore n fun c => c.release g.gid
      else s.updCore n fun c =>
        { (c.rewind g) with pending := some (0x0B, BitVec.ofNat 64 (q * 256 + w)) }
    | none =>
      (s.updCluster (clusterOf n) fun c => c.setTree w { (t.load xs) with tag := some o }).updCore n fun c =>
        c.release g.gid
  | .tile t o, none =>
    (s.updCluster (clusterOf n) fun c =>
      let c := g.lanes.foldl (fun c i => c.accWrite (t * 4096 + 8 * i) 8 (g.lane i)) c
      { c with tags := Store.put t (.owner o) c.tags }).updCore n fun c => c.release g.gid
  | .treeSlot w o, none =>
    (s.updCluster (clusterOf n) fun c => c.setTree w (Tree.ofSlot ((List.range 256).map g.lane) (some o))).updCore n
      fun c => c.release g.gid

/-- One part of a gather takes its value, or its poison; the first poisoned part leaves one trap to be taken between chains
(R188, R212), and the last part completes the load. -/
def State.deliver (s : State) (n gid idx : Nat) (v : Word) (poison : Option Word) : State :=
  match (s.core n).gathers.find? (fun g => g.gid == gid) with
  | none => s
  | some g =>
    let parts := ((List.range g.parts.length).zip g.parts).map fun ((i, p) : Nat × Part) =>
      if i = idx then { p with val := some v } else p
    let s := match g.dest, g.poison, poison with
      | .async .., _, _ => s
      | _, none, some va => s.updCore n fun c =>
        { (c.rewind g) with pending := some (c.pending.getD (0x0C, va)) }
      | _, _, _ => s
    let g := { g with
      parts := parts
      poison := match g.poison with | some x => some x | none => poison }
    if g.parts.all fun p => p.val.isSome then s.complete n g
    else s.updCore n fun c => { c with gathers := mapFirst (fun x => x.gid == gid) (fun _ => g) c.gathers }

/-! ### Performing one access -/

/-- The access leaves the queues of its core. -/
def Core.unqueue (c : Core) (id : Nat) : Core := { c with pend := c.pend.filter fun b => b.id != id }

/-- The contents and mark that a read of main memory returns: those kept when a write closed the window it had joined (R72), or
the current ones. -/
def State.contents (s : State) (a : Access) (old : Option (List Byte × Option (BitVec 32))) : Word × Option (BitVec 32) :=
  match old with
  | some (data, mark) => (readWord (fun i => data.getD (i % 128) 0) a.addr a.size, mark)
  | none => (s.placeRead a, s.poisonAt a)

/-- A read of main memory passes the caches, and fills its line of C first, unless the access allocates nowhere (R80). -/
def State.readIn (s : State) (n : Nat) (a : Access) : State :=
  let s := s.passCaches n a .read
  if a.dest == .main .c && !a.stream then s.fillLine (a.addr / 128) a.owner a.sup else s

/-- Perform a load part (R80). -/
def State.performLoad (s : State) (n : Nat) (a : Access) (gid idx : Nat)
    (old : Option (List Byte × Option (BitVec 32)) := none) : State :=
  let first := a.detected || s.latent.contains (a.addr / 128)
  let s := (s.updCore n fun c => c.unqueue a.id).detect n a
  let s := { s with merges := s.merges.map fun (m : Merge) => { m with joined := m.joined.filter fun x => x.2 != a.id } }
  let s := s.readIn n a
  let (v, mark) := s.contents a old
  match mark with
  | some e =>
    let s := if first then s else s.consumed n a e false
    s.deliver n gid idx 0 (some a.va)
  | none => s.deliver n gid idx v none

/-! ### Asynchronous loads of saved contexts (R205, R331) -/

/-- A line of a save block of core `n` of owner `o` passes its points and the caches, and an error in it is detected (R127, R331,
R335). DESIGN CHOICE (log 16): the requester is the core. -/
def State.blockLine (s : State) (o n line : Nat) (op : CacheOp) : State :=
  let tier : Tier := if inHbm (128 * line) then .hbm else .cxl
  let s := s.detectLine line true o 0 n 0
  (s.cross o n line (s.memPath (9, n) n o line 1 tier op)).touch n o line 1 tier false op 0

/-- A word of a save block is written in image C under the owner's key (R331). -/
def State.blockWrite {w : Nat} (s : State) (o : Nat) (x : BitVec w) (pa k : Nat) : State :=
  (s.joinOrder (.main .c) o pa k).cWrite o false x pa k

/-- Append a record to the inbox of the saved image of core `n` of owner `o`: the slot's bytes and TAIL (R331, R365). -/
def State.savedAppend (s : State) (o n : Nat) (r : Rec) : State :=
  let base := Own.csBase (s.owner o).entry + n * 0x40000
  let key := s.keyFor o false
  let w (i : Nat) : Word := s.cRead key (base + 0x21000 + 8 * i) 8
  let g := (List.range 8).foldl (fun (g : Ring) i => g.setWord i (w i)) Ring.free
  let s := s.blockLine o n ((base + g.slotAt g.tail) / 128) .write
  let s := (List.range 8).foldl (fun s i => s.blockWrite o (wordAt r i) (base + g.slotAt g.tail + 8 * i) 8) s
  (s.blockLine o n ((base + 0x21000) / 128) .write).blockWrite o ({ g with tail := g.tail + 1 } : Ring).tail (base + 0x21000 + 12) 4

/-- The load of a saved context is performed, and its reply enters the saved inbox in the slot it reserved. -/
def State.lateReply (s : State) (n : Nat) (a : Access) (g : Gather)
    (old : Option (List Byte × Option (BitVec 32)) := none) : State :=
  let done := g.parts.all fun p => p.val.isSome
  let first := a.detected || s.latent.contains (a.addr / 128)
  let s := { s with lateLoads := s.lateLoads.filter fun x => x.2.1.id != a.id }
  let s := if done then s else (s.detect n a).readIn n a
  let (reply, work) : Word × Word := match g.dest with | .async reply work => (reply, work) | _ => (0, 0)
  let (v, mark) : Word × Option (BitVec 32) := if done then (g.lane 0, none) else s.contents a old
  let s := match mark with
    | some e => if first then s else s.consumed n a e false
    | none => s
  let k := a.owner * 2 ^ 16 + n
  let base := Own.csBase (s.owner a.owner).entry + n * 0x40000
  let tail : BitVec 32 := (s.cRead (s.keyFor a.owner false) (base + 0x21000 + 12) 4).setWidth 32
  let s := s.savedAppend a.owner n (asyncReply reply work v a.va mark.isSome)
  match Store.find k s.saved with
  | some x =>
    let p := if mark.isSome then tail :: x.poisonReplies else x.poisonReplies
    { s with saved := Store.put k { x with reserved := x.reserved - 1, poisonReplies := p } s.saved }
  | none => s

/-- It may be performed now (R80, R81): it has passed its points (R127), no load that its context issued before holds it back, and
it waits for no window's fill. -/
def State.lateReady (s : State) (n : Nat) (a : Access) (g : Gather) : Bool :=
  g.parts.all (fun p => p.val.isSome) || (a.path.isEmpty &&
    (s.lateLoads.takeWhile fun x => x.2.1.id != a.id).all (fun x =>
        x.1 != n || x.2.1.owner != a.owner || x.2.2.parts.all (fun p => p.val.isSome) || !blocks n x.2.1 a)
      && !s.merges.any fun m => m.joined.contains (n, a.id))

/-- A load of core `n` from a window is still passing the points on its way (R76, R127). -/
def State.loadCrosses (s : State) (n : Nat) : Bool := s.traffic.any fun x => x.who == n && x.line == noLine

/-- The queued access with a number. -/
def Core.access (c : Core) (id : Nat) : Option Access := c.pend.find? fun b => b.id == id

/-- A load part. -/
def AccOp.isRead : AccOp → Bool
  | .load .. => true
  | _ => false

/-- The access waits for the fill of a read-merge window (R72). -/
def State.joined (s : State) (n id : Nat) : Bool := s.merges.any fun m => m.joined.contains (n, id)

/-- Both are performed at one place, one after the other: atomics at one Kiln unit, or of one line in C (R87, R196). -/
def Access.samePlace (b a : Access) : Bool :=
  b.dest == a.dest && match a.dest with
    | .main .b => pseudoChannel b.addr == pseudoChannel a.addr
    | .main .c => b.addr / 128 == a.addr / 128
    | _ => false

/-- No atomic that reached the place of this one before it is still to be performed (R87, R196). -/
def State.firstThere (s : State) (n : Nat) (a : Access) : Bool :=
  (s.arrivals.takeWhile (· != (n, a.id))).all fun x => match (s.core x.1).access x.2 with
    | some b => !b.samePlace a
    | none => true

/-- What R81 asks of an access that is to be performed: one that has reached its place has met it there. -/
def State.inTurn (s : State) (n : Nat) (a : Access) : Bool :=
  (s.arrivals.contains (n, a.id) || s.mayPerform n ((s.core n).olderThan a.id) a) && (!a.op.isAtomic || s.firstThere n a)

/-- The access may be performed now (R80, R81): it has passed its arbitration points (R127) and waits for no window's fill. -/
def State.performable (s : State) (n : Nat) (a : Access) : Bool :=
  s.inTurn n a && a.path.isEmpty && !s.joined n a.id && (!a.fails || s.wouldFail a)

/-- Compare-and-swaps that would fail, which a younger store to their window passes, count as loads from then on (R81, R194). -/
def State.passOlder (s : State) (n : Nat) (a : Access) : State :=
  let passed (b : Access) : Bool := a.op.isStore && b.sameWindow a && s.wouldFail b
  let ids := (((s.core n).olderThan a.id).filter passed).map Access.id
  if ids.isEmpty then s else s.updCore n fun c =>
    { c with pend := c.pend.map fun b => if ids.contains b.id then { b with fails := true } else b }

/-! ### Read-merge windows (R72) -/

/-- A read of core `n` misses in the L2 slice of its die (R69, R72). -/
def State.missesSlice (s : State) (n : Nat) (a : Access) : Bool :=
  let line := a.addr / 128
  a.dest == .main .c && decide (a.cache ≤ 1) && !(a.cache == 0 && s.hits n a.owner 1 line) && !s.hits n a.owner 2 line

/-- The open window that such a read joins. -/
def State.openMerge (s : State) (n : Nat) (a : Access) : Option Merge :=
  if s.missesSlice n a then
    s.merges.find? fun m => m.die == dieOf n && m.line == a.addr / 128 && m.owner == a.owner && !m.closed
  else none

/-- A load that nothing holds back reaches the slice of its die: on a miss it joins its owner's window there, and goes to
memory no more, or opens one (R72; log 45). -/
def State.joinMerge (s : State) (n : Nat) (a : Access) : State :=
  let line := a.addr / 128
  if !s.missesSlice n a || !s.mayPerform n ((s.core n).olderThan a.id) a then s
  else match s.openMerge n a with
    | some w =>
      { (s.updCore n fun c => { c with pend := mapFirst (fun b => b.id == a.id) (fun (b : Access) => { b with path := [] }) c.pend })
        with merges := mapFirst (fun m => m == w) (fun m => { m with joined := m.joined ++ [(n, a.id)] }) s.merges }
    | none => { s with merges := s.merges ++ [⟨dieOf n, line, a.owner, [(n, a.id)], false, none⟩] }

/-- The returning fill performs every joined read in one move, at one point of the line's order (R72, R84). -/
def State.multicast (s : State) (m : Merge) : State :=
  let s := { s with merges := s.merges.filter (· != m) }
  let s := m.joined.foldl (fun s (n, id) =>
    match (s.core n).access id, s.lateLoads.find? fun x => x.1 == n && x.2.1.id == id with
    | some a, _ => match a.op with
      | .load gid idx => s.performLoad n a gid idx m.old
      | _ => s
    | none, some (_, a, g) => s.lateReply n a g m.old
    | none, none => s) s
  s.fillLine m.line m.owner false

/-- A read that is made in one move with its request, of an engine or a fetch, joins an open window of its owner: the
window's fill returns for all of them now (R72). -/
def State.joinFill (s : State) (n : Nat) (a : Access) : State :=
  match s.openMerge n a with
  | some m => s.multicast m
  | none => s

/-- Write a returned value. -/
def State.giveBack (s : State) (n : Nat) (ret : Option SReg) (v : Word) : State :=
  match ret with
  | some r => s.updCore n fun c => c.setSReg r v
  | none => s

/-- CAUSE of R44 for a parked full/empty form. -/
def feCause (op : FeOp) : Nat := if op = .stef then 2 else 1

/-- A blocked episode begins (R43, R44). -/
def Blocked.start (cause ring core : Nat) (ret : Option SReg) : Blocked := ⟨1, cause, ring, core, 0, false, 0, none, ret⟩

/-- A remote full/empty request reaches its port (R193): it is performed, or it parks and its issuer blocks. -/
def State.performFe (s : State) (n t : Nat) (a : Access) (op : FeOp) (data : Word) (ret : Option SReg) : State :=
  let s := s.updCore n fun c => c.unqueue a.id
  let holds := (s.core n).hold == .fe a.id
  match (s.core t).feTry op a.addr a.size data with
  | some (v, c) =>
    let s := (((s.setCore t c).joinStore a).fePort t).giveBack n ret v
    if holds then s.updCore n fun c => { c with hold := .reply, pc := c.pc + 4, hints := [] } else s
  | none =>
    let s := s.updCore t fun c => { c with parked := c.parked ++ [⟨n, op, a.addr, a.size, data, ret⟩] }
    s.updCore n fun c => { c with hold := .blocked (Blocked.start (feCause op) 0 0 ret) }

/-- Perform any queued access but a fence (R80). Poison stops an atomic: one with return traps, one without kills its
context (R188, R339). -/
def State.perform (s : State) (n : Nat) (a : Access) : State :=
  let s := s.passOlder n a
  match a.op with
  | .load gid idx => s.performLoad n a gid idx
  | .fe op data ret =>
    match a.dest with
    | .plate t => s.performFe n t a op data ret
    | _ => s.updCore n fun c => c.unqueue a.id
  | .atom op x e ret =>
    let first := a.detected || s.latent.contains (a.addr / 128)
    let s := { s with arrivals := s.arrivals.erase (n, a.id) }
    let s := (s.updCore n fun c => c.unqueue a.id).detect n a
    match s.poisonAt a with
    | some mark =>
      match ret with
      | some _ =>
        let s := if first then s else s.consumed n a mark false
        s.updCore n fun c => { c with pending := some (c.pending.getD (0x0C, a.va)) }
      | none => (s.killOwner a.owner).consumed n a mark true
    | none =>
      let (v, s) := s.applyAccess n { a with op := .atom op x e ret }
      s.giveBack n ret v
  | .dec d work ret =>
    let (v, s) := (s.updCore n fun c => c.unqueue a.id).applyAccess n { a with op := .dec d work ret }
    s.giveBack n ret v
  | _ => ((s.updCore n fun c => c.unqueue a.id).applyAccess n a).2

/-- Every byte of a load part is written by one older store that has not been performed, and no other row holds the load
back (R80 Forward, R81 row 1). -/
def State.forwardable (s : State) (n : Nat) (a b : Access) : Bool :=
  match a.op, b.op with
  | .load .., .store _ =>
    let c := s.core n
    a.dest == b.dest && decide (b.addr ≤ a.addr) && decide (a.addr + a.size ≤ b.addr + b.size) &&
      (c.olderThan a.id).any (fun x => x.id == b.id) &&
      s.mayPerform n ((c.olderThan a.id).filter fun x => x.id != b.id) a &&
      !(b.kind == .s && a.kind == .s)
  | _, _ => false

/-- Forward (R80): the load returns the store's data and counts as performed. -/
def State.forward (s : State) (n : Nat) (a b : Access) : State :=
  match a.op, b.op with
  | .load gid idx, .store x =>
    let s := s.updCore n fun c => c.unqueue a.id
    s.deliver n gid idx (zextN (8 * a.size) (x >>> (8 * (a.addr - b.addr)))) none
  | _, _ => s

end Sys2Proof.Machine
end

