-- ==== Sys2Proof/Machine/Tiles.lean ====
section
/-!
DEFINITION. Tile table commands (spec/03_memory_spaces.md R65 to R68), accumulator tags and uses (spec/12_matrix_copy_jobs.md
R238) and tree uses (spec/13_sum_trees.md R250).
-/
namespace Sys2Proof.Machine

/-! ### Tile table -/

/-- What a tile-table store does: it traps, or the core afterwards with a flag that the tile's bytes are undefined. -/
inductive TileRes where
  | trap (cause : BitVec 8) (info : Word)
  | ok (c : Core) (spoil : Bool)

/-- Store to word 0 of entry `t` (R66); `ea` is the store's address. -/
def Core.tileConfig (c : Core) (t : Nat) (v ea : Word) : TileRes :=
  let x := c.tile t
  let base : BitVec 10 := v.extractLsb' 7 10
  let len : BitVec 10 := v.extractLsb' 32 10
  if x.state = .filling || x.state = .draining then .trap 0x08 (BitVec.ofNat 64 t)
  else if 0x20000 < base.toNat * 128 + (len.toNat + 1) * 128 then .trap 0x07 ea
  else .ok { c.setTile t { x with base := base, lenm1 := len, state := .empty, prog := 0 } with
    flights := c.flights.map fun f => if f.tile = t then { f with counts := false } else f } false

/-- The release command (R67). `fly`: a unit is in flight: that of a fill is counted at once, since the tile's bytes are
undefined; that of a drain is counted when its bytes are in memory. -/
def Core.tileRelease (c : Core) (t : Nat) (fly : Bool) : TileRes :=
  let x := c.tile t
  match x.state with
  | .empty => .ok c false
  | .filling =>
    .ok { c.setTile t { x with state := .empty, prog := if fly then x.prog + 1 else x.prog } with
      spoilt := c.spoilt.filter fun y => y.1 != t } true
  | .ready => .ok (c.setTile t { x with state := .empty }) false
  | .draining =>
    .ok { c.setTile t { x with state := .empty } with
      flights := c.flights ++ match fly, Store.find x.agent.toNat c.agents with
        | true, some a => [⟨t, x.agent.toNat, a, x.prog.toNat, x.start, true⟩]
        | _, _ => [] } false

/-- The publish command (R67). -/
def Core.tilePublish (c : Core) (t : Nat) : TileRes :=
  let x := c.tile t
  match x.state with
  | .empty =>
    if x.agent = 0 || 0x80 ≤ x.agent then .ok (c.setTile t { x with state := .ready, seq := x.seq + 1 }) false
    else .trap 0x08 (BitVec.ofNat 64 t)
  | .ready => .ok c false
  | .filling | .draining => .trap 0x08 (BitVec.ofNat 64 t)

/-- A store at a tile-table offset of the own window (R66), in a state where a unit is in flight as `fly` says. -/
def Core.tileStore (c : Core) (off : Nat) (v ea : Word) (fly : Bool) : TileRes :=
  let t := (off - 0x21000) / 16
  if off % 16 = 0 then c.tileConfig t v ea
  else match bitsOf v 2 0 with
    | 1 => c.tileRelease t fly
    | 2 => c.tilePublish t
    | _ => .ok c false

/-- Bytes of the plate become undefined (R65, R67; log 6). -/
def State.spoilBytes (s : State) (n a len : Nat) : State :=
  let k := s.freeCtr
  { (s.updCore n fun c => (List.range len).foldl (fun c i => c.plateWrite (a + i) 1 (Config.freeByte (k + i))) c) with
    freeCtr := k + len }

/-- Apply a tile-table store of core `n`. -/
def State.applyTile (s : State) (n t : Nat) (c : Core) (spoil : Bool) : State :=
  let s := s.setCore n c
  if spoil then s.spoilBytes n (c.tile t).start (c.tile t).bytes else s

/-! ### Accumulator tiles -/

/-- The tag of an accumulator tile (R238). -/
def Cluster.tag (c : Cluster) (a : Nat) : Tag := Store.get .none a c.tags

/-- The window interval of accumulator tile `a` of cluster `g` (R61). -/
def accInterval (g a : Nat) : Nat × Nat :=
  let b := 0x000E800000000000 + g * 2 ^ 24 + a * 4096
  (b, b + 4096)

/-- Two intervals share a byte. -/
def meets (x y : Nat × Nat) : Bool := decide (x.1 < y.2) && decide (y.1 < x.2)

/-- A job of owner `q` in STATE 1, 2 or 3 names the tile as accumulator or drain (HELD, R238). -/
def Cluster.held (c : Cluster) (g a q : Nat) : Bool :=
  c.jobs.toList.any fun j =>
    match j with
    | some x => x.owner == q && (x.state == .queued || x.state == .running || x.state == .suspended)
        && x.writes.any (meets (accInterval g a))
    | none => false

/-- Check a use of accumulator tile `a` of cluster `g` by core `n` (R238): the trap, or `none`. -/
def State.accUse (s : State) (n g a : Nat) : Option (BitVec 8 × Word) :=
  let c := s.core n
  let x := s.cluster g
  if c.sup then (if a < 120 then some (0x05, BitVec.ofNat 64 a) else none)
  else if 120 ≤ a then some (0x05, BitVec.ofNat 64 a)
  else match x.tag a with
    | .owner q => if q = c.own then none else
        some (0x0A, BitVec.ofNat 64 (b2n (x.held g a q) * 2 ^ 16 + q * 2 ^ 8 + a))
    | _ => none

/-- The tag a completed use leaves (R238). -/
def State.takeAcc (s : State) (n g a : Nat) : State :=
  let c := s.core n
  s.updCluster g fun x =>
    if c.sup then { x with tags := Store.put a .sup x.tags }
    else if x.tag a = .none then { x with tags := Store.put a (.owner c.own) x.tags } else x

/-! ### Trees -/

/-- Check a use of tree `w` by core `n` (R250). -/
def State.treeUse (s : State) (n w : Nat) : Option (BitVec 8 × Word) :=
  let c := s.core n
  if c.sup then some (0x05, BitVec.ofNat 64 w)
  else match ((s.cluster (clusterOf n)).tree w).tag with
    | some q => if q = c.own then none else some (0x0B, BitVec.ofNat 64 (q * 256 + w))
    | none => none

end Sys2Proof.Machine
end

