-- ==== Sys2Proof/Machine/Operands.lean ====
section
/-!
DEFINITION. Operand forms: guards (R13), hints (R152 to R155), effective addresses with the checks of
spec/10_memory_sync_messages.md R188, and the issue of loads and stores (R80, R189, R212).
-/
namespace Sys2Proof.Machine

/-- What every meaning answers. -/
abbrev Outcome := Host.Outcome State Fault Refusal

/-! ### Guards -/

/-- The guard lets lane `i` execute (R13). -/
def Core.lane (c : Core) (gd : Guard) (i : Nat) : Bool :=
  match gd with
  | .none => true
  | .pos g => bitOf (c.p g.toNat) i
  | .neg g => !bitOf (c.p g.toNat) i

/-- A scalar guard tests lane bit 0 (R13). -/
def Core.on (c : Core) (gd : Guard) : Bool := c.lane gd 0

/-- The executing lanes below Lanes, in increasing order (R207). -/
def Core.execLanes (c : Core) (gd : Guard) : List Nat := (List.range c.lanes).filter (c.lane gd)

/-- Run an encoded instruction on the issuing core: a guarded-off scalar instruction does nothing (R13). -/
def scalarOp (gd : Guard) (s : State) (f : State → Nat → Act) : Outcome :=
  .next ((if (s.core s.cur).on gd then f s s.cur else .done s).finish s.cur)

/-- Run a lane-guarded instruction on the issuing core. -/
def laneOp (s : State) (f : State → Nat → Act) : Outcome := .next ((f s s.cur).finish s.cur)

/-- The instruction only changes registers of its core. -/
def regOp (gd : Guard) (s : State) (f : Core → Core) : Outcome :=
  scalarOp gd s fun s n => .done (s.updCore n f)

/-- A privileged instruction (R171 step 6): in user mode trap 0x02, whatever its guard. -/
def privOp (i : Instr) (gd : Guard) (s : State) (f : State → Nat → Act) : Outcome :=
  if (s.core s.cur).sup then scalarOp gd s f
  else .next ((Act.trap s 0x02 (illegalInfo 7 (encodeWord i))).finish s.cur)

/-! ### Hints -/

/-- The payload of a hint of the chain. -/
def Core.hint (c : Core) (k : Nat) : Option (BitVec 16) := hintOf k c.hints

/-- A sign-extended immediate with its IMMX extension (R15, R152). -/
def Core.immS {w : Nat} (c : Core) (x : BitVec w) : Word :=
  match c.hint 0 with
  | some p => (p ++ x).signExtend 64
  | none => x.signExtend 64

/-- A zero-extended immediate with its IMMX extension. -/
def Core.immZ {w : Nat} (c : Core) (x : BitVec w) : Word :=
  match c.hint 0 with
  | some p => (p ++ x).setWidth 64
  | none => x.setWidth 64

/-- The mode code in force (R100). -/
def Core.modeCode (c : Core) : Nat :=
  match c.hint 1 with
  | some p => p.toNat % 8
  | none => c.round

/-- `.stream` on the access (R153). -/
def Core.streams (c : Core) : Bool := c.hint 2 == some 2

/-- The element type code of the ETYPE hint, `d` without one (R153). -/
def Core.typeCode (c : Core) (d : Nat) : Nat :=
  match c.hint 4 with
  | some p => p.toNat % 16
  | none => d

/-- The fmt register of the ETYPE hint. -/
def Core.typeFmt (c : Core) : Nat :=
  match c.hint 4 with
  | some p => p.toNat / 16 % 8
  | none => 0

/-! ### User streams (R101, R113) -/

/-- One draw of the owner's user streams at the core's index. -/
def State.userDraw (s : State) (n : Nat) (c0 : Nat) (domain : BitVec 32) : Quad :=
  let c := s.core n
  stipple (s.owner c.own).seedUser (BitVec.ofNat 32 c0) (c.userIndex.extractLsb' 0 32) (c.userIndex.extractLsb' 32 32)
    domain

/-- The rounding mode of element `j`, with the word a stochastic rounding draws (R101). -/
def State.modeAt (s : State) (n j : Nat) : RMode :=
  let m := (s.core n).modeCode
  .ofCode m (if m = 5 then (s.userDraw n (j / 4) 0x11).word j else 0)

/-- `ctl.user.index` + 1. -/
def Core.advanceIndex (c : Core) : Core := { c with userIndex := c.userIndex + 1 }

/-- An instruction that rounded `used` elements under SR advances the index (R101). -/
def Core.srAdvance (c : Core) (used : Bool) : Core := if used && c.modeCode = 5 then c.advanceIndex else c

/-! ### Effective addresses (R56, R188) -/

/-- A space of R56. -/
inductive Place where
  | plate (t off : Nat)
  | cluster (g off : Nat)
  | main (va : Nat)
  deriving DecidableEq, Repr

/-- The space of an address, `none` where nothing lies (R56, R57). -/
def placeOf (ea : Word) : Option Place :=
  let a := ea.toNat
  if a < 0x000E000000000000 then some (.main a)
  else if a < 0x000E000080000000 then some (.plate ((a - 0x000E000000000000) / 2 ^ 20) (a % 2 ^ 20))
  else if 0x000E800000000000 ≤ a ∧ a < 0x000E800100000000 then
    some (.cluster ((a - 0x000E800000000000) / 2 ^ 24) (a % 2 ^ 24))
  else none

/-- The instruction groups of R188. -/
inductive Form where
  | plain | fe | atom | dec | range | async
  deriving DecidableEq, Repr

/-- An element that has passed the checks. -/
structure Elem where
  lane : Nat
  dest : Dest
  addr : Nat
  size : Nat
  va : Word
  leaf : Word
  deriving DecidableEq, Repr

/-- What the checks of R188 give. -/
inductive Chk where
  | ok (s : State) (e : Elem)
  | no (a : Act)

/-- log2 of the page that holds an address, when its translation is there to tell (R79). -/
def State.pageShift (s : State) (k : Walker) (o : Nat) (sup : Bool) (va : Nat) : Option Nat :=
  match s.cached k o sup va with
  | some t => some t.shift
  | none =>
    match s.walk o sup va with
    | .leaf _ shift _ => some shift
    | _ => none

/-- A translation of core `n` continued: traps, replayed faults and share breaks in progress end the instruction
(R309, R311, R313). -/
def State.xlate (s : State) (n : Nat) (va : Word) (r w x : Bool) (k : State → Nat → Word → Chk) : Chk :=
  let c := s.core n
  match s.translate (.core n) c.own c.sup va.toNat r w x with
  | (s, .ok pa leaf) => k s pa leaf
  | (s, .trap) => .no (.trap s 0x05 va)
  | (s, .fault e) => .no (.left (s.stallFault n va w e x))
  | (s, .busy) => .no (.stall s)

/-- Whether a plate-window offset is populated for the group (R59, R60). -/
def plateOk (form : Form) (off : Nat) : Bool :=
  decide (off < 0x20000) ||
    ((form == .plain || form == .async) &&
      (decide (0x20000 ≤ off ∧ off < 0x20400) || decide (0x21000 ≤ off ∧ off < 0x21200)))

/-- Steps 1 to 6 of R188 for one element of `z` bytes: `aligned` asks for natural alignment in every space, `r` and `w`
are the permissions needed. DESIGN CHOICE (log 59): a privileged store of another size than 8 bytes to the ring descriptors
is misaligned (0x03) like a load of that size, the spec giving the cause for loads only (R64). -/
def State.check (s : State) (n : Nat) (form : Form) (lane : Nat) (ea : Word) (z : Nat) (aligned r w : Bool) : Chk :=
  let c := s.core n
  let trap (cause : BitVec 8) : Chk := .no (.trap s cause ea)
  match placeOf ea with
  | none => trap 0x05
  | some (.plate t off) =>
    if !(t == n || s.mayPlate n t) then trap 0x05
    else if form == .range then trap 0x05
    else if w && form == .plain && decide (0x20000 ≤ off ∧ off < 0x20400) && !c.sup then trap 0x05
    else if (form == .plain || form == .async) && decide (0x21000 ≤ off ∧ off < 0x21200) && t != n then trap 0x05
    else if off % z ≠ 0 then trap 0x03
    else if (form == .plain || form == .async) && z != 8 &&
        (decide (0x20000 ≤ off ∧ off < 0x20400) || decide (0x21000 ≤ off ∧ off < 0x21200)) then trap 0x03
    else if form == .dec && off % 16 != 0 then trap 0x03
    else if !plateOk form off then trap 0x07
    else .ok s ⟨lane, .plate t, off, z, ea, 0⟩
  | some (.cluster g off) =>
    if !s.mayCluster n g then trap 0x05
    else match form with
      | .fe => trap 0x07
      | .atom | .dec | .range => trap 0x05
      | .plain | .async =>
        if (z != 4 && z != 8) || off % z != 0 then trap 0x03
        else if 0x80000 ≤ off then trap 0x07
        else match s.accUse n g (off / 4096) with
          | some (cause, info) => .no (.trap s cause info)
          | none => .ok s ⟨lane, .cluster g, off, z, ea, 0⟩
  | some (.main va) =>
    if form == .fe then trap 0x07
    else if form == .dec then trap 0x05
    else if aligned && ea.toNat % z != 0 then trap 0x03
    else if form != .range && (match s.pageShift (.core n) c.own c.sup va with
        | some sh => decide (2 ^ sh < va % 2 ^ sh + z)
        | none => false) then trap 0x03
    else s.xlate n ea r w false fun s pa leaf =>
      if form == .atom && Leaf.image leaf == .b && Leaf.tierOf leaf == .cxl then .no (.trap s 0x05 ea)
      else .ok s ⟨lane, .main (Leaf.image leaf), pa, z, ea, leaf⟩

/-- The checks of every element, in order; the first that fails decides (R212). -/
def State.checkAll (s : State) (n : Nat) (form : Form) (z : Nat) (aligned r w : Bool) :
    List (Nat × Word) → List Elem → Except Act (State × List Elem)
  | [], acc => .ok (s, acc.reverse)
  | (i, ea) :: rest, acc =>
    match s.check n form i ea z aligned r w with
    | .ok s e => s.checkAll n form z aligned r w rest (e :: acc)
    | .no a => .error a

/-! ### Issuing accesses (R80, R189) -/

/-- The access of core `n` for an element, with the arbitration points it is to pass (R123, R127): those of memory, or the
plate port of another core. -/
def State.accessOf (s : State) (n id : Nat) (op : AccOp) (e : Elem) (addr size : Nat) (acq : Bool) (rel : Option Nat) :
    Access :=
  let c := s.core n
  let main := match e.dest with | .main _ => true | _ => false
  let path := match e.dest with
    | .main _ => s.memPath (9, n) n c.own (addr / 128) (Leaf.cache e.leaf) (Leaf.tierOf e.leaf) op.cacheOp
    | .plate t => if t = n then [] else linked (9, n) [(9, t)]
    | .cluster g => if g = clusterOf n then [] else linkPoints (9, n) (5, g)
  { id := id, op := op, dest := e.dest, addr := addr, size := size, va := e.va
    kind := if main then Leaf.kind e.leaf else .rc
    tier := if main then Leaf.tierOf e.leaf else .hbm
    stream := c.streams, cache := if main then Leaf.cache e.leaf else 0, owner := c.own, sup := c.sup
    acq := acq, rel := rel, detected := false, late := false, path := path, entered := false, fails := false }

/-- The pieces of an element: one, or one a byte for an unaligned main-memory access (R79). -/
def Elem.pieces (e : Elem) : List (Nat × Nat) :=
  match e.dest with
  | .main _ => if e.addr % e.size = 0 then [(0, e.size)] else (List.range e.size).map fun i => (i, 1)
  | _ => [(0, e.size)]

/-- The element is performed when it issues as a load: windows and plates (R79). -/
def Elem.atIssue (e : Elem) : Bool := match e.dest with | .main _ => false | _ => true

/-- The element lies in the own plate window of core `n`. -/
def Elem.own (e : Elem) (n : Nat) : Bool := e.dest == .plate n

/-- Portions an element list adds to `ctl.usc`, against the limit of 4,095 (R74). -/
def State.uscRoom (s : State) (n : Nat) (es : List Elem) : Bool :=
  let ps := es.flatMap fun e =>
    match portionOf n e.dest (if e.atIssue then .hbm else Leaf.tierOf e.leaf) with
    | some p => e.pieces.map fun _ => p
    | none => []
  ps.all fun p => decide (s.uscCount n p + (ps.filter (· == p)).length ≤ 4095)

/-- Whether every load element performed at issue meets the condition of Perform (R80). -/
def State.loadReady (s : State) (n : Nat) (es : List Elem) (acq : Bool) : Bool :=
  es.all fun e => !e.atIssue || s.mayPerform n (s.core n).pend (s.accessOf n 0 (.load 0 0) e e.addr e.size acq none)

/-- The tags that window elements take (R61, R238). -/
def State.takeTags (s : State) (n : Nat) (es : List Elem) : State :=
  es.foldl (fun s e => match e.dest with | .cluster g => s.takeAcc n g (e.addr / 4096) | _ => s) s

/-- Issue the loads of an instruction: plate and window elements are read now, main-memory elements join the load queue
(R80). A remote window element leaves the core stalled until the reply (R76); `stay` keeps it at the instruction until the
last load is performed (R88, R284). -/
def State.issueLoads (s : State) (n : Nat) (dst : GDest) (es : List Elem) (va : Word) (acq stay : Bool) : Act :=
  if !s.loadReady n es acq then .stall s else
  let s := s.takeTags n es
  let (gid, s) := s.newId
  let step (x : State × List Part) (e : Elem) : State × List Part :=
    let (s, parts) := x
    if e.atIssue then
      let a := s.accessOf n 0 (.load 0 0) e e.addr e.size acq none
      (s.cross a.owner n noLine a.path, parts ++ [⟨e.lane, 0, e.size, some (s.placeRead a)⟩])
    else
      e.pieces.foldl (fun (s, parts) (o, z) =>
        let (id, s) := s.newId
        let a := s.accessOf n id (.load gid parts.length) e (e.addr + o) z acq none
        let s := s.updCore n fun c => { c with pend := c.pend ++ [a] }
        (s.joinMerge n a, parts ++ [⟨e.lane, o, z, none⟩])) (s, parts)
  let (s, parts) := es.foldl step (s, [])
  let remote := es.any fun e => e.atIssue && !e.own n
  let g : Gather := ⟨gid, dst, parts, va, none, if remote && !stay then some (s.core n).chainStart else none⟩
  if es.all Elem.atIssue then
    let s := s.complete n g
    if remote then .left (s.updCore n fun c => { c with hold := .reply, pc := c.pc + 4, hints := [] }) else .done s
  else
    let s := s.updCore n fun c => { c with gathers := c.gathers ++ [g] }
    if stay then .left (s.updCore n fun c => { c with hold := .gather gid })
    else if remote then .left (s.updCore n fun c => { c with hold := .reply, pc := c.pc + 4, hints := [] })
    else .done s

/-- Store one element that is performed at issue: the own plate (R79), with the tile table's rules (R66). -/
def State.storeOwn (s : State) (n : Nat) (e : Elem) (x : Word) (rel : Option Nat) : Except (BitVec 8 × Word) State :=
  if 0x21000 ≤ e.addr then
    match (s.core n).tileStore e.addr x e.va (Config.unitInFlight s.moves) with
    | .trap cause info => .error (cause, info)
    | .ok c spoil => .ok (s.applyTile n ((e.addr - 0x21000) / 16) c spoil)
  else .ok (s.applyAccess n (s.accessOf n 0 (.store x) e e.addr e.size false rel)).2

/-- Issue the stores of an instruction, in order: the own plate now, every other store into its queue (R73, R80). -/
def State.storeList (s : State) (n : Nat) (rel : Option Nat) : List (Elem × Word) → Except (BitVec 8 × Word) State
  | [] => .ok s
  | (e, x) :: rest =>
    if e.own n then
      match s.storeOwn n e x rel with
      | .ok s => s.storeList n rel rest
      | .error t => .error t
    else
      (e.pieces.foldl (fun s (o, z) =>
        let (id, s) := s.newId
        let a := s.accessOf n id (.store (x >>> (8 * o))) e (e.addr + o) z false rel
        s.updCore n fun c => { c with pend := c.pend ++ [a] }) s).storeList n rel rest

/-- Whether every own-plate store of an instruction meets the condition of Perform. -/
def State.storeReady (s : State) (n : Nat) (es : List Elem) (rel : Option Nat) : Bool :=
  es.all fun e => !e.own n || s.mayPerform n (s.core n).pend (s.accessOf n 0 (.store 0) e e.addr e.size false rel)

/-- Issue the stores of an instruction. -/
def State.issueStores (s : State) (n : Nat) (l : List (Elem × Word)) (rel : Option Nat) : Act :=
  let es := l.map Prod.fst
  if !s.storeReady n es rel || !s.uscRoom n es then .stall s else
  match (s.takeTags n es).storeList n rel l with
  | .ok s => .done s
  | .error (cause, info) => .trap s cause info

end Sys2Proof.Machine
end

