-- ==== Sys2Proof/Machine/Lottery.lean ====
section
/-!
DEFINITION. The slot lotteries (spec/06_owner_draws.md R123 to R125): configured owners, the Pick of R124, the share of R125,
limiters (R324), the exceedance report (R131), the queues of the points (R124), and the slots of a plate port that a
request draws until it is granted (R32, R127).
-/
namespace Sys2Proof.Machine

/-- Owner ids in increasing order, each once. -/
def idsOf (l : List Nat) : List Nat := (List.range 256).filter l.contains

/-- The owners drawn at a point of class `k` and instance `i` (R123). -/
def State.configured (s : State) (k i : Nat) : List Nat :=
  if k = 5 then idsOf (s.clusterOwners i)
  else if k = 6 then idsOf (s.clusterOwners (if i < 256 then i else (i - 256) / 2))
  else if k = 9 then idsOf (s.clusterOwners (i / 8))
  else (s.owners.filter fun (_, w) => Own.valid w.entryPts).map Prod.fst

/-- Tickets of owner `o` in class `k`. -/
def State.tickets (s : State) (k o : Nat) : Nat := Own.tick (s.owner o).entryPts k

/-- The member of the list whose ticket interval holds `x`. -/
def pickAt (t : Nat → Nat) (x : Nat) : List Nat → Option Nat
  | [] => none
  | o :: l => if x < t o then some o else pickAt t (x - t o) l

/-- Pick(S, u) (R124). -/
def pick (t : Nat → Nat) (l : List Nat) (u : BitVec 32) : Option Nat :=
  let total := (l.map t).sum
  if total = 0 then l[choose u l.length]? else pickAt t (choose u total) l

/-- The number of 32-bit words u with ⌊u × n / 2^32⌋ below `x`. -/
def wordsBelow (n x : Nat) : Nat := (x * 2 ^ 32 + n - 1) / n

/-- The share ŝ of owner `o` among `l` (R125). -/
def share (t : Nat → Nat) (l : List Nat) (o : Nat) : Nat :=
  let before := l.takeWhile (· != o)
  let total := (l.map t).sum
  let n := if !l.contains o then 0
    else if total = 0 then wordsBelow l.length (before.length + 1) - wordsBelow l.length before.length
    else wordsBelow total ((before.map t).sum + t o) - wordsBelow total (before.map t).sum
  min (n / 2 ^ 16) 0xFFFF

/-- Slot length of a class in cycles of its island (R123). -/
def slotLength (k : Nat) : Nat := if k = 1 ∨ k = 2 then 2 else if k = 4 then 16 else 1

/-- ISLAND of R131 for core `n`. -/
def nearIsland (k n : Nat) : Nat :=
  if k ≤ 1 then 32 + dieOf n else if k ≤ 4 then 36 + 2 * dieOf n
  else if k = 7 then 46 else if k = 8 then 47 else islandOf n

/-- The counters of an owner in a class. -/
def Owner.counters (w : Owner) (k : Nat) : Exceed := Store.get ⟨[], 0, 0⟩ k w.exceed

/-- The instance of a class that a core's own SHARE is drawn at. -/
def nearInstance (k n : Nat) : Nat := if k = 9 then n else clusterOf n

/-- The counters of R131 of class `k` as ten words: BIN0 to BIN15 in pairs, SELF and GRANTS. -/
def Owner.counterWords (w : Owner) (k : Nat) : List Word :=
  let x := w.counters k
  let bin (b : Nat) : Nat := min (Store.get 0 b x.bins) (2 ^ 32 - 1)
  (List.range 8).map (fun i => BitVec.ofNat 64 (bin (2 * i) + bin (2 * i + 1) * 2 ^ 32))
    ++ [BitVec.ofNat 64 (min x.self (2 ^ 64 - 1)), BitVec.ofNat 64 (min x.grants (2 ^ 64 - 1))]

/-- The sixteen words of the report of class `k` for core `n` (R131). -/
def State.report10 (s : State) (n k : Nat) : List Word :=
  let o := (s.core n).own
  let sh := share (s.tickets k) (s.configured k (nearInstance k n)) o
  [BitVec.ofNat 64 (sh + slotLength k * 2 ^ 16 + nearIsland k n * 2 ^ 32 + k * 2 ^ 40)]
    ++ (s.owner o).counterWords k ++ List.replicate 5 0

/-- The bin of a wait of `w` slots (R131). -/
def waitBin (w : Nat) : Nat := firstIndex (fun b => decide (w < 2 ^ (b + 1) - 1)) 15

/-! ### One slot of a point (R124, R125) -/

/-- The key of a point in the tables of points and limiters. -/
def pointId (k i : Nat) : Nat := k * 2 ^ 32 + i
/-- Point `i` of class `k`. -/
def State.point (s : State) (k i : Nat) : Point := Store.get ⟨0, 0, false, []⟩ (pointId k i) s.points
/-- Replace a point. -/
def State.setPoint (s : State) (k i : Nat) (p : Point) : State := { s with points := Store.put (pointId k i) p s.points }

/-- The slot counter after a slot (R124). -/
def Point.next (p : Point) : Point :=
  { p with slot := p.slot + 1, slotEpoch := if p.slot = 0xFFFFFFFF then p.slotEpoch + 1 else p.slotEpoch }

/-- The within-owner key of owner `o` at a point: the arbitration seed in use there ⊕ the salt (R114, R115). -/
def State.arbKey (s : State) (k i o : Nat) : Key128 :=
  Store.get 0 (pointId k i) (s.owner o).arbInUse ^^^ (s.func (s.funcOf o)).salt

/-- Count a grant after `w` slots (R131). -/
def Exceed.grant (x : Exceed) (w : Nat) : Exceed :=
  { x with bins := Store.put (waitBin w) (Store.get 0 (waitBin w) x.bins + 1) x.bins, grants := x.grants + 1 }

/-- Change the counters of an owner in a class. -/
def State.updExceed (s : State) (o k : Nat) (f : Exceed → Exceed) : State :=
  s.updOwner o fun w => { w with exceed := Store.put k (f (w.counters k)) w.exceed }

/-- The present requester the slot grants (R124): requests are (owner, requester) pairs. A sole present requester wins
whatever is drawn. -/
def State.drawSlot (s : State) (k i : Nat) (reqs : List (Nat × Nat)) : Option (Nat × Nat) :=
  match reqs with
  | [x] => some x
  | _ =>
  let p := s.point k i
  let id := BitVec.ofNat 32 (k * 2 ^ 24 + i)
  let q := stipple (Config.pointKey s.boot.resets) id p.slot p.slotEpoch 2
  let present := idsOf (reqs.map Prod.fst)
  let first := pick (s.tickets k) (s.configured k i) q.x0
  let w := match first with
    | some o => if present.contains o then some o else pick (s.tickets k) present q.x1
    | none => pick (s.tickets k) present q.x1
  match w with
  | none => none
  | some o =>
    let l := ((reqs.filter fun x => x.1 == o).map Prod.snd).mergeSort
    let r := stipple (s.arbKey k i o) id p.slot p.slotEpoch 2
    (l[choose r.x0 l.length]?).map fun x => (o, x)

/-- One slot of a point with the present requests `reqs`, and `held` the owners with a request that are not present
(R124, R125, R131): the grant, and the state with the counters of the slot. -/
def State.lotterySlot (s : State) (k i : Nat) (reqs : List (Nat × Nat)) (held : List Nat) : Option (Nat × Nat) × State :=
  let p := s.point k i
  let won := s.drawSlot k i reqs
  let present := idsOf (reqs.map Prod.fst)
  let winner := won.map Prod.fst
  let waits := present.foldl (fun (l : Store Nat) o =>
    if winner = some o then Store.del o l else Store.put o (Store.get 0 o l + 1) l) p.waits
  let s := s.setPoint k i { p.next with waits := waits }
  let s := held.foldl (fun s o => s.updExceed o k fun x => { x with self := x.self + 1 }) s
  match winner with
  | some o => (won, s.updExceed o k fun x => x.grant (Store.get 0 o p.waits))
  | none => (none, s)

/-! ### The queues of the points (R123, R124) -/

/-- Reserved entries per owner (R123). -/
def reservedEntries (k : Nat) : Nat := if k = 4 ∨ k = 6 then 4 else if k = 5 then 1 else 2

/-- A request of owner `o` may enter a queue of class `k` whose entries the owners of `held` hold: into a reserved entry of
`o`, or a shared one (R124). -/
def mayQueue (k o : Nat) (held : List Nat) : Bool :=
  decide (held.count o < reservedEntries k) ||
    decide (((idsOf held).map fun q => held.count q - reservedEntries k).sum < Config.sharedEntries k)

/-- The issued accesses whose next point is `i` of class `k`, oldest first for each core; those of saved contexts after them. -/
def State.heading (s : State) (k i : Nat) : List (Nat × Access) :=
  (s.cores.flatMap fun (n, c) => (c.pend.filter fun a => a.path.head? == some (k, i)).map fun a => (n, a))
    ++ (s.lateLoads.filter fun x => x.2.1.path.head? == some (k, i)).map fun x => (x.1, x.2.1)

/-- Those with an entry of its queue. -/
def State.queued (s : State) (k i : Nat) : List (Nat × Access) := (s.heading k i).filter fun x => x.2.entered

/-- The requests of others than cores whose next point is `i` of class `k`, oldest first. -/
def State.crossing (s : State) (k i : Nat) : List Traffic := s.traffic.filter fun x => x.path.head? == some (k, i)

/-- Those with an entry of its queue. -/
def State.crossed (s : State) (k i : Nat) : List Traffic := (s.crossing k i).filter Traffic.entered

/-- The owners that hold an entry at a point: of the job queue, the jobs and admissions of R226. -/
def State.entryOwners (s : State) (k i : Nat) : List Nat :=
  if k = 5 then (s.cluster i).claims.map fun x => (s.core x.1).own
  else if k = 6 then
    ((s.cluster (if i < 256 then i else (i - 256) / 2)).jobs.toList.filterMap fun j => j.map Job.owner)
      ++ (s.cluster i).admits.map fun n => (s.core n).own
  else (s.queued k i).map (fun x => x.2.owner) ++ (s.crossed k i).map Traffic.owner
    ++ (if k = 9 then ((s.core i).portWait.filter fun q => q.entered && !q.granted).map PortWait.owner else [])

/-- The row of its HBM bank that an access opens (R126). DESIGN CHOICE (log 16): the physical address bits above the bank
bits of R364 number the row. -/
def rowOf (pa : Nat) : Nat := (hbmBank (pa / 128)).2 * 2 ^ 14 + pa / 2 ^ 22 % 2 ^ 14

/-- The hot-row throttle holds a request of owner `o` to physical address `pa` (R126). -/
def State.throttles (s : State) (o pa : Nat) : Bool := decide (64 < Store.get 0 (o * 2 ^ 64 + rowOf pa) s.rows)

/-- A queued request can advance in this slot (R124). -/
def State.canGo (s : State) (o pa : Nat) (path : List (Nat × Nat)) : Bool :=
  (match path.tail.head? with
    | some (k, i) => mayQueue k o (s.entryOwners k i)
    | none => true) && !(path.head?.map Prod.fst == some 4 && s.throttles o pa)

/-- A grant at a point of class `k` brings an atomic to the place where it is performed: its Kiln unit, or the slice that serves
its line (R87, R195, R196). -/
def Access.arrives (a : Access) (k : Nat) : Bool :=
  a.op.isAtomic && ((a.dest == .main .b && k == 3) || (a.dest == .main .c && k == 1))

/-- A queued access of core `n` can: an atomic comes to its place once R81 lets it be performed, for there the order of arrival
counts (R196). -/
def State.canAdvance (s : State) (n : Nat) (a : Access) : Bool :=
  s.canGo a.owner a.addr a.path &&
    !((a.path.head?.map fun p => a.arrives p.1).getD false && !s.mayPerform n ((s.core n).olderThan a.id) a)

/-- A queued request of others than cores can. -/
def State.canCross (s : State) (x : Traffic) : Bool := s.canGo x.owner (128 * x.line) x.path

/-- Change the queued access `id` of core `n`. -/
def State.updAccess (s : State) (n id : Nat) (f : Access → Access) : State :=
  { (s.updCore n fun c => { c with pend := mapFirst (fun a => a.id == id) f c.pend }) with
    lateLoads := mapFirst (fun x => x.1 == n && x.2.1.id == id) (fun x => (x.1, f x.2.1, x.2.2)) s.lateLoads }

/-- Replace a request of others than cores. -/
def State.updTraffic (s : State) (x y : Traffic) : State := { s with traffic := mapFirst (· == x) (fun _ => y) s.traffic }

/-- It leaves a point for the next one of its path, or has passed them all. -/
def State.goOn (s : State) (x : Traffic) : State := if x.path.tail.isEmpty then { s with traffic := s.traffic.erase x }
  else s.updTraffic x { x with path := x.path.tail, entered := true }

/-- Requests that wait upstream of the point enter its queue as far as it has entries for them, oldest first; entering the
first point of its path, a request passes its owner's limiter (R124, R126, R324). -/
def State.arrive (s : State) (k i : Nat) : State :=
  let may (s : State) (o : Nat) : Bool := mayQueue k o (s.entryOwners k i) && !s.limited o k i
  let s := ((s.heading k i).filter fun x => !x.2.entered).foldl (fun s (n, a) =>
    if may s a.owner then (s.debit a.owner k i).updAccess n a.id fun a => { a with entered := true } else s) s
  let s := ((s.crossing k i).filter fun x => !x.entered).foldl (fun s x =>
    if may s x.owner then (s.debit x.owner k i).updTraffic x { x with entered := true } else s) s
  if k = 9 then
    ((s.core i).portWait.filter fun q => !q.entered).foldl (fun s q =>
      if may s q.owner then (s.debit q.owner 9 i).updCore i fun c =>
        { c with portWait := mapFirst (· == q) (fun (x : PortWait) => { x with entered := true }) c.portWait } else s) s
  else s

/-- An access leaves a point for the next one of its path. -/
def Access.onward (a : Access) : Access := { a with path := a.path.tail, entered := !a.path.tail.isEmpty }

/-- The access that a grant to core `n` advances: its oldest at the point that can. -/
def State.granted (s : State) (k i n : Nat) : Option Access :=
  ((s.queued k i).find? fun x => x.1 == n && s.canAdvance n x.2).map Prod.snd

/-- The request that a grant to another requester advances. -/
def State.grantedCross (s : State) (k i who : Nat) : Option Traffic :=
  (s.crossed k i).find? fun x => x.who == who && s.canCross x

/-- The activation of a row for an owner is counted, and up to three more of its queued requests to the row advance as row
hits in the same slot (R124, R126; log 16). DESIGN CHOICE (log 75): every grant at a bank scheduler counts as one activation of
the row, also of one that an earlier slot has opened, the spec not saying when a row closes. -/
def State.openRow (s : State) (i o pa : Nat) : State :=
  let key := o * 2 ^ 64 + rowOf pa
  let l := ((s.queued 4 i).filter fun x => x.2.owner == o && rowOf x.2.addr == rowOf pa && s.canAdvance x.1 x.2).take 3
  let m := ((s.crossed 4 i).filter fun x => x.owner == o && rowOf (128 * x.line) == rowOf pa && s.canCross x).take (3 - l.length)
  let s := m.foldl State.goOn (l.foldl (fun s x => s.updAccess x.1 x.2.id Access.onward) s)
  { s with rows := Store.put key (Store.get 0 key s.rows + 1) s.rows }

/-- A grant to requester `who` advances one of its requests; at an HBM bank scheduler it opens the row (R124, R126), and an
atomic that has come to its place takes its turn there (R196). -/
def State.grantAccess (s : State) (k i who : Nat) : State :=
  match s.granted k i who, s.grantedCross k i who with
  | some a, _ =>
    let s := s.updAccess who a.id Access.onward
    let s := if a.arrives k then { s with arrivals := s.arrivals ++ [(who, a.id)] } else s
    if k = 4 then s.openRow i a.owner a.addr else s
  | none, some x => if k = 4 then (s.goOn x).openRow i x.owner (128 * x.line) else s.goOn x
  | none, none => s

/-! ### Plate ports (class 9) -/

/-- A request for a slot that stands in the queue of the plate port of core `t` can advance (R124): its ring has a slot. One of a
core itself comes after the messages that its ring engine sends there (R31, R147). -/
def State.portReady (s : State) (t : Nat) (q : PortWait) : Bool :=
  (s.core t).hasRoom q.ring && !(q.ring == 0 && q.tag == 0 && s.devBefore q.issuer t)

/-- The plate port of core `t` grants requester `n` a slot of the ring it waits for, and keeps the slot (R32, R202). -/
def State.grantPort (s : State) (t n : Nat) : State :=
  s.updCore t fun c =>
    match c.portWait.find? fun q => q.issuer == n && q.entered && !q.granted && s.portReady t q with
    | none => c
    | some q =>
      { c.setResv q.ring (c.resv q.ring + 1) with
        portWait := mapFirst (fun x => x == q) (fun (x : PortWait) => { x with granted := true }) c.portWait }

/-- A grant of the port to requester `n`: to a request of `n` that stands in its queue, else to a wait for a slot. -/
def State.grantAtPort (s : State) (t n : Nat) : State :=
  if (s.granted 9 t n).isSome || (s.grantedCross 9 t n).isSome then s.grantAccess 9 t n else s.grantPort t n

/-- The requests at the plate port of core `t`: (owner, requester) and whether it is present (R124). -/
def State.portRequests (s : State) (t : Nat) : List ((Nat × Nat) × Bool) :=
  let c := s.core t
  ((c.portWait.filter fun q => q.entered && !q.granted).map fun q => ((q.owner, q.issuer), s.portReady t q))
    ++ (s.queued 9 t).map (fun x => ((x.2.owner, x.1), s.canAdvance x.1 x.2))
    ++ (s.crossed 9 t).map fun x => ((x.owner, x.who), s.canCross x)

/-- The cluster of a point of classes 5, 6 and 9. -/
def pointCluster (k i : Nat) : Nat := if k = 9 then i / 8 else if k = 6 && 256 ≤ i then (i - 256) / 2 else i

/-- The points of a cluster island pause while its clock changes (R128, R358). -/
def State.changing (s : State) (k i : Nat) : Bool :=
  (k == 5 || k == 6 || k == 9) && (s.island (nearIsland k (8 * pointCluster k i))).mhz != (s.island (nearIsland k (8 * pointCluster k i))).want

/-- The request of requester `who` for a slot of ring `j` that its message number `tag` makes. -/
def PortWait.is (q : PortWait) (who j tag : Nat) : Bool := q.issuer == who && q.ring == j && q.tag == tag

/-- A new request of owner `o` may enter the queue of the plate port of core `t` now: the point's slots run, an entry is free and
the owner's limiter admits it (R123, R124, R128, R324). -/
def State.portAdmits (s : State) (t o : Nat) : Bool :=
  !(s.point 9 t).paused && !s.changing 9 t && mayQueue 9 o (s.entryOwners 9 t) && !s.limited o 9 t

/-- It enters. -/
def State.enterPort (s : State) (t j o who tag : Nat) : State :=
  (s.debit o 9 t).updCore t fun c => { c with portWait := c.portWait ++ [⟨o, who, j, false, true, tag⟩] }

/-- Slots of the plate port of core `t` pass until such a request has been granted a slot of its ring, or the ring is full; those
granted on the way keep theirs (R32, R127). -/
def State.drawPort (t who j tag : Nat) : Nat → State → State
  | 0, s => s
  | k + 1, s =>
    if !((s.core t).portWait.any fun q => q.is who j tag && !q.granted && s.portReady t q) then s
    else
      let l := s.portRequests t
      let present := ((l.filter Prod.snd).map Prod.fst).eraseDups
      let held := (idsOf (l.map fun x => x.1.1)).filter fun o => !present.any fun x => x.1 == o
      match s.lotterySlot 9 t present held with
      | (some (_, w), s) => State.drawPort t who j tag k (s.grantAtPort t w)
      | (none, s) => s

/-- The slots a request may have to draw: one for each request that stands at the port. -/
def State.portDraws (s : State) (t : Nat) : Nat := (s.portRequests t).length

/-- Take a slot of ring `j` of core `t` (R32, R202): one that the lottery has granted the request already, or, where the request
is new and may enter the port's queue, one that it draws now (R127). Whether it has one, and the state after; a new request that
finds the ring full on the way stays in the queue. -/
def State.winPort (s : State) (t j o who tag : Nat) : Bool × State :=
  let ask (s : State) : Bool × State :=
    if (s.core t).portWait.any fun q => q.is who j tag && q.granted then
      (true, s.updCore t fun d => { d with portWait := d.portWait.filter fun q => !q.is who j tag })
    else (false, s)
  if (s.core t).portWait.any fun q => q.is who j tag then ask s
  else if !(s.core t).hasRoom j || !s.portAdmits t o then (false, s)
  else
    let s := s.enterPort t j o who tag
    ask (State.drawPort t who j tag (s.portDraws t) s)

/-- A request for a slot waits at the port of core `t`. -/
def State.waitPort (s : State) (t j o who tag : Nat) : State :=
  s.updCore t fun d =>
    if d.portWait.any fun q => q.is who j tag then d
    else { d with portWait := d.portWait ++ [⟨o, who, j, false, false, tag⟩] }

/-- Message number `tag` of a requester that is no core comes to ring `j` of core `t`: it has a slot, which it fills in this move
(true), or it waits at the port (false); `none` where it waits already and has been granted none. -/
def State.passPort (s : State) (t j o who tag : Nat) : Option (Bool × State) :=
  let waits := (s.core t).portWait.any fun q => q.is who j tag
  match s.winPort t j o who tag with
  | (true, s) => some (true, s.updCore t fun c => c.setResv j (c.resv j - 1))
  | (false, s) => if waits then none else some (false, s.waitPort t j o who tag)

end Sys2Proof.Machine
end

