-- ==== Sys2Proof/Machine/Handlers.lean ====
section
/-!
DEFINITION. The dispatcher (R25, R40 to R42), the ring engine (R140 to R147), waiting and waking (R43, R44), and
instruction fetch (R94, R185, R296).
-/
namespace Sys2Proof.Machine

/-! ### Rings as the dispatcher sees them -/

/-- The splice at the head of ring `j` of core `n` is for this stage (R141). -/
def Core.spliceHere (c : Core) (n j : Nat) : Bool :=
  let r := c.headRec j
  Splice.tcore r == n && (c.stage j).contains (Splice.tring r)

/-- The dispatcher would deliver the head record of ring `j` (R40, R141): data, a marker, or a splice-fail at a sink. -/
def Core.deliverable (c : Core) (j : Nat) : Bool :=
  let g := c.ring j
  match recKind (c.headRec j) with
  | 4 => false
  | 5 => !g.lv && !c.failWaits j
  | _ => true

/-- A program ring is ready (R40). -/
def Core.ringReady (c : Core) (j : Nat) : Bool :=
  let g := c.ring j
  2 ≤ j && g.log2n != 0 && g.waiting != 0 && g.mode == 1 && !g.halt && c.deliverable j

/-- The inbox holds a record, of the ring or of the fault region. -/
def Core.inboxWaiting (c : Core) : Bool := (c.ring 0).waiting != 0 || !c.faultBox.isEmpty

/-- The oldest of some rings, the lower number first among equals (R40). -/
def Core.oldest (c : Core) (l : List Nat) : Option Nat :=
  l.foldl (fun b j => match b with
    | none => some j
    | some i => if c.ages.getD i 0 < c.ages.getD j 0 then some j else some i) none

/-- The ring of a priority that follows the one taken last (R40). -/
def nextAfter (last : Nat) (l : List Nat) : Option Nat :=
  match l.find? (fun j => last < j) with
  | some j => some j
  | none => l.head?

/-- The ring a dispatch takes (R40). -/
def Core.chooseRing (c : Core) : Option Nat :=
  let ready := (List.range 16).filter c.ringReady
  match c.oldest (ready.filter fun j => 1023 ≤ c.ages.getD j 0) with
  | some j => some j
  | none =>
    if 16 ≤ c.inboxAge && c.inboxWaiting then some 0
    else if (c.ring 1).waiting ≠ 0 then some 1
    else if c.inboxWaiting then some 0
    else match c.oldest (ready.filter fun j => 64 ≤ c.ages.getD j 0) with
      | some j => some j
      | none =>
        let top := ready.foldl (fun b j => max b (c.ring j).prio.toNat) 0
        nextAfter (c.lastTaken.getD top 0) (ready.filter fun j => (c.ring j).prio.toNat == top)

/-- The ages after a dispatch from ring `r` (R40). -/
def Core.aged (c : Core) (r : Nat) : Core :=
  let ages := (List.range 16).foldl (fun (a : Vector Nat 16) j =>
    if j = r then a.setIfInBounds j 0
    else if c.ringReady j then a.setIfInBounds j (min 1023 (a.getD j 0 + 1)) else a) c.ages
  { c with
    ages := ages
    inboxAge := if r = 0 then 0 else if r = 1 && c.inboxWaiting then min 16 (c.inboxAge + 1) else c.inboxAge
    lastTaken := if 2 ≤ r then c.lastTaken.setIfInBounds (c.ring r).prio.toNat r else c.lastTaken }

/-- No issued access is still to write s1 to s4 (R291). -/
def Core.entryFree (c : Core) : Bool :=
  let hits (d : Option SReg) : Bool := match d with
    | some r => !r.sup && 1 ≤ r.reg && r.reg ≤ 4
    | none => false
  c.gathers.all (fun g => match g.dest with | .sreg d _ _ => !hits (some d) | _ => true) &&
    c.pend.all fun a => match a.op with
      | .atom _ _ _ ret => !hits ret
      | .dec _ _ ret => !hits ret
      | .fe _ _ ret => !hits ret
      | _ => true

/-- A load or returning access of the core is still to write scalar register `r` (R291). -/
def Core.pendingS (c : Core) (r : SReg) : Bool :=
  c.gathers.any (fun g => match g.dest with | .sreg d _ _ => d == r | _ => false) ||
    c.pend.any fun a => match a.op with
      | .atom _ _ _ ret => ret == some r
      | .dec _ _ ret => ret == some r
      | .fe _ _ ret => ret == some r
      | _ => false

/-- Nothing is still to write the registers an inline call and its return set (R39, R291). -/
def Core.frameFree (c : Core) : Bool := [1, 2, 3, 4, 31].all fun r => !c.pendingS (c.sreg r)

/-- Core `n` stands in its dispatcher and may take a record (R40, R330). -/
def State.dispatcher (s : State) (n : Nat) : Bool :=
  let c := s.core n
  c.ctx.isSome && c.handler.isNone && c.hold == .none && !c.stopped && c.entryFree

/-- A record may be dispatched on core `n`. -/
def State.canDispatch (s : State) (n : Nat) : Bool :=
  s.dispatcher n && (s.core n).transfer.isNone && (s.core n).chooseRing.isSome

/-- Enter a handler (R25): the registers it finds, the watchdog's LIMIT in force (R42), and its first word. -/
def State.enter (s : State) (n : Nat) (h : Handler) (s1 s2 s3 s4 : Word) : State :=
  let c := s.core n
  let k := s.freeCtr
  let c := { c with sup := false }.scramble k
  let c := { c with sregs := (((c.sregs.set 1 s1).set 2 s2).set 3 s3).set 4 s4
                    work := s2, round := 0, depthCur := 0, pc := h.entry, hints := [], ahead := [], gate := 1, calm := 0
                    begun := false
                    handler := some { h with limit := c.watchdog, count := 0 } }
  { s.setCore n c with freeCtr := k + scrambled }

/-- Dispatch the next record of the inbox ring; the reply of a poisoned asynchronous load traps before its handler's first
instruction (R205). -/
def State.inboxRecord (s : State) (n : Nat) (c : Core) : State :=
  let g := c.ring 0
  let a := g.slotAt g.disp
  let r := c.plateRec a
  let e := wordAt r 0 &&& 0x000FFFFFFFFFFFF0
  let bad := c.poisonReplies.contains g.disp
  let c := { c.setRing 0 { g with disp := g.disp + 1 } with
    poisonReplies := c.poisonReplies.filter (· != g.disp)
    pending := if bad then some (0x0C, wordAt r 3) else c.pending }
  (s.setCore n c).enter n ⟨0, 0, a, e, r, false, none, [], 0, 0⟩ (BitVec.ofNat 64 (plateBase n + a)) (wordAt r 1) 0 0

/-- Dispatch from the ring R40 chooses (R25, R26). -/
def State.dispatchNow (s : State) (n : Nat) : State :=
  let c := s.core n
  match c.chooseRing with
  | none => s
  | some 0 =>
    let g := c.ring 0
    let c := c.aged 0
    match c.faultBox with
    | (t, k) :: rest =>
      if t = g.disp || g.waiting = 0 then
        let a := g.base.toNat * 64 - 4096 + 64 * k
        let r := c.plateRec a
        let e := wordAt r 0 &&& 0x000FFFFFFFFFFFF0
        (s.setCore n { c with faultBox := rest }).enter n ⟨0, 0, a, e, r, true, none, [], 0, 0⟩
          (BitVec.ofNat 64 (plateBase n + a)) (wordAt r 1) 0 0
      else s.inboxRecord n c
    | [] => s.inboxRecord n c
  | some 1 =>
    let g := c.ring 1
    let a := g.slotAt g.disp
    let r := c.plateRec a
    let cod := wordAt r 0
    let e := c.plateRead (cod.toNat % 0x100000) 8 &&& 0x000FFFFFFFFFFFF0
    let c := (c.aged 1).setRing 1 { g with disp := g.disp + 1 }
    (s.setCore n c).enter n ⟨1, 1, a, e, r, false, none, [], 0, 0⟩ cod (wordAt r 1) 1 1
  | some j =>
    let g := c.ring j
    let a := g.slotAt g.disp
    let r := c.plateRec a
    let kind := if recKind r = 3 || recKind r = 5 then recKind r else 2
    let c := ((c.aged j).setRing j { g with disp := g.disp + 1 }).failLeft j
    (s.setCore n c).enter n ⟨kind, j, a, g.handler.setWidth 64 <<< 4, r, false, none, [], 0, 0⟩
      (BitVec.ofNat 64 (plateBase n + a)) (wordAt r 1) (BitVec.ofNat 64 j) (BitVec.ofNat 64 kind)

/-- The state-transfer handler may start on core `n` (R142): it is the next handler there, once everything that the stage's ended
handlers have written is there (R144). -/
def State.canTransfer (s : State) (n : Nat) : Bool :=
  s.dispatcher n && match (s.core n).transfer with
    | some (_, _, _, _, t) => s.released t
    | none => false

/-- Start it (R142). -/
def State.transferNow (s : State) (n : Nat) : State :=
  match (s.core n).transfer with
  | none => s
  | some (e, old, work, r3, t) =>
    (s.updCore n fun c => { c with transfer := none }).enter n ⟨4, 0, 0, e, 0, false, some t, [], 0, 0⟩ old work r3 4

/-! ### The ring engine -/

/-- A handler dispatched from the stage of ring `j` runs on the core (R140 step 1). -/
def Core.stageBusy (c : Core) (j : Nat) : Bool :=
  match c.handler with
  | some h => h.transfer.isNone && 2 ≤ h.ring && (c.stage j).contains h.ring
  | none => false

/-- A splice of ring `j` of core `n` is being applied: its transfer handler waits or runs, or its commit waits (R142, R144). -/
def State.applying (s : State) (n j : Nat) : Bool :=
  let here (t : Transfer) : Bool := t.core == n && t.rings.contains j
  (s.core n).commits.any here || s.cores.any fun (_, c) =>
    (match c.transfer with | some (_, _, _, _, t) => here t | none => false) ||
    (match c.handler.bind Handler.transfer with | some t => here t | none => false)

/-- A push of core `n` to the window of core `t` for ring `i` is issued and not performed (R140 step 2). -/
def Core.pushPending (c : Core) (t i : Nat) : Bool :=
  c.pend.any fun a => match a.op, a.dest with | .push k _, .plate m => k == i && m == t | _, _ => false

/-- The engine may act on the head record of ring `j` (R140). -/
def State.engineFree (s : State) (n j : Nat) : Bool :=
  let c := s.core n
  let g := c.ring j
  2 ≤ j && c.ctx.isSome && !c.stopped && g.log2n != 0 && g.waiting != 0 && g.mode != 0 && !c.stageBusy j
    && !s.applying n j

/-- The head record leaves the ring by the engine's hand (R134); a ring that becomes empty loses its age (R40). -/
def Core.consume (c : Core) (j : Nat) : Core :=
  let g := c.ring j
  let c := if g.disp + 1 = g.tail then { c with ages := c.ages.setIfInBounds j 0 } else c
  (c.setRing j { g with disp := g.disp + 1, head := g.head + 1 }).failLeft j

/-- KIND of an agent's descriptor (R243). -/
def Agent.kind (a : Agent) : Nat := bitsOf (a.desc.getD 0 0) 3 0
/-- WRAP. -/
def Agent.wrap (a : Agent) : Bool := bitOf (a.desc.getD 0 0) 12
/-- CAP. -/
def Agent.cap (a : Agent) : Nat := (a.desc.getD 2 0).toNat

/-- A rack from a link takes no record (R245): r has reached CAP, or is CAP beyond the consumer count last read, or that
count is yet to be read. -/
def Agent.full (a : Agent) : Bool :=
  if a.wrap then a.reread || decide (a.cap ≤ (BitVec.ofNat 64 a.count - a.ack).toNat) else decide (a.cap ≤ a.count)

/-- What a rack does with a record pushed or forwarded to it (R202, R245): `none` while it is full; a stopped one discards
it. DESIGN CHOICE (log 56): a link whose handle names no rack of the core, which an insert on another core may leave, does
as one to a stopped rack. -/
def Core.rackTake (c : Core) (j h : Nat) (r : Rec) : Option Core :=
  match Store.find h c.agents with
  | some a =>
    if a.state ≠ .running || a.kind != 3 then some (c.setRing j (c.ring j).fail)
    else if a.full then none
    else some { c with agents := Store.put h { a with buf := a.buf ++ [r], count := a.count + 1, reread := a.wrap } c.agents }
  | none => some (c.setRing j (c.ring j).fail)

/-- What the engine does at the head of ring `j` short of applying a splice (R141, R143): forward, convert, discard or
halt. `none` when it can do none of them. DESIGN CHOICE (log 56): a record for a link core that holds no context of the
owner any more is discarded and counted in FAILS, as R275 does for a freed ring. -/
def State.engineAct (s : State) (n j : Nat) : Option State :=
  let c := s.core n
  let g := c.ring j
  let r := c.headRec j
  if !s.engineFree n j then none else
  let kind := recKind r
  if kind = 4 && c.spliceHere n j then
    if g.halt || (c.stage j).length ≤ 1 then none
    else some (s.setCore n
      { c.setRing j { g with halt := true, hseq := recSseq r } with hseqWas := Store.put j g.hseq c.hseqWas })
  else if g.halt || (kind = 5 && c.failWaits j) then none
  else if (kind = 4 || kind = 5 || g.mode = 2) && g.lv then
    if g.lr then
      (c.rackTake j g.lrack.toNat r).map fun c => s.setCore n (c.consume j)
    else
      let t := g.lcore.toNat
      let i := g.lring.toNat
      let d := s.core t
      if d.ctx ≠ c.ctx || (d.ring i).log2n = 0 then some (s.setCore n ((c.setRing j (c.ring j).fail).consume j))
      else if c.pushPending t i || !d.hasRoom i then none
      else some ((s.updCore t fun d => d.append i r).updCore n fun c => c.consume j)
  else if kind = 4 then
    let s := s.failSplices n [j] 8 0 0
    some (if g.mode = 2 then s.updCore n fun c => c.consume j else s)
  else if g.mode = 2 then
    some (s.setCore n ((if kind = 5 then c else c.setRing j (c.ring j).fail).consume j))
  else none

/-- RING_FORWARD: what the engine does at the head of ring `j`; a dispatcher left with every ring empty idles (R210). -/
def State.engineMove (s : State) (n j : Nat) : Option State := (s.engineAct n j).map fun s => s.restIdle n

/-- A handler address fails the form check of R146 cause 0x03. -/
def badHandler (a : Word) : Bool := bitsOf a 3 0 != 0 || bitsOf a 63 52 != 0

/-- Used res0 bits of a splice record (R138). -/
def Splice.res0 (r : Rec) : Bool :=
  bitsOf (Splice.p r 0) 63 39 != 0 ||
    ((Splice.op r == 1 || Splice.op r == 3) && (bitsOf (Splice.p r 3) 63 49 != 0 || bitsOf (Splice.p r 3) 31 17 != 0)) ||
    bitsOf (Splice.p r 4) 3 1 != 0

/-- Cause 0x05 of R146. -/
def Splice.malformed (g : Ring) (r : Rec) : Bool :=
  let op := Splice.op r
  op == 0 || Splice.res0 r || Splice.tring r < 2
    || (op == 1 && (Splice.log2n r == 0 || 10 < Splice.log2n r || Splice.nring r < 2
        || Splice.nbuf r % 64 != 0 || 0x20000 < Splice.nbuf r + 64 * 2 ^ Splice.log2n r))
    || ((op == 1 || op == 3) && (Splice.nstate r % 64 != 0 || 0x20000 < Splice.nstate r + 64))
    || (op == 2 && !g.lv)

/-- How the check of a handler's page ends (R146 cause 0x03). -/
inductive PageChk where
  | fine | bad | wait
  deriving DecidableEq, Repr

/-- The mapping of a handler address for execution. -/
def State.handlerPage (s : State) (n : Nat) (a : Word) : PageChk :=
  if badHandler a then .bad
  else if 0x000E000000000000 ≤ a.toNat then .bad
  else match s.walk (s.core n).own false a.toNat with
    | .absent => .wait
    | .malformed => .bad
    | .leaf e _ _ => if leafAllows e false false true then .fine else .bad

/-- The checks of R146 in order: a cause, or `none`; the second part is a page to wait for. -/
def State.spliceCause (s : State) (n j : Nat) (r : Rec) : Option Nat × Option Word :=
  let c := s.core n
  let op := Splice.op r
  if Splice.malformed (c.ring j) r then (some 5, none)
  else if op = 1 && !(Splice.ncore r == n || s.mayPlate n (Splice.ncore r)) then (some 1, none)
  else if op = 1 && (((s.core (Splice.ncore r)).ring (Splice.nring r)).log2n ≠ 0
      || (Splice.ncore r = n && (c.stage j).contains (Splice.nring r))) then (some 2, none)
  else
    let a := if op = 2 then PageChk.fine else s.handlerPage n (Splice.nhand r)
    let b := if Splice.xhand r = 0 then PageChk.fine else s.handlerPage n (Splice.xhand r)
    match a, b with
    | .bad, _ => (some 3, none)
    | .wait, _ => (none, some (Splice.nhand r))
    | _, .bad => (some 3, none)
    | _, .wait => (none, some (Splice.xhand r))
    | .fine, .fine => (none, none)

/-- The walks of the engine's checks of the handlers of a splice read their entries (R146, R309). -/
def State.handlerReads (s : State) (n : Nat) (r : Rec) : State :=
  let read (s : State) (a : Word) : State :=
    if badHandler a || 0x000E000000000000 ≤ a.toNat then s else s.walkTouch (.core n) (s.core n).own false a.toNat
  let s := if Splice.op r = 2 then s else read s (Splice.nhand r)
  if Splice.xhand r = 0 then s else read s (Splice.xhand r)

/-- Apply the splice at the heads of the stage of ring `j` (R142, R143), once every input holds one, and of several inputs each is
halted by its own: `none` when the engine must wait. -/
def State.spliceNow (s : State) (n j : Nat) : Option State :=
  let c := s.core n
  let rings := c.stage j
  let heads := rings.map fun i => c.headRec i
  let r := c.headRec j
  if !s.engineFree n j || rings.head? ≠ some j
      || !rings.all (fun i => s.engineFree n i && recKind (c.headRec i) == 4 && c.spliceHere n i
          && (rings.length ≤ 1 || (c.ring i).halt)) then none
  else if !heads.all (fun x => recSseq x == recSseq r) then some (s.failSplices n rings 6 0 0)
  else match s.spliceCause n j r with
    | (some cause, _) => some ((s.handlerReads n r).failSplices n rings cause 0 0)
    | (none, some va) =>
      let src := FaultSrc.splice n j (c.ring j).disp r
      if (s.owner c.own).faults.any fun f => f.va.toNat / 4096 == va.toNat / 4096 && f.waiters.any fun x => x.1 == src then none
      else some ((s.handlerReads n r).recordFault c.own src va false false [0, 0, 0, 0, 0, 0])
    | (none, none) =>
      if Splice.xhand r = 0 then some ((s.handlerReads n r).commitAfter ⟨n, j, rings, s.releasedStores n⟩)
      else
        let t := if Splice.op r = 1 then Splice.ncore r else n
        if (s.core t).transfer.isSome then none else
        let s3 := if Splice.op r = 1 then Splice.nring r else Splice.tring r
        let x := (Splice.xhand r, (c.ring j).state.setWidth 64 <<< 6, wordAt r 1, BitVec.ofNat 64 s3, Transfer.mk n j rings (s.releasedStores n))
        some ((s.handlerReads n r).updCore t fun d => { d with transfer := some x })

/-- The alignment limit of R143, `none` when it is disabled. -/
def Core.alignLimit (c : Core) : Option Nat :=
  if 41 ≤ c.hangExp then none else if 32 ≤ c.hangExp then some (2 ^ 32 - 1) else some (2 ^ c.hangExp)

/-- The commit of a splice of ring `j` without a state-transfer handler that waited for what it releases (R142, R144). -/
def State.commitNow (s : State) (n j : Nat) : Option State :=
  match (s.core n).commits.find? fun t => t.ring == j with
  | some t =>
    if s.released t then
      some ((s.updCore n fun c => { c with commits := c.commits.filter (· != t) }).commitSplice n j t.rings)
    else none
  | none => none

/-- What SPLICE_APPLY does for ring `j`: the commit that waited, or a new application. -/
def State.spliceMove (s : State) (n j : Nat) : Option State := s.commitNow n j <|> s.spliceNow n j

/-- Fail every splice at an input head once HWAIT has reached the limit, unless the splice is being applied (R142, R143). -/
def State.alignNow (s : State) (n j : Nat) : Option State :=
  let c := s.core n
  match c.alignLimit with
  | none => none
  | some l =>
    if !c.stopped && (c.ring j).halt && decide (l ≤ (c.ring j).hwait.toNat) && !s.applying n j then
      some (s.failSplices n ((c.stage j).filter fun i =>
        (c.ring i).waiting != 0 && recKind (c.headRec i) == 4 && c.spliceHere n i) 7 0 0)
    else none

/-! ### Waiting and waking (R43, R44) -/

/-- Block core `n` (R43). -/
def State.block (s : State) (n cause ring core : Nat) : State :=
  s.updCore n fun c => { c with hold := .blocked (Blocked.start cause ring core none) }

/-- The condition a blocked core waits on holds (R43). -/
def State.canWake (s : State) (n : Nat) : Bool :=
  let c := s.core n
  match c.hold with
  | .blocked b =>
    b.done.isSome || (b.cause == 3 && (c.ring b.ring).waiting != 0) ||
      (b.cause == 4 && ((s.core b.core).ring b.ring).log2n == 0) ||
      ((b.cause == 4 || b.cause == 5) &&
        (s.core b.core).portWait.any fun q => q.is n b.ring 0 && q.granted)
  | _ => false

/-- Wake a blocked core: a full/empty access the port performed completes; every other instruction goes on from where it
waited and completes before any trap is taken (R43). A push whose ring has been freed meanwhile leaves the port (R275). -/
def State.wake (s : State) (n : Nat) : State :=
  match (s.core n).hold with
  | .blocked b =>
    match b.done with
    | some v => s.updCore n fun c =>
      let c := match b.ret with | some r => c.setSReg r v | none => c
      { c with hold := .none, pc := c.pc + 4, hints := [], begun := false }
    | none =>
      let s := if b.cause = 4 && ((s.core b.core).ring b.ring).log2n == 0 then
          s.updCore b.core fun d => d.leavePort fun q => q.is n b.ring 0
        else s
      s.updCore n fun c => { c with hold := .none, begun := true }
  | _ => s

/-- Take a slot of ring `j` of core `t` for the word of core `n` (R32, R202). Whether it has one, and the state after. -/
def State.takeSlot (s : State) (n t j : Nat) : Bool × State := s.winPort t j (s.core n).own n 0

/-- Wait for a slot at the port of core `t` (R32, R202). -/
def State.waitSlot (s : State) (n t j cause : Nat) : State := (s.waitPort t j (s.core n).own n 0).block n cause j t

/-! ### Instruction fetch -/

/-- Put a line first in an instruction cache of 128 sets and 4 ways, the least recently used way leaving (R296). -/
def cacheLine (l : List ILine) (x : ILine) : List ILine :=
  let rest := l.filter fun y => !(y.owner == x.owner && y.line == x.line)
  let same := rest.filter fun y => y.line % 128 == x.line % 128
  let rest := match same.drop 3 with
    | [] => rest
    | out => rest.filter fun y => !out.any (fun z => z.owner == y.owner && z.line == y.line)
  x :: rest

/-- What a fetch gives. -/
inductive Fetch where
  | word (s : State) (w : Code)
  | stop (a : Act)

/-- Take a choice that a move with an open choice makes: the next of the list, 0 when there is none (log 3). -/
def State.choose (s : State) : Nat × State :=
  match s.choices with
  | x :: l => (x, { s with choices := l })
  | [] => (0, s)

/-- Fill the instruction-cache line of an address that translates to `pa` from image C, through L2 and the MSC (R69, R94, R296): the
mark of a poisoned line, which is not kept, else the line, and the state after. The flag says that the error was detected here. -/
def State.fillCode (s : State) (n : Nat) (va : Word) (pa : Nat) (leaf : Word) : (Option (BitVec 32) × Bool × ILine) × State :=
  let c := s.core n
  let acc := s.accessOf n 0 (.load 0 0) ⟨0, .main (Leaf.image leaf), pa, 4, va, leaf⟩ pa 4 false none
  let first := s.latent.contains (pa / 128)
  let s := (s.detect n acc).joinFill n acc
  let line := pa / 128
  let cache := max 1 (Leaf.cache leaf)
  let s := s.cross c.own n line (s.memPath (9, n) n c.own line cache (Leaf.tierOf leaf) .read)
  let s := s.touch n c.own line cache (Leaf.tierOf leaf) acc.stream .read 0
  let key := s.keyFor c.own c.sup
  let x : ILine := ⟨c.fetchTag, va.toNat / 64, (List.range 64).map fun i => s.cByte key (pa - pa % 64 + i)⟩
  match s.poisonOf .c line with
  | some m => ((some m, first, x), s)
  | none => ((none, first, x), s.updCore n fun c => { c with icache := cacheLine c.icache x })

/-- Fetch runs ahead of core `n` into the line after that of its pc, or does not, by a choice (R94, R296; log 62): a line that is
mapped for execution fills the cache early. -/
def State.fetchAhead (s : State) (n : Nat) : State :=
  let c := s.core n
  let a := (c.pc.toNat / 64 + 1) * 64
  if 0x000E000000000000 ≤ a || c.icache.any (fun x => x.owner == c.fetchTag && x.line == a / 64) then s
  else match s.choose with
    | (0, s) => s
    | (_, s) => match s.translate (.core n) c.own c.sup a false false true with
      | (t, .ok pa leaf) => (t.fillCode n (BitVec.ofNat 64 a) pa leaf).2
      | _ => s

/-- Fetch the word at the pc of core `n` (R94, R185, R296): one fetched ahead, a hit in the instruction cache, or a fill. -/
def State.fetch (s : State) (n : Nat) : Fetch :=
  let c := s.core n
  let a := c.pc.toNat
  if 0x000E000000000000 ≤ a then .stop (.trap s 0x05 c.pc)
  else match c.ahead.find? (fun x => x.1 == c.pc), c.icache.find? (fun x => x.owner == c.fetchTag && x.line == a / 64) with
    | some x, _ => .word (s.fetchAhead n) x.2
    | none, some x => .word ((s.setCore n { c with icache := cacheLine c.icache x }).fetchAhead n) (x.word a)
    | none, none =>
      match s.xlate n c.pc false false true (fun s pa leaf => .ok s ⟨0, .main (Leaf.image leaf), pa, 4, c.pc, leaf⟩) with
      | .no a => .stop a
      | .ok s e => match s.fillCode n c.pc e.addr e.leaf with
        | ((some m, first, _), s) =>
          let acc := s.accessOf n 0 (.load 0 0) e e.addr 4 false none
          .stop (.trap (if first then s else s.consumed n acc m false) 0x0C c.pc)
        | ((none, _, x), s) => .word (s.fetchAhead n) (x.word a)

end Sys2Proof.Machine
end

