-- ==== Sys2Proof/Machine/Scalar.lean ====
section
/-!
DEFINITION. Majors 0x01 to 0x0B but for control registers: integer, multiply and divide, select, immediate, compare and
predicate instructions (spec/09_scalar_control.md R174 to R180).
-/
namespace Sys2Proof.Machine

/-! ### The operations of R174 and R175 at width w -/

/-- The shift and rotate count c = y mod w. -/
def aluCount {w : Nat} (y : BitVec w) : Nat := y.toNat % w
def aluAdd {w : Nat} (x y : BitVec w) : BitVec w := x + y
def aluSub {w : Nat} (x y : BitVec w) : BitVec w := x - y
def aluAnd {w : Nat} (x y : BitVec w) : BitVec w := x &&& y
def aluOr {w : Nat} (x y : BitVec w) : BitVec w := x ||| y
def aluXor {w : Nat} (x y : BitVec w) : BitVec w := x ^^^ y
def aluAndn {w : Nat} (x y : BitVec w) : BitVec w := x &&& ~~~y
def aluShl {w : Nat} (x y : BitVec w) : BitVec w := x <<< aluCount y
/-- Logical with U = 1, arithmetic with U = 0. -/
def aluShr {w : Nat} (u : BitVec 1) (x y : BitVec w) : BitVec w :=
  if u = 1 then x >>> aluCount y else x.sshiftRight (aluCount y)
def aluRotl {w : Nat} (x y : BitVec w) : BitVec w := x.rotateLeft (aluCount y)
def aluRotr {w : Nat} (x y : BitVec w) : BitVec w := x.rotateRight (aluCount y)
/-- x < y, signed with U = 0, unsigned with U = 1. -/
def aluLt {w : Nat} (u : BitVec 1) (x y : BitVec w) : Bool := if u = 1 then x.ult y else x.slt y
def aluMin {w : Nat} (u : BitVec 1) (x y : BitVec w) : BitVec w := if aluLt u y x then y else x
def aluMax {w : Nat} (u : BitVec 1) (x y : BitVec w) : BitVec w := if aluLt u x y then y else x
/-- The number of 1 bits. -/
def popCount {w : Nat} (x : BitVec w) : Nat := (List.range w).foldl (fun k i => k + b2n (bitOf x i)) 0
def aluPopc {w : Nat} (x : BitVec w) : BitVec w := BitVec.ofNat w (popCount x)
def aluClz {w : Nat} (x : BitVec w) : BitVec w := BitVec.ofNat w (if x = 0 then w else w - x.toNat.log2 - 1)
def aluCtz {w : Nat} (x : BitVec w) : BitVec w := BitVec.ofNat w (firstIndex (bitOf x) w)
def aluMul {w : Nat} (x y : BitVec w) : BitVec w := x * y
/-- The exact reading of an operand of R175. -/
def aluInt {w : Nat} (u : BitVec 1) (x : BitVec w) : Int := if u = 1 then x.toNat else x.toInt
def aluMulh {w : Nat} (u : BitVec 1) (x y : BitVec w) : BitVec w := BitVec.ofInt w (aluInt u x * aluInt u y / 2 ^ w)
/-- Division with the special results of R175. -/
def aluDiv {w : Nat} (u : BitVec 1) (x y : BitVec w) : BitVec w :=
  if y = 0 then BitVec.allOnes w else BitVec.ofInt w ((aluInt u x).tdiv (aluInt u y))
def aluRem {w : Nat} (u : BitVec 1) (x y : BitVec w) : BitVec w :=
  if y = 0 then x else BitVec.ofInt w (aluInt u x - aluInt u y * (aluInt u x).tdiv (aluInt u y))

/-- A 32-bit result extended by U (R174). -/
def extend32 (u : BitVec 1) (z : BitVec 32) : Word := if u = 0 then z.signExtend 64 else z.setWidth 64

/-- s[d] ← f(s[a], s[b]) at width 64. -/
def alu64 (gd : Guard) (s : State) (d a b : BitVec 5) (f : Word → Word → Word) : Outcome :=
  regOp gd s fun c => c.setS d (f (c.s a) (c.s b))
/-- s[d] ← the extended f of the low halves of s[a] and s[b]. -/
def alu32 (gd : Guard) (s : State) (d a b : BitVec 5) (u : BitVec 1) (f : BitVec 32 → BitVec 32 → BitVec 32) : Outcome :=
  regOp gd s fun c => c.setS d (extend32 u (f ((c.s a).setWidth 32) ((c.s b).setWidth 32)))

/-! ### The instructions -/

/-- `add` of width 64 (R174). -/
def execAdd64 (gd : Guard) (d a b : BitVec 5) (_u : BitVec 1) (s : State) : Outcome := alu64 gd s d a b aluAdd
/-- `sub` of width 64 (R174). -/
def execSub64 (gd : Guard) (d a b : BitVec 5) (_u : BitVec 1) (s : State) : Outcome := alu64 gd s d a b aluSub
/-- `and` of width 64 (R174). -/
def execAnd64 (gd : Guard) (d a b : BitVec 5) (_u : BitVec 1) (s : State) : Outcome := alu64 gd s d a b aluAnd
/-- `or` of width 64 (R174). -/
def execOr64 (gd : Guard) (d a b : BitVec 5) (_u : BitVec 1) (s : State) : Outcome := alu64 gd s d a b aluOr
/-- `xor` of width 64 (R174). -/
def execXor64 (gd : Guard) (d a b : BitVec 5) (_u : BitVec 1) (s : State) : Outcome := alu64 gd s d a b aluXor
/-- `andn` of width 64 (R174). -/
def execAndn64 (gd : Guard) (d a b : BitVec 5) (_u : BitVec 1) (s : State) : Outcome := alu64 gd s d a b aluAndn
/-- `shl` of width 64 (R174). -/
def execShl64 (gd : Guard) (d a b : BitVec 5) (_u : BitVec 1) (s : State) : Outcome := alu64 gd s d a b aluShl
/-- `shr` of width 64 (R174). -/
def execShr64 (gd : Guard) (d a b : BitVec 5) (u : BitVec 1) (s : State) : Outcome := alu64 gd s d a b (aluShr u)
/-- `rotl` of width 64 (R174). -/
def execRotl64 (gd : Guard) (d a b : BitVec 5) (_u : BitVec 1) (s : State) : Outcome := alu64 gd s d a b aluRotl
/-- `rotr` of width 64 (R174). -/
def execRotr64 (gd : Guard) (d a b : BitVec 5) (_u : BitVec 1) (s : State) : Outcome := alu64 gd s d a b aluRotr
/-- `min` of width 64 (R174). -/
def execMin64 (gd : Guard) (d a b : BitVec 5) (u : BitVec 1) (s : State) : Outcome := alu64 gd s d a b (aluMin u)
/-- `max` of width 64 (R174). -/
def execMax64 (gd : Guard) (d a b : BitVec 5) (u : BitVec 1) (s : State) : Outcome := alu64 gd s d a b (aluMax u)
/-- `popc` of width 64 (R174). -/
def execPopc64 (gd : Guard) (d a : BitVec 5) (_u : BitVec 1) (s : State) : Outcome := alu64 gd s d a 0 fun x _ => aluPopc x
/-- `clz` of width 64 (R174). -/
def execClz64 (gd : Guard) (d a : BitVec 5) (_u : BitVec 1) (s : State) : Outcome := alu64 gd s d a 0 fun x _ => aluClz x
/-- `ctz` of width 64 (R174). -/
def execCtz64 (gd : Guard) (d a : BitVec 5) (_u : BitVec 1) (s : State) : Outcome := alu64 gd s d a 0 fun x _ => aluCtz x
/-- `add` of width 32 (R174). -/
def execAdd32 (gd : Guard) (d a b : BitVec 5) (u : BitVec 1) (s : State) : Outcome := alu32 gd s d a b u aluAdd
/-- `sub` of width 32 (R174). -/
def execSub32 (gd : Guard) (d a b : BitVec 5) (u : BitVec 1) (s : State) : Outcome := alu32 gd s d a b u aluSub
/-- `and` of width 32 (R174). -/
def execAnd32 (gd : Guard) (d a b : BitVec 5) (u : BitVec 1) (s : State) : Outcome := alu32 gd s d a b u aluAnd
/-- `or` of width 32 (R174). -/
def execOr32 (gd : Guard) (d a b : BitVec 5) (u : BitVec 1) (s : State) : Outcome := alu32 gd s d a b u aluOr
/-- `xor` of width 32 (R174). -/
def execXor32 (gd : Guard) (d a b : BitVec 5) (u : BitVec 1) (s : State) : Outcome := alu32 gd s d a b u aluXor
/-- `andn` of width 32 (R174). -/
def execAndn32 (gd : Guard) (d a b : BitVec 5) (u : BitVec 1) (s : State) : Outcome := alu32 gd s d a b u aluAndn
/-- `shl` of width 32 (R174). -/
def execShl32 (gd : Guard) (d a b : BitVec 5) (u : BitVec 1) (s : State) : Outcome := alu32 gd s d a b u aluShl
/-- `shr` of width 32 (R174). -/
def execShr32 (gd : Guard) (d a b : BitVec 5) (u : BitVec 1) (s : State) : Outcome := alu32 gd s d a b u (aluShr u)
/-- `rotl` of width 32 (R174). -/
def execRotl32 (gd : Guard) (d a b : BitVec 5) (u : BitVec 1) (s : State) : Outcome := alu32 gd s d a b u aluRotl
/-- `rotr` of width 32 (R174). -/
def execRotr32 (gd : Guard) (d a b : BitVec 5) (u : BitVec 1) (s : State) : Outcome := alu32 gd s d a b u aluRotr
/-- `min` of width 32 (R174). -/
def execMin32 (gd : Guard) (d a b : BitVec 5) (u : BitVec 1) (s : State) : Outcome := alu32 gd s d a b u (aluMin u)
/-- `max` of width 32 (R174). -/
def execMax32 (gd : Guard) (d a b : BitVec 5) (u : BitVec 1) (s : State) : Outcome := alu32 gd s d a b u (aluMax u)
/-- `popc` of width 32 (R174). -/
def execPopc32 (gd : Guard) (d a : BitVec 5) (u : BitVec 1) (s : State) : Outcome := alu32 gd s d a 0 u fun x _ => aluPopc x
/-- `clz` of width 32 (R174). -/
def execClz32 (gd : Guard) (d a : BitVec 5) (u : BitVec 1) (s : State) : Outcome := alu32 gd s d a 0 u fun x _ => aluClz x
/-- `ctz` of width 32 (R174). -/
def execCtz32 (gd : Guard) (d a : BitVec 5) (u : BitVec 1) (s : State) : Outcome := alu32 gd s d a 0 u fun x _ => aluCtz x
/-- `mul` of width 64 (R175). -/
def execMul64 (gd : Guard) (d a b : BitVec 5) (_u : BitVec 1) (s : State) : Outcome := alu64 gd s d a b aluMul
/-- `mulh` of width 64 (R175). -/
def execMulh64 (gd : Guard) (d a b : BitVec 5) (u : BitVec 1) (s : State) : Outcome := alu64 gd s d a b (aluMulh u)
/-- `div` of width 64 (R175). -/
def execDiv64 (gd : Guard) (d a b : BitVec 5) (u : BitVec 1) (s : State) : Outcome := alu64 gd s d a b (aluDiv u)
/-- `rem` of width 64 (R175). -/
def execRem64 (gd : Guard) (d a b : BitVec 5) (u : BitVec 1) (s : State) : Outcome := alu64 gd s d a b (aluRem u)
/-- `mul` of width 32 (R175). -/
def execMul32 (gd : Guard) (d a b : BitVec 5) (u : BitVec 1) (s : State) : Outcome := alu32 gd s d a b u aluMul
/-- `mulh` of width 32 (R175). -/
def execMulh32 (gd : Guard) (d a b : BitVec 5) (u : BitVec 1) (s : State) : Outcome := alu32 gd s d a b u (aluMulh u)
/-- `div` of width 32 (R175). -/
def execDiv32 (gd : Guard) (d a b : BitVec 5) (u : BitVec 1) (s : State) : Outcome := alu32 gd s d a b u (aluDiv u)
/-- `rem` of width 32 (R175). -/
def execRem32 (gd : Guard) (d a b : BitVec 5) (u : BitVec 1) (s : State) : Outcome := alu32 gd s d a b u (aluRem u)

/-- `sel` (R176). -/
def execSel (gd : Guard) (d a b c : BitVec 5) (s : State) : Outcome :=
  regOp gd s fun k => k.setS d (if bitOf (k.p a.toNat) 0 then k.s b else k.s c)

/-- `add.i64 sd, sa, imm` (R177). -/
def execAddImm (gd : Guard) (d a : BitVec 5) (i : BitVec 10) (s : State) : Outcome :=
  regOp gd s fun c => c.setS d (c.s a + c.immS i)
/-- `shl.i64 sd, sa, n` (R177). -/
def execShlImm (gd : Guard) (d a : BitVec 5) (n : BitVec 6) (s : State) : Outcome :=
  regOp gd s fun c => c.setS d (c.s a <<< n.toNat)
/-- `shr.n64 sd, sa, n` (R177). -/
def execShrN64Imm (gd : Guard) (d a : BitVec 5) (n : BitVec 6) (s : State) : Outcome :=
  regOp gd s fun c => c.setS d (c.s a >>> n.toNat)
/-- `shr.i64 sd, sa, n` (R177). -/
def execShrI64Imm (gd : Guard) (d a : BitVec 5) (n : BitVec 6) (s : State) : Outcome :=
  regOp gd s fun c => c.setS d ((c.s a).sshiftRight n.toNat)
/-- `rotl.i64 sd, sa, n` (R177). -/
def execRotlImm (gd : Guard) (d a : BitVec 5) (n : BitVec 6) (s : State) : Outcome :=
  regOp gd s fun c => c.setS d ((c.s a).rotateLeft n.toNat)
/-- `and.i64 sd, sa, imm` (R177). -/
def execAndImm (gd : Guard) (d a : BitVec 5) (v : BitVec 6) (s : State) : Outcome :=
  regOp gd s fun c => c.setS d (c.s a &&& c.immS v)
/-- `or.i64 sd, sa, imm` (R177). -/
def execOrImm (gd : Guard) (d a : BitVec 5) (v : BitVec 6) (s : State) : Outcome :=
  regOp gd s fun c => c.setS d (c.s a ||| c.immS v)
/-- `xor.i64 sd, sa, imm` (R177). -/
def execXorImm (gd : Guard) (d a : BitVec 5) (v : BitVec 6) (s : State) : Outcome :=
  regOp gd s fun c => c.setS d (c.s a ^^^ c.immS v)
/-- `li` (R177, R178). -/
def execLi (gd : Guard) (d : BitVec 5) (i : BitVec 15) (s : State) : Outcome := regOp gd s fun c => c.setS d (c.immS i)
/-- `lsi` (R177, R178): f = 15, or 31 with IMMX. -/
def execLsi (gd : Guard) (d : BitVec 5) (i : BitVec 15) (s : State) : Outcome :=
  regOp gd s fun c => c.setS d ((c.s d <<< (if (c.hint 0).isSome then 31 else 15)) + c.immZ i)

/-! ### Compares (R179) -/

/-- X cc Y for the condition codes 0 to 5. -/
def compare {w : Nat} (u : BitVec 1) (cc : BitVec 3) (x y : BitVec w) : Bool :=
  match cc.toNat with
  | 0 => x == y
  | 1 => x != y
  | 2 => aluLt u x y
  | 3 => !aluLt u y x
  | 4 => aluLt u y x
  | _ => !aluLt u x y

/-- Every bit of a predicate. -/
def predAll (b : Bool) : Pred := if b then BitVec.allOnes 256 else 0

/-- `cmp.cc.T pd, sa, sb` (R179). -/
def execCmp (gd : Guard) (d a b : BitVec 5) (u w : BitVec 1) (c : BitVec 3) (s : State) : Outcome :=
  regOp gd s fun k => k.setP d.toNat (predAll
    (if w = 1 then compare u c ((k.s a).setWidth 32) ((k.s b).setWidth 32) else compare u c (k.s a) (k.s b)))
/-- `cmp.cc.T pd, sa, imm` (R179). -/
def execCmpImm (gd : Guard) (d a : BitVec 5) (c : BitVec 3) (u : BitVec 1) (v : BitVec 6) (s : State) : Outcome :=
  regOp gd s fun k => k.setP d.toNat (predAll (compare u c (k.s a) (if u = 1 then k.immZ v else k.immS v)))

/-! ### Predicates (R180) -/

/-- p[d] ← f(p[a], p[b]). -/
def predOp (gd : Guard) (s : State) (d a b : BitVec 5) (f : Pred → Pred → Pred) : Outcome :=
  regOp gd s fun c => c.setP d.toNat (f (c.p a.toNat) (c.p b.toNat))

/-- `pand` (R180). -/
def execPand (gd : Guard) (d a b : BitVec 5) (s : State) : Outcome := predOp gd s d a b fun x y => x &&& y
/-- `por` (R180). -/
def execPor (gd : Guard) (d a b : BitVec 5) (s : State) : Outcome := predOp gd s d a b fun x y => x ||| y
/-- `pxor` (R180). -/
def execPxor (gd : Guard) (d a b : BitVec 5) (s : State) : Outcome := predOp gd s d a b fun x y => x ^^^ y
/-- `pandn` (R180). -/
def execPandn (gd : Guard) (d a b : BitVec 5) (s : State) : Outcome := predOp gd s d a b fun x y => x &&& ~~~y
/-- `porn` (R180). -/
def execPorn (gd : Guard) (d a b : BitVec 5) (s : State) : Outcome := predOp gd s d a b fun x y => x ||| ~~~y
/-- `pnot` (R180). -/
def execPnot (gd : Guard) (d a : BitVec 5) (s : State) : Outcome := predOp gd s d a 0 fun x _ => ~~~x
/-- `pset` (R180). -/
def execPset (gd : Guard) (d : BitVec 5) (s : State) : Outcome := predOp gd s d 0 0 fun _ _ => BitVec.allOnes 256
/-- `pclr` (R180). -/
def execPclr (gd : Guard) (d : BitVec 5) (s : State) : Outcome := predOp gd s d 0 0 fun _ _ => 0
/-- Bits [64k+63 : 64k] of a predicate replaced. -/
def predInsert (p : Pred) (k : Nat) (x : Word) : Pred :=
  (p &&& ~~~((BitVec.allOnes 64).setWidth 256 <<< (64 * k))) ||| (x.setWidth 256 <<< (64 * k))
/-- `pins` (R180): b is k. -/
def execPins (gd : Guard) (d a b : BitVec 5) (s : State) : Outcome :=
  regOp gd s fun c => c.setP d.toNat (predInsert (c.p d.toNat) b.toNat (c.s a))
/-- `pext` (R180): b is k. -/
def execPext (gd : Guard) (d a b : BitVec 5) (s : State) : Outcome :=
  regOp gd s fun c => c.setS d (wordAt (c.p a.toNat) b.toNat)
/-- `pcnt` (R180). -/
def execPcnt (gd : Guard) (d a : BitVec 5) (s : State) : Outcome :=
  regOp gd s fun c => c.setS d (BitVec.ofNat 64 (popCount (c.p a.toNat)))

end Sys2Proof.Machine
end

