-- ==== Sys2Proof/Machine/Control.lean ====
section
/-!
DEFINITION. Control registers, branches and the end of a handler (spec/09_scalar_control.md R181 to R187).
-/
namespace Sys2Proof.Machine

/-! ### Control registers -/

/-- `ctl.owner` (R182). -/
def State.ctlOwner (s : State) (n : Nat) : Word :=
  let c := s.core n
  let (f, i) := (s.ownerSlot c.own).getD (0, 0)
  BitVec.ofNat 64 (b2n c.sup * 2 ^ 16 + i % 4 * 2 ^ 14 + f % 64 * 2 ^ 8 + c.own % 256)

/-- STATE, CAUSE, RING, CORE and RESID of a blocked core (R44). -/
def Blocked.word (b : Blocked) : Word :=
  BitVec.ofNat 64 (b.gate * 2 ^ 62 + b.cause * 2 ^ 58 + b.ring * 2 ^ 54 + b.core * 2 ^ 43 + b.resid)

/-- `ctl.blocked` (R44): 0 while the core runs or idles. -/
def Core.ctlBlocked (c : Core) : Word :=
  match c.hold with
  | .blocked b => b.word
  | _ => 0

/-- Sets of all instances of the class a sweep is in (R117, R121). -/
def sweepSets (phase : Nat) : Nat := if phase = 1 then 256 * 64 else if phase = 2 then 256 * 512 else 8 * 32768

/-- `ctl.seed.status` (R121). -/
def Owner.seedStatus (w : Owner) : Word :=
  match w.sweep with
  | none => BitVec.ofNat 64 (w.epoch.toNat * 2 ^ 32)
  | some x =>
    let seen := (x.next.map Prod.snd).sum
    BitVec.ofNat 64 (w.epoch.toNat * 2 ^ 32 + 2 ^ 31 + x.phase * 2 ^ 29 + (sweepSets x.phase - seen) % 2 ^ 20)

/-- The value of control register `k` as core `n` reads it (R181, R182). -/
def State.readCtl (s : State) (n k : Nat) : Word :=
  let c := s.core n
  let w := s.owner c.own
  match k with
  | 0x000 => BitVec.ofNat 64 n
  | 0x001 => s.ctlOwner n
  | 0x002 => BitVec.ofNat 64 (plateBase n)
  | 0x003 => (s.island (islandOf n)).cycles
  | 0x004 => c.work
  | 0x005 => BitVec.ofNat 64 c.lanes
  | 0x006 => s.usc n
  | 0x007 => c.ctlBlocked
  | 0x010 => BitVec.ofNat 64 c.watchdog
  | 0x011 => BitVec.ofNat 64 (c.depthCur % 16 * 16 + c.depthLimit)
  | 0x012 => BitVec.ofNat 64 c.hangExp
  | 0x013 => BitVec.ofNat 64 c.round
  | 0x014 => c.userIndex
  | 0x018 => w.seedPlace.extractLsb' 0 64
  | 0x019 => w.seedPlace.extractLsb' 64 64
  | 0x01A => w.seedArb.extractLsb' 0 64
  | 0x01B => w.seedArb.extractLsb' 64 64
  | 0x01C => w.seedUser.extractLsb' 0 64
  | 0x01D => w.seedUser.extractLsb' 64 64
  | 0x01E => w.seedStatus
  | 0x020 => c.trapCause.setWidth 64
  | 0x021 => c.trapInfo
  | 0x022 => c.trapPc
  | 0x023 => c.faultHandler ++ (0 : BitVec 5) ++ c.faultCore
  | _ => 0

/-- A write to a read-only register traps (R181). -/
def ctlReadOnly (k : Nat) : Bool := k < 4 || (5 ≤ k && k ≤ 7) || k = 0x01E
/-- A write is privileged (R181). -/
def ctlPrivileged (k : Nat) : Bool := 0x20 ≤ k && k ≤ 0x23

/-- The low and high halves of a seed. -/
def setLo (k : Key128) (v : Word) : Key128 := k.extractLsb' 64 64 ++ v
def setHi (k : Key128) (v : Word) : Key128 := v ++ k.extractLsb' 0 64

/-- Write control register `k`, field by field, with the clamps of R42, R45, R100 and R183. -/
def State.writeCtl (s : State) (n k : Nat) (v : Word) : State :=
  let c := s.core n
  let owner (f : Owner → Owner) : State := s.updOwner c.own f
  match k with
  | 0x004 => s.setCore n { c with work := v }
  | 0x010 => s.setCore n { c with watchdog := max 1024 (min (bitsOf v 30 0) (2 ^ 30)) }
  | 0x011 => s.setCore n { c with depthLimit := bitsOf v 3 0 }
  | 0x012 => s.setCore n { c with hangExp := max 17 (bitsOf v 5 0) }
  | 0x013 => s.setCore n { c with round := if 6 ≤ bitsOf v 2 0 then 0 else bitsOf v 2 0 }
  | 0x014 => s.setCore n { c with userIndex := v }
  | 0x018 => owner fun w => { w with seedPlace := setLo w.seedPlace v }
  | 0x019 => owner fun w => { w with seedPlace := setHi w.seedPlace v }
  | 0x01A => owner fun w => { w with seedArb := setLo w.seedArb v }
  | 0x01B => owner fun w => { w with seedArb := setHi w.seedArb v }
  | 0x01C => owner fun w => { w with seedUser := setLo w.seedUser v }
  | 0x01D => owner fun w => { w with seedUser := setHi w.seedUser v }
  | 0x020 => s.setCore n { c with trapCause := v.extractLsb' 0 8 }
  | 0x021 => s.setCore n { c with trapInfo := v }
  | 0x022 => s.setCore n { c with trapPc := v &&& 0x000FFFFFFFFFFFFC }
  | 0x023 => s.setCore n { c with faultHandler := v.extractLsb' 16 48, faultCore := v.extractLsb' 0 11 }
  | _ => s

/-- A fence of the core has not been performed (R183). -/
def Core.fencePending (c : Core) : Bool := c.pend.any fun a => match a.op with | .fence .. => true | _ => false

/-- `rdctl` (R181): `ctl.cycles`, `ctl.usc` and `ctl.blocked` wait for older fences (R183). -/
def execRdctl (gd : Guard) (d : BitVec 5) (k : BitVec 10) (s : State) : Outcome :=
  scalarOp gd s fun s n =>
    if (k.toNat = 3 || k.toNat = 6 || k.toNat = 7) && (s.core n).fencePending then .stall s
    else .done (s.updCore n fun c => c.setS d (s.readCtl n k.toNat))

/-- `wrctl` (R181). -/
def execWrctl (gd : Guard) (d : BitVec 5) (k : BitVec 10) (s : State) : Outcome :=
  let f (s : State) (n : Nat) : Act :=
    if ctlReadOnly k.toNat then .trap s 0x05 (k.setWidth 64)
    else .done (s.writeCtl n k.toNat ((s.core n).s d))
  if ctlPrivileged k.toNat then privOp (.wrctl gd d k) gd s f else scalarOp gd s f

/-! ### Branches (R184) -/

/-- pc + offset × 4. -/
def Core.target {w : Nat} (c : Core) (o : BitVec w) : Word := c.pc + (c.immS o) * 4

/-- `br`. -/
def execBr (gd : Guard) (o : BitVec 20) (s : State) : Outcome :=
  scalarOp gd s fun s n => .jump s ((s.core n).target o)

/-- `jal`: the return address goes to s30. -/
def execJal (gd : Guard) (o : BitVec 20) (s : State) : Outcome :=
  scalarOp gd s fun s n =>
    let c := s.core n
    .jump (s.setCore n (c.setS 30 (c.pc + 4))) (c.target o)

/-- `jalr`: s[a] is read before s[d] is written; a misaligned target traps. -/
def execJalr (gd : Guard) (d a : BitVec 5) (i : BitVec 10) (s : State) : Outcome :=
  scalarOp gd s fun s n =>
    let c := s.core n
    let t := c.s a + c.immS i * 4
    if t.toNat % 4 ≠ 0 then .trap s 0x03 t
    else .jump (s.setCore n (c.setS d (c.pc + 4))) t

/-! ### The end of a handler (R28, R186) -/

/-- The end of a handler; that of an inline child waits for the registers its return sets (R39, R291), that of a state-transfer
handler for what its commit releases (R144). -/
def endInstr (gd : Guard) (s : State) (requeue : Bool) : Outcome :=
  scalarOp gd s fun s n =>
    let c := s.core n
    let child := match c.handler with | some h => !h.frames.isEmpty | none => false
    if (child && !c.frameFree) || !s.mayEnd n then .stall s else .left (s.endHandler n requeue)

/-- `end`. -/
def execEndH (gd : Guard) (s : State) : Outcome := endInstr gd s false

/-- `yield`. -/
def execYieldH (gd : Guard) (s : State) : Outcome := endInstr gd s true

end Sys2Proof.Machine
end

