-- ==== Sys2Proof/Machine/LoadStore.lean ====
section
/-!
DEFINITION. Majors 0x18 to 0x1B: loads, stores, acquire loads, release stores and full/empty accesses
(spec/10_memory_sync_messages.md R188 to R193).
-/
namespace Sys2Proof.Machine

/-! ### Loads and stores -/

/-- s[base] + offset × z (R189, R192). -/
def Core.ea {w : Nat} (c : Core) (b : BitVec 5) (o : BitVec w) (z : Nat) : Word := c.s b + c.immS o * BitVec.ofNat 64 z

/-- A scalar load of `z` bytes (R189). -/
def State.load (s : State) (n : Nat) (d : BitVec 5) (ea : Word) (z : Nat) (signed aligned acq : Bool) : Act :=
  let dst := (s.core n).sreg d
  match s.check n .plain 0 ea z aligned true false with
  | .no a => a
  | .ok s e => s.issueLoads n (.sreg dst z signed) [e] ea acq false

/-- A scalar store of the low `z` bytes of s[d] (R189). -/
def State.store (s : State) (n : Nat) (d : BitVec 5) (ea : Word) (z : Nat) (aligned : Bool) (rel : Option Nat) : Act :=
  let v := (s.core n).s d
  match s.check n .plain 0 ea z aligned false true with
  | .no a => a
  | .ok s e => s.issueStores n [(e, v)] rel

/-- A plain load. -/
def plainLoad (gd : Guard) (s : State) (d b : BitVec 5) (o : BitVec 7) (z : Nat) (signed : Bool) : Outcome :=
  scalarOp gd s fun s n => s.load n d ((s.core n).ea b o z) z signed false false
/-- A plain store. -/
def plainStore (gd : Guard) (s : State) (d b : BitVec 5) (o : BitVec 7) (z : Nat) : Outcome :=
  scalarOp gd s fun s n => s.store n d ((s.core n).ea b o z) z false none

/-- `ld.b` (R189). -/
def execLdB (gd : Guard) (d b : BitVec 5) (o : BitVec 7) (s : State) : Outcome := plainLoad gd s d b o 1 false
/-- `ld.h` (R189). -/
def execLdH (gd : Guard) (d b : BitVec 5) (o : BitVec 7) (s : State) : Outcome := plainLoad gd s d b o 2 false
/-- `ld.w` (R189). -/
def execLdW (gd : Guard) (d b : BitVec 5) (o : BitVec 7) (s : State) : Outcome := plainLoad gd s d b o 4 false
/-- `ld.d` (R189). -/
def execLdD (gd : Guard) (d b : BitVec 5) (o : BitVec 7) (s : State) : Outcome := plainLoad gd s d b o 8 false
/-- `ld.b.s` (R189). -/
def execLdBS (gd : Guard) (d b : BitVec 5) (o : BitVec 7) (s : State) : Outcome := plainLoad gd s d b o 1 true
/-- `ld.h.s` (R189). -/
def execLdHS (gd : Guard) (d b : BitVec 5) (o : BitVec 7) (s : State) : Outcome := plainLoad gd s d b o 2 true
/-- `ld.w.s` (R189). -/
def execLdWS (gd : Guard) (d b : BitVec 5) (o : BitVec 7) (s : State) : Outcome := plainLoad gd s d b o 4 true
/-- `st.b` (R189). -/
def execStB (gd : Guard) (d b : BitVec 5) (o : BitVec 7) (s : State) : Outcome := plainStore gd s d b o 1
/-- `st.h` (R189). -/
def execStH (gd : Guard) (d b : BitVec 5) (o : BitVec 7) (s : State) : Outcome := plainStore gd s d b o 2
/-- `st.w` (R189). -/
def execStW (gd : Guard) (d b : BitVec 5) (o : BitVec 7) (s : State) : Outcome := plainStore gd s d b o 4
/-- `st.d` (R189). -/
def execStD (gd : Guard) (d b : BitVec 5) (o : BitVec 7) (s : State) : Outcome := plainStore gd s d b o 8

/-- `ld.Z.acq` (R191): aligned in every space, and an acquire. -/
def execLdAcq (gd : Guard) (d b : BitVec 5) (z : BitVec 2) (_σ : BitVec 3) (s : State) : Outcome :=
  scalarOp gd s fun s n => s.load n d ((s.core n).s b) (2 ^ z.toNat) false true true
/-- `st.Z.rel` (R191): aligned in every space, and a release of scope σ. -/
def execStRel (gd : Guard) (d b : BitVec 5) (z : BitVec 2) (σ : BitVec 3) (s : State) : Outcome :=
  scalarOp gd s fun s n => s.store n d ((s.core n).s b) (2 ^ z.toNat) true (some σ.toNat)

/-! ### Full/empty accesses (R192, R193) -/

/-- The form waits for its condition or returns a value, so it holds its issuer (R193). -/
def FeOp.holds (op : FeOp) : Bool := op != .stxf && op != .stxe
/-- The form is an acquire (R193). -/
def FeOp.isAcq (op : FeOp) : Bool := op = .ldff || op = .ldfe
/-- The form is a release (R193). -/
def FeOp.isRel (op : FeOp) : Bool := op = .stef || op = .stxf
/-- The form returns a value. -/
def FeOp.returns (op : FeOp) : Bool := op = .ldff || op = .ldfe || op = .fet

/-- A full/empty access to the own plate: performed at issue, or parked at once (R193). -/
def State.feOwn (s : State) (n : Nat) (op : FeOp) (e : Elem) (v : Word) (ret : Option SReg) (a : Access) : Act :=
  if !s.mayPerform n (s.core n).pend a then .stall s else
  match (s.core n).feTry op e.addr e.size v with
  | some (x, c) => .done ((((s.setCore n c).joinStore a).fePort n).giveBack n ret x)
  | none => .left (s.updCore n fun c =>
      { c with parked := c.parked ++ [⟨n, op, e.addr, e.size, v, ret⟩]
               hold := .blocked (Blocked.start (feCause op) 0 0 ret) })

/-- A full/empty access to another plate: its request goes out, and holds the issuer or not (R193). -/
def State.feRemote (s : State) (n : Nat) (op : FeOp) (e : Elem) (a : Access) : Act :=
  if !s.uscRoom n [e] then .stall s else
  let s := s.updCore n fun c => { c with pend := c.pend ++ [a] }
  if op.holds then .left (s.updCore n fun c => { c with hold := .fe a.id }) else .done s

/-- A full/empty access of `z` bytes at `ea` (R192). -/
def State.fullEmpty (s : State) (n : Nat) (op : FeOp) (d : BitVec 5) (ea : Word) (z : Nat) : Act :=
  let v := (s.core n).s d
  let ret := if op.returns then some ((s.core n).sreg d) else none
  match s.check n .fe 0 ea z true op.returns (!op.returns) with
  | .no a => a
  | .ok s e =>
    let t := match e.dest with | .plate t => t | _ => n
    let rel := if op.isRel then some (smallestScope n t) else none
    let (id, s') := s.newId
    let a := s.accessOf n id (.fe op v ret) e e.addr z op.isAcq rel
    if t = n then s.feOwn n op e v ret a else s'.feRemote n op e a

/-- A full/empty instruction. -/
def feInstr (gd : Guard) (s : State) (op : FeOp) (d b : BitVec 5) (z : BitVec 1) (o : BitVec 6) : Outcome :=
  let w := if z = 1 then 8 else 4
  scalarOp gd s fun s n => s.fullEmpty n op d ((s.core n).ea b o w) w

/-- `ldff` (R192). -/
def execLdff (gd : Guard) (d b : BitVec 5) (z : BitVec 1) (o : BitVec 6) (s : State) : Outcome := feInstr gd s .ldff d b z o
/-- `ldfe` (R192). -/
def execLdfe (gd : Guard) (d b : BitVec 5) (z : BitVec 1) (o : BitVec 6) (s : State) : Outcome := feInstr gd s .ldfe d b z o
/-- `fet` (R192). -/
def execFet (gd : Guard) (d b : BitVec 5) (z : BitVec 1) (o : BitVec 6) (s : State) : Outcome := feInstr gd s .fet d b z o
/-- `stef` (R192). -/
def execStef (gd : Guard) (d b : BitVec 5) (z : BitVec 1) (o : BitVec 6) (s : State) : Outcome := feInstr gd s .stef d b z o
/-- `stxf` (R192). -/
def execStxf (gd : Guard) (d b : BitVec 5) (z : BitVec 1) (o : BitVec 6) (s : State) : Outcome := feInstr gd s .stxf d b z o
/-- `stxe` (R192). -/
def execStxe (gd : Guard) (d b : BitVec 5) (z : BitVec 1) (o : BitVec 6) (s : State) : Outcome := feInstr gd s .stxe d b z o

end Sys2Proof.Machine
end

