-- ==== Sys2Proof/Machine/Atomics.lean ====
section
/-!
DEFINITION. Majors 0x1C and 0x1D: atomics and reductions, decrement-and-wake, fences and the range operations
(spec/10_memory_sync_messages.md R194 to R200).
-/
namespace Sys2Proof.Machine

/-! ### Atomics (R194 to R196) -/

/-- The acquire of an ORDER hint (R153, R196). -/
def Core.ordAcq (c : Core) : Bool := match c.hint 3 with | some p => bitOf p 3 | none => false
/-- The release of an ORDER hint and its scope. -/
def Core.ordRel (c : Core) : Option Nat :=
  match c.hint 3 with
  | some p => if bitOf p 4 then some (p.toNat % 8) else none
  | none => none

/-- An access to a plate or to main memory that is no load or plain store: the own plate is accessed now, every other
target through a queue (R195, R197). -/
def State.sendAtomic (s : State) (n : Nat) (e : Elem) (op : AccOp) (ret : Option SReg) (acq : Bool) (rel : Option Nat) :
    Act :=
  let (id, s') := s.newId
  let a := s.accessOf n id op e e.addr e.size acq rel
  if e.own n then
    if !s.mayPerform n (s.core n).pend a then .stall s else
      let (v, s) := s.applyAccess n a
      .done (s.giveBack n ret v)
  else if op.counted && !s.uscRoom n [e] then .stall s
  else .done (s'.updCore n fun c => { c with pend := c.pend ++ [a] })

/-- An atomic with operand s[b] on the `z` bytes at s[a]; `ret` is the destination of a form with return, whose old
contents are the expected value of `acas` (R194). -/
def State.atomic (s : State) (n : Nat) (op : AtomOp) (z : Nat) (ret : Option (BitVec 5)) (a b : BitVec 5) : Act :=
  let c := s.core n
  let d := ret.map c.sreg
  let x := c.s b
  let e0 := c.s (ret.getD 0)
  let acq := ret.isSome && c.ordAcq
  match s.check n .atom 0 (c.s a) z true true true with
  | .no a => a
  | .ok s e => s.sendAtomic n e (.atom op x e0 d) d acq c.ordRel

/-- Decrement-and-wake (R34, R197): a release at the smallest scope that holds the owner core, or a wider `.rel` (R36). -/
def State.decrementWake (s : State) (n : Nat) (ret : Option (BitVec 5)) (a b : BitVec 5) : Act :=
  let c := s.core n
  let d := ret.map c.sreg
  let amount := min (c.s b).toNat (2 ^ 32 - 1)
  let acq := ret.isSome && c.ordAcq
  match s.check n .dec 0 (c.s a) 4 true true true with
  | .no a => a
  | .ok s e =>
    let t := match e.dest with | .plate t => t | _ => n
    s.sendAtomic n { e with addr := e.addr + 8 } (.dec amount c.work d) d acq (some (max (smallestScope n t) (c.ordRel.getD 0)))

/-- `aswapD` (R194). -/
def execAswapD (gd : Guard) (d a b : BitVec 5) (s : State) : Outcome :=
  scalarOp gd s fun s n => s.atomic n .swap 8 (some d) a b
/-- `acasD` (R194). -/
def execAcasD (gd : Guard) (d a b : BitVec 5) (s : State) : Outcome :=
  scalarOp gd s fun s n => s.atomic n .cas 8 (some d) a b
/-- `aadd64` (R194). -/
def execAadd64 (gd : Guard) (d a b : BitVec 5) (s : State) : Outcome :=
  scalarOp gd s fun s n => s.atomic n .add 8 (some d) a b
/-- `aandD` (R194). -/
def execAandD (gd : Guard) (d a b : BitVec 5) (s : State) : Outcome :=
  scalarOp gd s fun s n => s.atomic n .and 8 (some d) a b
/-- `aorD` (R194). -/
def execAorD (gd : Guard) (d a b : BitVec 5) (s : State) : Outcome :=
  scalarOp gd s fun s n => s.atomic n .or 8 (some d) a b
/-- `axorD` (R194). -/
def execAxorD (gd : Guard) (d a b : BitVec 5) (s : State) : Outcome :=
  scalarOp gd s fun s n => s.atomic n .xor 8 (some d) a b
/-- `aminI64` (R194). -/
def execAminI64 (gd : Guard) (d a b : BitVec 5) (s : State) : Outcome :=
  scalarOp gd s fun s n => s.atomic n .minS 8 (some d) a b
/-- `amaxI64` (R194). -/
def execAmaxI64 (gd : Guard) (d a b : BitVec 5) (s : State) : Outcome :=
  scalarOp gd s fun s n => s.atomic n .maxS 8 (some d) a b
/-- `aminN64` (R194). -/
def execAminN64 (gd : Guard) (d a b : BitVec 5) (s : State) : Outcome :=
  scalarOp gd s fun s n => s.atomic n .minU 8 (some d) a b
/-- `amaxN64` (R194). -/
def execAmaxN64 (gd : Guard) (d a b : BitVec 5) (s : State) : Outcome :=
  scalarOp gd s fun s n => s.atomic n .maxU 8 (some d) a b
/-- `aadd32` (R194). -/
def execAadd32 (gd : Guard) (d a b : BitVec 5) (s : State) : Outcome :=
  scalarOp gd s fun s n => s.atomic n .add 4 (some d) a b
/-- `aswapW` (R194). -/
def execAswapW (gd : Guard) (d a b : BitVec 5) (s : State) : Outcome :=
  scalarOp gd s fun s n => s.atomic n .swap 4 (some d) a b
/-- `acasW` (R194). -/
def execAcasW (gd : Guard) (d a b : BitVec 5) (s : State) : Outcome :=
  scalarOp gd s fun s n => s.atomic n .cas 4 (some d) a b
/-- `aaddF32` (R194). -/
def execAaddF32 (gd : Guard) (d a b : BitVec 5) (s : State) : Outcome :=
  scalarOp gd s fun s n => s.atomic n .fadd 4 (some d) a b
/-- `aaddF64` (R194). -/
def execAaddF64 (gd : Guard) (d a b : BitVec 5) (s : State) : Outcome :=
  scalarOp gd s fun s n => s.atomic n .fadd 8 (some d) a b
/-- `qadd64` (R194). -/
def execQadd64 (gd : Guard) (a b : BitVec 5) (s : State) : Outcome :=
  scalarOp gd s fun s n => s.atomic n .add 8 none a b
/-- `qandD` (R194). -/
def execQandD (gd : Guard) (a b : BitVec 5) (s : State) : Outcome :=
  scalarOp gd s fun s n => s.atomic n .and 8 none a b
/-- `qorD` (R194). -/
def execQorD (gd : Guard) (a b : BitVec 5) (s : State) : Outcome :=
  scalarOp gd s fun s n => s.atomic n .or 8 none a b
/-- `qxorD` (R194). -/
def execQxorD (gd : Guard) (a b : BitVec 5) (s : State) : Outcome :=
  scalarOp gd s fun s n => s.atomic n .xor 8 none a b
/-- `qminI64` (R194). -/
def execQminI64 (gd : Guard) (a b : BitVec 5) (s : State) : Outcome :=
  scalarOp gd s fun s n => s.atomic n .minS 8 none a b
/-- `qmaxI64` (R194). -/
def execQmaxI64 (gd : Guard) (a b : BitVec 5) (s : State) : Outcome :=
  scalarOp gd s fun s n => s.atomic n .maxS 8 none a b
/-- `qminN64` (R194). -/
def execQminN64 (gd : Guard) (a b : BitVec 5) (s : State) : Outcome :=
  scalarOp gd s fun s n => s.atomic n .minU 8 none a b
/-- `qmaxN64` (R194). -/
def execQmaxN64 (gd : Guard) (a b : BitVec 5) (s : State) : Outcome :=
  scalarOp gd s fun s n => s.atomic n .maxU 8 none a b
/-- `qadd32` (R194). -/
def execQadd32 (gd : Guard) (a b : BitVec 5) (s : State) : Outcome :=
  scalarOp gd s fun s n => s.atomic n .add 4 none a b
/-- `qaddF32` (R194). -/
def execQaddF32 (gd : Guard) (a b : BitVec 5) (s : State) : Outcome :=
  scalarOp gd s fun s n => s.atomic n .fadd 4 none a b
/-- `qaddF64` (R194). -/
def execQaddF64 (gd : Guard) (a b : BitVec 5) (s : State) : Outcome :=
  scalarOp gd s fun s n => s.atomic n .fadd 8 none a b
/-- `adecw` (R197). -/
def execAdecw (gd : Guard) (d a b : BitVec 5) (s : State) : Outcome :=
  scalarOp gd s fun s n => s.decrementWake n (some d) a b
/-- `qdecw` (R197). -/
def execQdecw (gd : Guard) (a b : BitVec 5) (s : State) : Outcome :=
  scalarOp gd s fun s n => s.decrementWake n none a b

/-! ### Fences (R198) -/

/-- A fence joins the pending fences of its core (R80, R82). -/
def State.fence (s : State) (n : Nat) (all : Bool) (σ : Nat) : State :=
  let (id, s) := s.newId
  s.updCore n fun c => { c with pend := c.pend ++
    [⟨id, .fence all σ, .plate n, 0, 0, 0, .rc, .hbm, false, 0, c.own, c.sup, false, none, false, false, [], false, false⟩] }

/-- `fence.σ`. -/
def execFence (gd : Guard) (σ : BitVec 5) (s : State) : Outcome :=
  scalarOp gd s fun s n => .done (s.fence n false σ.toNat)
/-- `fence.all.σ`. -/
def execFenceAll (gd : Guard) (σ : BitVec 5) (s : State) : Outcome :=
  scalarOp gd s fun s n => .done (s.fence n true σ.toNat)

/-! ### Range operations (R199, R200) -/

/-- The page of a line lies on the flash tier, whose lines a range operation skips (R199). -/
def State.flashLeaf (s : State) (va : Nat) : List (Nat × Nat) → Nat → Option Word
  | [], _ => none
  | (lo, w) :: rest, base =>
    let a := base + 8 * (va / 2 ^ lo % 2 ^ w)
    if !s.populated a then none else
    let e := s.cRead s.moduleKey a 8
    if !bitOf e 0 then none
    else if bitOf e 1 then (if Leaf.tier e == 2 then some e else none)
    else if bitsOf e 63 52 != 0 || bitsOf e 7 2 != 0 then none
    else s.flashLeaf va rest (Leaf.frame e)

/-- The page of `va` lies on the flash tier (R199). -/
def State.flashFrom (s : State) (va : Nat) (l : List (Nat × Nat)) (base : Nat) : Bool := (s.flashLeaf va l base).isSome

/-- How far a range operation gets in one issue: to its end, or to an act that ends it early. -/
inductive RangeRes where
  | all (s : State)
  | no (a : Act)

/-- Check the page of each line from number `line` on, and queue one RC access of portion MEM for it when `q` says so
(R199); a full portion keeps the count of the lines issued. -/
def State.rangeLines (s : State) (n : Nat) (op : RangeOp) (q w : Bool) (line : Nat) : Nat → RangeRes
  | 0 => .all s
  | k + 1 =>
    let c := s.core n
    let ea := BitVec.ofNat 64 (128 * line)
    let flash := if decide (128 * line < 0x000E000000000000) && s.boot.state == 4 then
        s.flashLeaf (128 * line) tableLevels (s.rootOf c.own c.sup) else none
    let more (s : State) : State := s.updCore n fun c => { c with rangeAt := c.rangeAt + 1 }
    match flash with
    | some e => if leafAllows e (!w) w false then (more s).rangeLines n op q w (line + 1) k else .no (.trap s 0x05 ea)
    | none =>
    match s.check n .range 0 ea 128 false (!w) w with
    | .no a => .no a
    | .ok s e =>
      if !q then s.rangeLines n op q w (line + 1) k
      else if s.uscCount n .mem < 4095 then
        let (id, s') := s.newId
        let a := { s.accessOf n id (.range op) e (e.addr - e.addr % 128) 128 false none with kind := .rc, tier := .hbm }
        (more (s'.updCore n fun c => { c with pend := c.pend ++ [a] })).rangeLines n op q w (line + 1) k
      else .no (.stall s)

/-- The number of 128-byte lines of a range (R199). -/
def rangeCount (a len : Word) : Nat :=
  if len = 0 then 0 else (a.toNat + len.toNat - 1) / 128 - a.toNat / 128 + 1

/-- The lines of a range instruction, from the first it has not issued yet (R199). -/
def State.rangeOp (s : State) (n : Nat) (op : RangeOp) (q w : Bool) (a b : BitVec 5) : RangeRes :=
  let c := s.core n
  let len := c.s b
  if 2 ^ 32 < len.toNat then .no (.trap s 0x05 len)
  else
    match s.rangeLines n op q w ((c.s a).toNat / 128 + c.rangeAt) (rangeCount (c.s a) len - c.rangeAt) with
    | .all s => .all (s.updCore n fun c => { c with rangeAt := 0 })
    | .no a => .no a

/-- The operations of R199 complete at issue: their lines are performed later. -/
def RangeRes.act : RangeRes → Act
  | .all s => .done s
  | .no a => a

/-- `clean.range`. -/
def execCleanRange (gd : Guard) (a b : BitVec 5) (s : State) : Outcome :=
  scalarOp gd s fun s n => (s.rangeOp n .clean true false a b).act
/-- `inval.range`. -/
def execInvalRange (gd : Guard) (a b : BitVec 5) (s : State) : Outcome :=
  scalarOp gd s fun s n => (s.rangeOp n .inval true true a b).act
/-- `flush.range`. -/
def execFlushRange (gd : Guard) (a b : BitVec 5) (s : State) : Outcome :=
  scalarOp gd s fun s n => (s.rangeOp n .flush true false a b).act

/-- `icsync` (R94, R200): the core's own instruction-cache lines of the range are dropped, and the words fetched ahead. -/
def execIcsync (gd : Guard) (a b : BitVec 5) (s : State) : Outcome :=
  scalarOp gd s fun s n =>
    let c := s.core n
    let l := (c.s a).toNat / 128
    let k := rangeCount (c.s a) (c.s b)
    match s.rangeOp n .icinv false false a b with
    | .no a => a
    | .all s => .done (s.updCore n fun c =>
        { c with icache := c.icache.filter (fun x => !(l ≤ x.line / 2 && x.line / 2 < l + k)), ahead := [] })

/-- `icinv.range` (R94, R200): one RC access a line; the issuer stalls until every cache has dropped the range. -/
def execIcinvRange (gd : Guard) (a b : BitVec 5) (s : State) : Outcome :=
  scalarOp gd s fun s n =>
    match s.rangeOp n .icinv true false a b with
    | .no a => a
    | .all s => .left (s.updCore n fun c => { c with hold := .icinv })

end Sys2Proof.Machine
end

