-- ==== Sys2Proof/Machine/Messages.lean ====
section
/-!
DEFINITION. Major 0x1E: messages, inline child calls, ring pushes and pops and asynchronous loads
(spec/02_execution_model.md R30 to R39, spec/10_memory_sync_messages.md R201 to R205).
-/
namespace Sys2Proof.Machine

/-- The access a P access of core `n` counts as for R81: `size` bytes of the own plate from offset `off`. -/
def State.ownAccess (s : State) (n off size : Nat) (acq : Bool) (rel : Option Nat) : Access :=
  let c := s.core n
  ⟨0, .store 0, .plate n, off, size, 0, .rc, .hbm, false, 0, c.own, c.sup, acq, rel, false, false, [], false, false⟩

/-- It meets the condition of Perform (R80). -/
def State.ownReady (s : State) (n off size : Nat) (acq : Bool) (rel : Option Nat) : Bool :=
  s.mayPerform n (s.core n).pend (s.ownAccess n off size acq rel)

/-- Store words at plate offset `a` of the own plate. -/
def State.storeWords (s : State) (n a : Nat) (ws : List Word) : State :=
  (((List.range ws.length).zip ws).foldl (fun s (i, w) => s.plateStore n (a + 8 * i) 8 w) s).joinOrder (.plate n) (s.core n).own a
    (8 * ws.length)

/-- A message or push leaves core `n` for core `t`, its slot reserved: a store to the window of `t` and a release at the
smallest scope that holds both (R201, R202, R204). -/
def State.enterStore (s : State) (n t : Nat) (op : AccOp) : Act :=
  let c := s.core n
  let (id, s) := s.newId
  let j := match op with | .push j _ => j | _ => 0
  let g := (s.core t).ring j
  let a : Access :=
    ⟨id, op, .plate t, g.base.toNat * 64, 64 * g.size, 0, .rc, .hbm, false, 0, c.own, c.sup, false,
      some (smallestScope n t), false, false, if t = n then [] else linkPoints (9, n) (9, t), false, false⟩
  if t = n then .done (s.applyAccess n a).2
  else .done (s.updCore n fun c => { c with pend := c.pend ++ [a] })

/-- Portion of the window of core `t` has room for one more store (R74). -/
def State.windowRoom (s : State) (n t : Nat) : Bool :=
  match portionOf n (.plate t) .hbm with
  | none => true
  | some p => s.uscCount n p < 4095

/-- A message of core `n` to an inbox with a free slot comes after one that its ring engine still has to send there, unless the
lottery has granted it a slot before (R31, R147). -/
def State.mustFollow (s : State) (n t j : Nat) : Bool :=
  j == 0 && s.devBefore n t && (s.core t).hasRoom 0 && !((s.core t).portWait.any fun q => q.is n 0 0 && q.granted)

/-- Take a slot of ring `j` of core `t` and send, or wait with a cause of R44 while the ring is full. Where it has a slot that the
port does not give yet (R128, R324), or that a message of the core's ring engine is to take first (R31, R147), the word stalls. -/
def State.sendTo (s : State) (n t j cause : Nat) (op : AccOp) : Act :=
  if !s.windowRoom n t then .stall s
  else if t = n && !s.ownReady n 0 0 false (some 0) then .stall s
  else if s.mustFollow n t j then .stall s
  else match s.takeSlot n t j with
    | (true, s) => s.enterStore n t op
    | (false, s) => if (s.core t).hasRoom j then .stall s else .left (s.waitSlot n t j cause)

/-! ### Messages -/

/-- The message of R29, R30. -/
def Core.message (c : Core) (h : Word) : Rec :=
  mkRec [h, c.work, c.s 10, c.s 11, c.s 12, c.s 13, c.s 14, c.s 15]

/-- An inline child call (R38, R39) of the message `m`: the child finds the registers of R25, every other one a free value. -/
def State.inlineCall (s : State) (n : Nat) (m : Rec) : Act :=
  let c := s.core n
  let sp := c.s 31
  let f := sp - 128
  let base := plateBase n
  if sp.toNat % 64 ≠ 0 then .trap s 0x03 sp
  else if !(decide (base ≤ f.toNat) && decide (f.toNat + 128 ≤ base + 0x20000)) then .trap s 0x07 f
  else if !c.frameFree || !s.ownReady n (f.toNat - base) 128 false (some 0) then .stall s
  else
    let frame := (List.range 8).map (wordAt m) ++ [c.pc + 4, c.s 1, c.s 2, c.s 3, c.s 4, sp, c.work, 0]
    let s := s.storeWords n (f.toNat - base) frame
    let k := s.freeCtr
    let s := s.updCore n fun c =>
      { ((((((c.scramble k).setS 31 f).setS 1 f).setS 2 (wordAt m 1)).setS 3 0).setS 4 0) with
        work := wordAt m 1, depthCur := c.depthCur + 1
        handler := c.handler.map fun h => { h with frames := f :: h.frames } }
    .jump { s with freeCtr := k + scrambled } (wordAt m 0 &&& 0x000FFFFFFFFFFFF0)

/-- `send` (R201). -/
def execSend (gd : Guard) (a b : BitVec 5) (s : State) : Outcome :=
  scalarOp gd s fun s n =>
    let c := s.core n
    let t := (c.s b).toNat
    if 2048 ≤ t then .trap s 0x05 (c.s b)
    else if !(t == n || s.mayPlate n t) then .trap s 0x05 (c.s b)
    else
      let m := c.message (c.s a &&& 0x000FFFFFFFFFFFF4)
      let inline := t = n && bitOf (wordAt m 0) 2 && decide (c.depthCur < c.depthLimit)
      if inline && !c.hasRoom 0 then s.inlineCall n m
      else match if inline && (s.core n).portWait.any fun q => !q.granted then s.takeSlot n t 0 else (true, s) with
        | (false, s) => if (s.core n).hasRoom 0 then .stall s else (s.unwait n).inlineCall n m
        | (true, _) => s.sendTo n t 0 5 (.msg m)

/-! ### Rings -/

/-- A 64-byte record operand in the own plate: its plate offset, or the trap (R202, R203). -/
def ownRecord (n : Nat) (va : Word) : Except (BitVec 8) Nat :=
  let a := va.toNat
  let base := plateBase n
  if a < base ∨ base + 2 ^ 20 ≤ a then .error 0x05
  else if a % 64 ≠ 0 then .error 0x03
  else if 0x1FFC0 < a - base then .error 0x07
  else .ok (a - base)

/-- Where a push goes (R202). -/
inductive PushTo where
  | ring (t j : Nat)
  /-- rack `h` of the own core, the link of ring `j` -/
  | rack (j h : Nat)

/-- The checks of R202 on the ring reference. -/
def State.pushTarget (s : State) (n : Nat) (v : Word) : Option PushTo :=
  let c := s.core n
  let l := bitOf v 15
  let core := bitsOf v 14 4
  let j := bitsOf v 3 0
  let tgt : Option PushTo :=
    if bitsOf v 63 16 ≠ 0 then none
    else if l then
      match c.handler with
      | some h =>
        if (core != 0 || j != 0) || h.transfer.isSome || h.ring < 2 || !(c.ring h.ring).lv then none
        else if (c.ring h.ring).lr then some (.rack h.ring (c.ring h.ring).lrack.toNat)
        else some (.ring (c.ring h.ring).lcore.toNat (c.ring h.ring).lring.toNat)
      | none => none
    else if j < 2 then none else some (.ring core j)
  match tgt with
  | some (.ring t j) => if (t == n || s.mayPlate n t) && ((s.core t).ring j).log2n != 0 then some (.ring t j) else none
  | x => x

/-- The header of a pushed record (R137, R202). -/
def pushHeader (n kind : Nat) : Word := BitVec.ofNat 64 (kind + n * 2 ^ 13)

/-- `rpush` (R202), also the push of a `splice` (R273), whose record the caller builds. -/
def State.push (s : State) (n : Nat) (tgt : PushTo) (r : Rec) : Act :=
  match tgt with
  | .ring t j => s.sendTo n t j 4 (.push j r)
  | .rack j h =>
    if !s.ownReady n 0 0 false (some 0) then .stall s else
    match (s.core n).rackTake j h r with
    | some c => .done (s.setCore n c)
    | none => .stall s

/-- Push the record `r` whose source record is `src`; while it waits for a slot the core keeps what it read (R202). -/
def State.pushRead (s : State) (n : Nat) (tgt : PushTo) (src r : Rec) : Act :=
  match s.push n tgt r with
  | .left s => .left (s.updCore n fun c => { c with pushRec := some src })
  | .done s => .done (s.updCore n fun c => { c with pushRec := none })
  | a => a

/-- `rpush`. -/
def execRpush (gd : Guard) (a b : BitVec 5) (s : State) : Outcome :=
  scalarOp gd s fun s n =>
    let c := s.core n
    match s.pushTarget n (c.s a) with
    | none => .trap s 0x05 (c.s a)
    | some tgt =>
      match ownRecord n (c.s b) with
      | .error cause => .trap s cause (c.s b)
      | .ok off =>
        if c.pushRec.isNone && !s.ownReady n off 64 false none then .stall s
        else
          let r := c.pushRec.getD (c.plateRec off)
          let kind := recKind r
          if kind ≠ 2 ∧ kind ≠ 3 then .trap s 0x05 (wordAt r 0)
          else s.pushRead n tgt r (setWordAt r 0 (pushHeader n kind))

/-- A queue-mode ring of the own core (R203). -/
def Core.queueRing (c : Core) (v : Word) : Option Nat :=
  let j := v.toNat
  if 2 ≤ j ∧ j < 16 ∧ (c.ring j).log2n ≠ 0 ∧ (c.ring j).mode = 0 then some j else none

/-- `rpop` (R203): it waits while the ring is empty; an acquire (R204). -/
def execRpop (gd : Guard) (d a b : BitVec 5) (s : State) : Outcome :=
  scalarOp gd s fun s n =>
    let c := s.core n
    match c.queueRing (c.s b) with
    | none => .trap s 0x05 (c.s b)
    | some j =>
      match ownRecord n (c.s a) with
      | .error cause => .trap s cause (c.s a)
      | .ok off =>
        if (c.ring j).waiting = 0 then .left (s.block n 3 j n)
        else if !s.ownReady n off 64 true none then .stall s
        else
          let r := c.headRec j
          let s := s.storeWords n off ((List.range 8).map (wordAt r))
          .done (s.updCore n fun c => (c.consume j).setS d (wordAt r 0))

/-- `rpeek` (R203). -/
def execRpeek (gd : Guard) (d b : BitVec 5) (s : State) : Outcome :=
  scalarOp gd s fun s n =>
    let c := s.core n
    match c.queueRing (c.s b) with
    | none => .trap s 0x05 (c.s b)
    | some j =>
      if !s.ownReady n ((c.ring j).slotAt (c.ring j).disp) 64 false none then .stall s
      else .done (s.setCore n (c.setS d (if (c.ring j).waiting = 0 then 0 else wordAt (c.headRec j) 0)))

/-! ### Asynchronous loads -/

/-- Asynchronous loads of the core whose replies have not entered its inbox (R205). -/
def Core.asyncLoads (c : Core) : Nat :=
  (c.gathers.filter fun g => match g.dest with | .async .. => true | _ => false).length

/-- Issue an asynchronous load (R205): a plate or window load is performed in this move (R79), the own plate's reply with
it; another window's reply comes in a later move, without a stall. -/
def State.issueAsync (s : State) (n : Nat) (e : Elem) (reply work : Word) : Act :=
  if !e.atIssue || e.own n then s.issueLoads n (.async reply work) [e] e.va false false
  else
    let s := s.takeTags n [e]
    let (gid, s) := s.newId
    let a := s.accessOf n 0 (.load 0 0) e e.addr e.size false none
    let v := s.placeRead a
    .done ((s.cross a.owner n noLine a.path).updCore n fun c =>
      { c with gathers := c.gathers ++ [⟨gid, .async reply work, [⟨0, 0, 8, some v⟩], e.va, none, none⟩] })

/-- `ald.d` (R205). -/
def execAldD (gd : Guard) (a b : BitVec 5) (s : State) : Outcome :=
  scalarOp gd s fun s n =>
    let c := s.core n
    let reply := c.s b
    if bitsOf reply 63 52 ≠ 0 then .trap s 0x05 reply
    else match s.check n .async 0 (c.s a) 8 true true false with
      | .no a => a
      | .ok s e =>
        if 32 ≤ c.asyncLoads then .stall s
        else if !s.loadReady n [e] false || s.mustFollow n n 0 then .stall s
        else match s.takeSlot n n 0 with
          | (false, s) => if (s.core n).hasRoom 0 then .stall s else .left (s.waitSlot n n 0 5)
          | (true, s) => s.issueAsync n e reply c.work

end Sys2Proof.Machine
end

