-- ==== Sys2Proof/Machine/Vector.lean ====
section
/-!
DEFINITION. Majors 0x20 to 0x29: lanes, vector loads and stores, arithmetic, compares, conversions, reductions, scans,
permutes and approximate functions (spec/11_vector.md; spec/05_number_formats.md R101, R102, R108 to R110).
-/
namespace Sys2Proof.Machine

/-! ### Claiming and releasing lanes (R209) -/

/-- The lane count of a claim or release. -/
def Core.laneCount (c : Core) (a : BitVec 5) (k : BitVec 9) : Word := if a = 0 then k.setWidth 64 else c.s a

/-- A count that is no multiple of 16 or above 256 traps. -/
def badCount (k : Word) : Bool := k.toNat % 16 != 0 || decide (256 < k.toNat)

/-- The grant `g` and the demand `q` take effect. -/
def State.grant (s : State) (n : Nat) (d : BitVec 5) (g q : Nat) : State :=
  (s.setLanes n g).updCore n fun c => { c.setS d (BitVec.ofNat 64 g) with demand := q }

/-- The lanes a request of `c` gets (R209). -/
def State.lanesFor (s : State) (n c : Nat) : Nat := min c ((s.core n).lanes + s.freeLanes (clusterOf n))

/-- `claim`: it waits for a slot of the pool's lottery (class 5), which gives it what is free at that slot. -/
def execClaim (gd : Guard) (d a : BitVec 5) (k : BitVec 9) (s : State) : Outcome :=
  scalarOp gd s fun s n =>
    let c := s.core n
    let g := clusterOf n
    let want := c.laneCount a k
    if badCount want then .trap s 0x0D want
    else if (s.cluster g).claimGrants.contains n then
      let s := s.updCluster g fun x => { x with claimGrants := x.claimGrants.filter (· != n) }
      .done (s.updCore n fun c => c.setS d (BitVec.ofNat 64 c.lanes))
    else if (s.cluster g).claims.any (fun x => x.1 == n) || s.limited c.own 5 g || !mayQueue 5 c.own (s.entryOwners 5 g) then
      .stall s
    else .stall ((s.debit c.own 5 g).updCluster g fun x => { x with claims := x.claims ++ [(n, want.toNat)] })

/-- `vrelease`: at once, without a lottery. -/
def execVrelease (gd : Guard) (d a : BitVec 5) (k : BitVec 9) (s : State) : Outcome :=
  scalarOp gd s fun s n =>
    let c := s.core n
    let want := c.laneCount a k
    if badCount want then .trap s 0x0D want
    else .done (s.grant n d (c.lanes - min want.toNat c.lanes) 0)

/-! ### Vector loads and stores (R211, R212) -/

/-- The executing lanes with their addresses. -/
def Core.laneAddrs (c : Core) (gd : Guard) (f : Nat → Word) : List (Nat × Word) :=
  (c.execLanes gd).map fun i => (i, f i)

/-- The addresses of the three modes. -/
def Core.unitEa (c : Core) (a : BitVec 5) (z i : Nat) : Word := c.s a + BitVec.ofNat 64 (z * i)
def Core.strideEa (c : Core) (a b : BitVec 5) (i : Nat) : Word := c.s a + c.s b * BitVec.ofNat 64 i
def Core.indexEa (c : Core) (a b : BitVec 5) (i : Nat) : Word := c.s a + c.v b.toNat i

/-- A vector load: every lane is checked, then every lane is read or queued. -/
def vload (gd : Guard) (s : State) (d : BitVec 5) (z : BitVec 2) (f : Core → Nat → Word) : Outcome :=
  laneOp s fun s n =>
    match s.checkAll n .plain (2 ^ z.toNat) false true false ((s.core n).laneAddrs gd (f (s.core n))) [] with
    | .error a => a
    | .ok (s, es) => if es.isEmpty then .done s else s.issueLoads n (.vreg d.toNat (2 ^ z.toNat)) es 0 false false

/-- A vector store. -/
def vstore (gd : Guard) (s : State) (d : BitVec 5) (z : BitVec 2) (f : Core → Nat → Word) : Outcome :=
  laneOp s fun s n =>
    let c := s.core n
    match s.checkAll n .plain (2 ^ z.toNat) false false true (c.laneAddrs gd (f c)) [] with
    | .error a => a
    | .ok (s, es) => s.issueStores n (es.map fun e => (e, c.v d.toNat e.lane)) none

/-- `vld`. -/
def execVld (gd : Guard) (d a : BitVec 5) (z : BitVec 2) (s : State) : Outcome :=
  vload gd s d z fun c => c.unitEa a (2 ^ z.toNat)
/-- `vlds`. -/
def execVlds (gd : Guard) (d a b : BitVec 5) (z : BitVec 2) (s : State) : Outcome := vload gd s d z fun c => c.strideEa a b
/-- `vldx`. -/
def execVldx (gd : Guard) (d a b : BitVec 5) (z : BitVec 2) (s : State) : Outcome := vload gd s d z fun c => c.indexEa a b
/-- `vst`. -/
def execVst (gd : Guard) (d a : BitVec 5) (z : BitVec 2) (s : State) : Outcome :=
  vstore gd s d z fun c => c.unitEa a (2 ^ z.toNat)
/-- `vsts`. -/
def execVsts (gd : Guard) (d a b : BitVec 5) (z : BitVec 2) (s : State) : Outcome := vstore gd s d z fun c => c.strideEa a b
/-- `vstx`. -/
def execVstx (gd : Guard) (d a b : BitVec 5) (z : BitVec 2) (s : State) : Outcome := vstore gd s d z fun c => c.indexEa a b

/-! ### Lane-wise results (R207, R101) -/

/-- Write `w`-bit elements to lanes of v[d] (R207). -/
def Core.setLanesOf (c : Core) (d w : Nat) (l : List Nat) (f : Nat → Nat) : Core :=
  l.foldl (fun x i => x.setV d i (BitVec.ofNat 64 (f i % 2 ^ w))) c

/-- A lane-wise instruction: v[d][i] ← f i (mode of lane i) in every executing lane; one that rounds advances the index
of the user streams under SR (R101). -/
def State.lanewise (s : State) (n : Nat) (gd : Guard) (d w : Nat) (rounds : Bool) (f : Nat → RMode → Nat) : State :=
  let c := s.core n
  let l := c.execLanes gd
  s.setCore n ((c.setLanesOf d w l fun i => f i (s.modeAt n i)).srAdvance (rounds && !l.isEmpty))

/-- Lane `i` of v[r] as a number. -/
def Core.vn (c : Core) (r : BitVec 5) (i : Nat) : Nat := (c.v r.toNat i).toNat

/-! ### Floating point (R213, R214) -/

/-- The format of fn[4:3]. -/
def fmtOf (f : BitVec 2) : FFmt := match f.toNat with | 0 => f64 | 1 => f32 | 2 => f16 | _ => bf16

/-- A float instruction on two registers. -/
def vfloat (gd : Guard) (s : State) (d a b : BitVec 5) (f : BitVec 2) (rounds : Bool)
    (op : FFmt → RMode → Nat → Nat → Nat) : Outcome :=
  laneOp s fun s n =>
    let c := s.core n
    let t := fmtOf f
    .done (s.lanewise n gd d.toNat t.width rounds fun i md => op t md (c.vn a i % 2 ^ t.width) (c.vn b i % 2 ^ t.width))

/-- `vaddFp` (R213). -/
def execVaddFp (gd : Guard) (d a b : BitVec 5) (f : BitVec 2) (s : State) : Outcome :=
  vfloat gd s d a b f true fun t md x y => fAdd t md x y
/-- `vsubFp` (R213). -/
def execVsubFp (gd : Guard) (d a b : BitVec 5) (f : BitVec 2) (s : State) : Outcome :=
  vfloat gd s d a b f true fun t md x y => fSub t md x y
/-- `vmulFp` (R213). -/
def execVmulFp (gd : Guard) (d a b : BitVec 5) (f : BitVec 2) (s : State) : Outcome :=
  vfloat gd s d a b f true fun t md x y => fMul t md x y
/-- `vdiv` (R213). -/
def execVdiv (gd : Guard) (d a b : BitVec 5) (f : BitVec 2) (s : State) : Outcome :=
  vfloat gd s d a b f true fun t md x y => fDiv t md x y
/-- `vminFp` (R213). -/
def execVminFp (gd : Guard) (d a b : BitVec 5) (f : BitVec 2) (s : State) : Outcome :=
  vfloat gd s d a b f false fun t _ x y => fMin t x y
/-- `vmaxFp` (R213). -/
def execVmaxFp (gd : Guard) (d a b : BitVec 5) (f : BitVec 2) (s : State) : Outcome :=
  vfloat gd s d a b f false fun t _ x y => fMax t x y
/-- `vsqrt` (R213). -/
def execVsqrt (gd : Guard) (d a : BitVec 5) (f : BitVec 2) (s : State) : Outcome :=
  vfloat gd s d a 0 f true fun t md x _ => fSqrt t md x
/-- `vabsFp` (R213). -/
def execVabsFp (gd : Guard) (d a : BitVec 5) (f : BitVec 2) (s : State) : Outcome :=
  vfloat gd s d a 0 f false fun t _ x _ => fAbs t x

/-- The negation field of the ETYPE hint (R164). -/
def Core.negation (c : Core) : Nat := match c.hint 4 with | some p => p.toNat / 128 % 4 | none => 0

/-- The float format of a type code 8 to 11. -/
def fmtOfCode (k : Nat) : FFmt := match k with | 8 => f64 | 10 => f16 | 11 => bf16 | _ => f32

/-- `vfma` and its kin (R214). -/
def execVfma (gd : Guard) (d a b c : BitVec 5) (s : State) : Outcome :=
  laneOp s fun s n =>
    let x := s.core n
    let t := fmtOfCode (x.typeCode 9)
    let neg := x.negation
    let m := 2 ^ t.width
    .done (s.lanewise n gd d.toNat t.width true fun i md =>
      fFma t md (2 ≤ neg) (neg % 2 == 1) (x.vn a i % m) (x.vn b i % m) (x.vn c i % m))

/-! ### Integers (R215) -/

/-- The width of a type code (R153). -/
def codeWidth (k : Nat) : Nat :=
  match k with | 0 => 8 | 1 => 16 | 2 => 32 | 3 => 64 | 4 => 8 | 5 => 16 | 6 => 32 | 7 => 64 | 8 => 64 | 9 => 32 | _ => 16

/-- The operand of lane `i`: v[b][i], or s[b] in every lane with B = 1. -/
def Core.operandB (c : Core) (b : BitVec 5) (x : BitVec 1) (i : Nat) : Word := if x = 1 then c.s b else c.v b.toNat i

/-- An integer instruction at the width of its type; `u` is 1 for an unsigned type. -/
def vint (gd : Guard) (s : State) (d a b : BitVec 5) (x : BitVec 1)
    (op : {w : Nat} → BitVec 1 → BitVec w → BitVec w → BitVec w) : Outcome :=
  laneOp s fun s n =>
    let c := s.core n
    let k := c.typeCode 2
    let w := codeWidth k
    let u : BitVec 1 := if 4 ≤ k then 1 else 0
    .done (s.lanewise n gd d.toNat w false fun i _ =>
      (op u ((c.v a.toNat i).setWidth w) ((c.operandB b x i).setWidth w)).toNat)

/-- |xs| mod 2^w. -/
def laneAbs {w : Nat} (u : BitVec 1) (x : BitVec w) : BitVec w := if u = 0 && x.slt 0 then -x else x
/-- An exact sum or difference clamped to the range of the type. -/
def laneSat {w : Nat} (u : BitVec 1) (e : Int) : BitVec w := BitVec.ofInt w ((IFmt.mk (u = 0) w).clamp e)

/-- `vaddInt` (R215). -/
def execVaddInt (gd : Guard) (d a b : BitVec 5) (x : BitVec 1) (s : State) : Outcome :=
  vint gd s d a b x fun _ x y => aluAdd x y
/-- `vsubInt` (R215). -/
def execVsubInt (gd : Guard) (d a b : BitVec 5) (x : BitVec 1) (s : State) : Outcome :=
  vint gd s d a b x fun _ x y => aluSub x y
/-- `vmulInt` (R215). -/
def execVmulInt (gd : Guard) (d a b : BitVec 5) (x : BitVec 1) (s : State) : Outcome :=
  vint gd s d a b x fun _ x y => aluMul x y
/-- `vmulh` (R215). -/
def execVmulh (gd : Guard) (d a b : BitVec 5) (x : BitVec 1) (s : State) : Outcome :=
  vint gd s d a b x fun u x y => aluMulh u x y
/-- `vminInt` (R215). -/
def execVminInt (gd : Guard) (d a b : BitVec 5) (x : BitVec 1) (s : State) : Outcome :=
  vint gd s d a b x fun u x y => aluMin u x y
/-- `vmaxInt` (R215). -/
def execVmaxInt (gd : Guard) (d a b : BitVec 5) (x : BitVec 1) (s : State) : Outcome :=
  vint gd s d a b x fun u x y => aluMax u x y
/-- `vand` (R215). -/
def execVand (gd : Guard) (d a b : BitVec 5) (x : BitVec 1) (s : State) : Outcome :=
  vint gd s d a b x fun _ x y => x &&& y
/-- `vor` (R215). -/
def execVor (gd : Guard) (d a b : BitVec 5) (x : BitVec 1) (s : State) : Outcome :=
  vint gd s d a b x fun _ x y => x ||| y
/-- `vxor` (R215). -/
def execVxor (gd : Guard) (d a b : BitVec 5) (x : BitVec 1) (s : State) : Outcome :=
  vint gd s d a b x fun _ x y => x ^^^ y
/-- `vandn` (R215). -/
def execVandn (gd : Guard) (d a b : BitVec 5) (x : BitVec 1) (s : State) : Outcome :=
  vint gd s d a b x fun _ x y => aluAndn x y
/-- `vshl` (R215). -/
def execVshl (gd : Guard) (d a b : BitVec 5) (x : BitVec 1) (s : State) : Outcome :=
  vint gd s d a b x fun _ x y => aluShl x y
/-- `vshr` (R215). -/
def execVshr (gd : Guard) (d a b : BitVec 5) (x : BitVec 1) (s : State) : Outcome :=
  vint gd s d a b x fun u x y => aluShr u x y
/-- `vrotl` (R215). -/
def execVrotl (gd : Guard) (d a b : BitVec 5) (x : BitVec 1) (s : State) : Outcome :=
  vint gd s d a b x fun _ x y => aluRotl x y
/-- `vadds` (R215). -/
def execVadds (gd : Guard) (d a b : BitVec 5) (x : BitVec 1) (s : State) : Outcome :=
  vint gd s d a b x fun u x y => laneSat u (aluInt u x + aluInt u y)
/-- `vsubs` (R215). -/
def execVsubs (gd : Guard) (d a b : BitVec 5) (x : BitVec 1) (s : State) : Outcome :=
  vint gd s d a b x fun u x y => laneSat u (aluInt u x - aluInt u y)
/-- `vabsInt` (R215). -/
def execVabsInt (gd : Guard) (d a : BitVec 5) (s : State) : Outcome := vint gd s d a 0 0 fun u x _ => laneAbs u x

/-! ### Compares and conversions (R216 to R218) -/

/-- Continue with an element type; an invalid descriptor raises trap 0x01 with the fmt register's number (R102), unless the
instruction executes in no lane, where no element of the type is made (R13, R53). -/
def State.withType (s : State) (c : Core) (gd : Guard) (code r : Nat) (k : EType → Act) : Act :=
  match etypeOf code (c.fmt r) with
  | some t => k t
  | none => if (c.execLanes gd).isEmpty then k (.flt f32) else .trap s 0x01 (BitVec.ofNat 64 r)

/-- A condition code on the order of two exact values; a NaN operand makes only `ne` hold (R216). -/
def condHolds (cc : BitVec 3) (o : Option Int) : Bool :=
  match o, cc.toNat with
  | none, 1 => true
  | none, _ => false
  | some x, 0 => x == 0
  | some x, 1 => x != 0
  | some x, 2 => decide (x < 0)
  | some x, 3 => decide (x ≤ 0)
  | some x, 4 => decide (0 < x)
  | some x, _ => decide (0 ≤ x)

/-- The predicate a lane-wise test leaves: executing lanes take the test, other lanes below Lanes keep their bits, and
bits from Lanes on are 0. -/
def Core.lanePred (c : Core) (gd : Guard) (d : Nat) (f : Nat → Bool) : Pred :=
  let old := c.p d
  BitVec.ofNat 256 ((List.range c.lanes).foldl (fun v i =>
    v + (if (if c.lane gd i then f i else bitOf old i) then 2 ^ i else 0)) 0)

/-- `vcmp` (R216). -/
def execVcmp (gd : Guard) (d a b : BitVec 5) (x : BitVec 1) (cc : BitVec 3) (s : State) : Outcome :=
  laneOp s fun s n =>
    let c := s.core n
    s.withType c gd (c.typeCode 9) c.typeFmt fun t =>
      let m := 2 ^ t.width
      .done (s.setCore n (c.setP d.toNat (c.lanePred gd d.toNat fun i =>
        condHolds cc ((t.val 0 (c.vn a i % m)).cmp (t.val 0 ((c.operandB b x i).toNat % m))))))

/-- The fmt register of the destination type (R153, R217). -/
def Core.destFmt (c : Core) : Nat := match c.hint 4 with | some p => p.toNat / 4096 % 8 | none => 0

/-- `vcvt` (R217). DESIGN CHOICE (log 74): with both descriptors invalid, the trap names the register of the source, the spec giving no
order (R102). -/
def execVcvt (gd : Guard) (d a b : BitVec 5) (t : BitVec 4) (s : State) : Outcome :=
  laneOp s fun s n =>
    let c := s.core n
    s.withType c gd (c.typeCode 9) c.typeFmt fun src =>
      s.withType c gd t.toNat c.destFmt fun dst =>
        let e := ((c.s b).extractLsb' 0 8).toInt
        .done (s.lanewise n gd d.toNat dst.width true fun i md => (convert src dst e md (c.vn a i % 2 ^ src.width)).bits)

/-- `vcvn` (R218): v[d] takes the narrowed values and v[b] the residuals in the source format. -/
def execVcvn (gd : Guard) (d a b : BitVec 5) (t : BitVec 4) (s : State) : Outcome :=
  laneOp s fun s n =>
    let c := s.core n
    let g := fmtOfCode (c.typeCode 9)
    s.withType c gd t.toNat c.destFmt fun dst =>
      let f := match dst with | .flt f => f | _ => f32
      let r (i : Nat) := convert (.flt g) dst 0 (s.modeAt n i) (c.vn a i % 2 ^ g.width)
      let l := c.execLanes gd
      let x := c.setLanesOf d.toNat f.width l fun i => (r i).bits
      let x := x.setLanesOf b.toNat g.width l fun i => residual g f (c.vn a i % 2 ^ g.width) (r i)
      .done (s.setCore n (x.srAdvance (!l.isEmpty)))

/-! ### Packed elements (R219) -/

/-- Sources beyond the grant read as 0. -/
def Core.vLane (c : Core) (r : BitVec 5) (i : Nat) : Nat := if i < c.lanes then c.vn r i else 0
/-- Bits [hi:lo] of a number. -/
def nbits (x hi lo : Nat) : Nat := x / 2 ^ lo % 2 ^ (hi + 1 - lo)
/-- The sum of `n` fields of width `w`. -/
def packBits (n w : Nat) (f : Nat → Nat) : Nat := (List.range n).foldl (fun v t => v + f t * 2 ^ (w * t)) 0

/-- `vpack4`. -/
def execVpack4 (gd : Guard) (d a : BitVec 5) (s : State) : Outcome :=
  laneOp s fun s n =>
    let c := s.core n
    .done (s.lanewise n gd d.toNat 64 false fun q _ => packBits 16 4 fun t => c.vLane a (16 * q + t) % 16)
/-- `vunp4`. -/
def execVunp4 (gd : Guard) (d a : BitVec 5) (s : State) : Outcome :=
  laneOp s fun s n =>
    let c := s.core n
    .done (s.lanewise n gd d.toNat 64 false fun i _ => c.vLane a (i / 16) / 2 ^ (4 * (i % 16)) % 16)
/-- `vpack6`: the nibble plane to v[d], the 2-bit plane to v[b]. -/
def execVpack6 (gd : Guard) (d a b : BitVec 5) (s : State) : Outcome :=
  laneOp s fun s n =>
    let c := s.core n
    let l := c.execLanes gd
    let x := c.setLanesOf d.toNat 64 l fun q => packBits 16 4 fun t => nbits (c.vLane a (16 * q + t)) 5 2
    let x := x.setLanesOf b.toNat 64 l fun q => packBits 32 2 fun t => nbits (c.vLane a (32 * q + t)) 1 0
    .done (s.setCore n x)
/-- `vunp6`. -/
def execVunp6 (gd : Guard) (d a b : BitVec 5) (s : State) : Outcome :=
  laneOp s fun s n =>
    let c := s.core n
    .done (s.lanewise n gd d.toNat 64 false fun i _ =>
      c.vLane a (i / 16) / 2 ^ (4 * (i % 16)) % 16 * 4 + c.vLane b (i / 32) / 2 ^ (2 * (i % 32)) % 4)

/-! ### Reductions and scans (R108, R220) -/

/-- Combine neighbours; an odd last element is carried. -/
def pairUp (f : Nat → Nat → Nat → Nat) : Nat → List Nat → List Nat
  | i, x :: y :: l => f i x y :: pairUp f (i + 1) l
  | _, l => l

/-- The pairwise tree from level `k` on; `f j` combines with element number j. -/
def treeReduce (f : Nat → Nat → Nat → Nat) : Nat → Nat → List Nat → List Nat
  | 0, _, l => l
  | fuel + 1, k, l =>
    if l.length ≤ 1 then l else treeReduce f fuel (k + 1) (pairUp (fun i => f (256 * (k - 1) + i)) 0 l)

/-- The scan steps from step `k` on. -/
def scanSteps (f : Nat → Nat → Nat → Nat) : Nat → Nat → List Nat → List Nat
  | 0, _, l => l
  | fuel + 1, k, l =>
    let d := 2 ^ (k - 1)
    if l.length ≤ d then l else
      scanSteps f fuel (k + 1) ((List.range l.length).map fun i =>
        if i < d then l.getD i 0 else f (256 * (k - 1) + i) (l.getD (i - d) 0) (l.getD i 0))

/-- The operations of R220. -/
inductive RedOp where
  | add | min | max | and | or | xor
  deriving DecidableEq, Repr

/-- The element a guarded-off lane contributes. -/
def RedOp.identity (op : RedOp) (t : EType) : Nat :=
  match op, t with
  | .add, .flt f => f.signBit
  | .min, .flt f => f.infCode
  | .max, .flt f => f.signBit + f.infCode
  | .min, .int f => f.enc f.hi
  | .max, .int f => f.enc f.lo
  | .and, t => 2 ^ t.width - 1
  | _, _ => 0

/-- Two elements combined. -/
def RedOp.combine (op : RedOp) (t : EType) (md : RMode) (x y : Nat) : Nat :=
  match op, t with
  | .add, .flt f => fAdd f md x y
  | .min, .flt f => fMin f x y
  | .max, .flt f => fMax f x y
  | .add, t => (x + y) % 2 ^ t.width
  | .min, .int f => if f.int y < f.int x then y else x
  | .max, .int f => if f.int x < f.int y then y else x
  | .and, _ => x &&& y
  | .or, _ => x ||| y
  | .xor, _ => x ^^^ y
  | _, .mass => x

/-- The elements of v[a] below Lanes, with identities in guarded-off lanes. -/
def Core.redLanes (c : Core) (gd : Guard) (a : BitVec 5) (op : RedOp) (t : EType) : List Nat :=
  (List.range c.lanes).map fun i => if c.lane gd i then c.vn a i % 2 ^ t.width else op.identity t

/-- The additions of a float reduction or scan round. -/
def RedOp.rounds (op : RedOp) (t : EType) (l : List Nat) : Bool :=
  match op, t with
  | .add, .flt _ => decide (2 ≤ l.length)
  | _, _ => false

/-- A reduction into s[d]; with no executing lane s[d] keeps its value. -/
def vreduce (gd : Guard) (s : State) (d a : BitVec 5) (op : RedOp) : Outcome :=
  laneOp s fun s n =>
    let c := s.core n
    let code := c.typeCode 9
    s.withType c gd code 0 fun t =>
      if (c.execLanes gd).isEmpty then .done s
      else
        let l := c.redLanes gd a op t
        let r := BitVec.ofNat 64 ((treeReduce (fun j => op.combine t (s.modeAt n j)) 8 1 l).headD 0)
        let v := if code < 4 then sextN t.width r else r
        .done (s.setCore n ((c.setS d v).srAdvance (op.rounds t l)))

/-- A scan into v[d]. -/
def vscan (gd : Guard) (s : State) (d a : BitVec 5) (op : RedOp) : Outcome :=
  laneOp s fun s n =>
    let c := s.core n
    s.withType c gd (c.typeCode 9) 0 fun t =>
      if (c.execLanes gd).isEmpty then .done s
      else
        let l := c.redLanes gd a op t
        let r := scanSteps (fun j => op.combine t (s.modeAt n j)) 8 1 l
        .done (s.setCore n ((c.setLanesOf d.toNat t.width (c.execLanes gd) fun i => r.getD i 0).srAdvance (op.rounds t l)))

/-- `vrsum` (R220). -/
def execVrsum (gd : Guard) (d a : BitVec 5) (s : State) : Outcome := vreduce gd s d a .add
/-- `vrmin` (R220). -/
def execVrmin (gd : Guard) (d a : BitVec 5) (s : State) : Outcome := vreduce gd s d a .min
/-- `vrmax` (R220). -/
def execVrmax (gd : Guard) (d a : BitVec 5) (s : State) : Outcome := vreduce gd s d a .max
/-- `vrand` (R220). -/
def execVrand (gd : Guard) (d a : BitVec 5) (s : State) : Outcome := vreduce gd s d a .and
/-- `vror` (R220). -/
def execVror (gd : Guard) (d a : BitVec 5) (s : State) : Outcome := vreduce gd s d a .or
/-- `vrxor` (R220). -/
def execVrxor (gd : Guard) (d a : BitVec 5) (s : State) : Outcome := vreduce gd s d a .xor
/-- `vssum` (R220). -/
def execVssum (gd : Guard) (d a : BitVec 5) (s : State) : Outcome := vscan gd s d a .add
/-- `vsmin` (R220). -/
def execVsmin (gd : Guard) (d a : BitVec 5) (s : State) : Outcome := vscan gd s d a .min
/-- `vsmax` (R220). -/
def execVsmax (gd : Guard) (d a : BitVec 5) (s : State) : Outcome := vscan gd s d a .max
/-- `vsand` (R220). -/
def execVsand (gd : Guard) (d a : BitVec 5) (s : State) : Outcome := vscan gd s d a .and
/-- `vsor` (R220). -/
def execVsor (gd : Guard) (d a : BitVec 5) (s : State) : Outcome := vscan gd s d a .or
/-- `vsxor` (R220). -/
def execVsxor (gd : Guard) (d a : BitVec 5) (s : State) : Outcome := vscan gd s d a .xor

/-! ### Permutes, slides, broadcasts and fmt access (R221, R222) -/

/-- The width of the moved element, 32 bits without a hint (R166). -/
def Core.moveWidth (c : Core) : Nat := codeWidth (c.typeCode 6)

/-- A move of elements into executing lanes. -/
def vmove (gd : Guard) (s : State) (d : BitVec 5) (f : Core → Nat → Nat) : Outcome :=
  laneOp s fun s n => .done (s.lanewise n gd d.toNat (s.core n).moveWidth false fun i _ => f (s.core n) i)

/-- `vbcast`. -/
def execVbcast (gd : Guard) (d a : BitVec 5) (s : State) : Outcome := vmove gd s d fun c _ => (c.s a).toNat
/-- `vslideup`: lanes below k keep their contents. -/
def execVslideup (gd : Guard) (d a b : BitVec 5) (s : State) : Outcome :=
  laneOp s fun s n =>
    let c := s.core n
    let k := (c.s b).toNat
    .done (s.setCore n (c.setLanesOf d.toNat c.moveWidth ((c.execLanes gd).filter fun i => k ≤ i) fun i => c.vn a (i - k)))
/-- `vslidedn`. -/
def execVslidedn (gd : Guard) (d a b : BitVec 5) (s : State) : Outcome :=
  vmove gd s d fun c i => c.vLane a (i + (c.s b).toNat)
/-- `vperm`. -/
def execVperm (gd : Guard) (d a b : BitVec 5) (s : State) : Outcome :=
  vmove gd s d fun c i => c.vLane a (c.vn b i % 2 ^ c.moveWidth)
/-- `vmov`. -/
def execVmov (gd : Guard) (d a : BitVec 5) (s : State) : Outcome := vmove gd s d fun c i => c.vn a i
/-- `vext`: scalar for the guard; an index beyond the grant gives 0. -/
def execVext (gd : Guard) (d a b : BitVec 5) (s : State) : Outcome :=
  regOp gd s fun c =>
    let w := c.moveWidth
    let v := BitVec.ofNat 64 (c.vLane a (c.s b).toNat)
    c.setS d (if c.typeCode 6 < 4 then sextN w v else zextN w v)
/-- `vins`: one lane. -/
def execVins (gd : Guard) (d a b : BitVec 5) (s : State) : Outcome :=
  laneOp s fun s n =>
    let c := s.core n
    let k := (c.s b).toNat
    .done (s.setCore n (c.setLanesOf d.toNat c.moveWidth ((c.execLanes gd).filter fun i => i == k) fun _ => (c.s a).toNat))
/-- `vidx`. -/
def execVidx (gd : Guard) (d : BitVec 5) (s : State) : Outcome := vmove gd s d fun _ i => i
/-- `fmtld`. -/
def execFmtld (gd : Guard) (d a : BitVec 5) (s : State) : Outcome :=
  regOp gd s fun c => { c with fregs := c.fregs.setIfInBounds d.toNat (c.s a) }
/-- `fmtrd`. -/
def execFmtrd (gd : Guard) (d a : BitVec 5) (s : State) : Outcome := regOp gd s fun c => c.setS d (c.fmt a.toNat)

/-! ### Approximate functions (R110, R223) -/

/-- An approximate function of one register. -/
def vapprox (gd : Guard) (s : State) (d a : BitVec 5) (f : BitVec 2) (op : FFmt → Nat → Nat) : Outcome :=
  laneOp s fun s n =>
    let c := s.core n
    let t := fmtOf f
    .done (s.lanewise n gd d.toNat t.width false fun i _ => op t (c.vn a i % 2 ^ t.width))

/-- `vrcp`. -/
def execVrcp (gd : Guard) (d a : BitVec 5) (f : BitVec 2) (s : State) : Outcome := vapprox gd s d a f fRcp
/-- `vrsqrt`. -/
def execVrsqrt (gd : Guard) (d a : BitVec 5) (f : BitVec 2) (s : State) : Outcome := vapprox gd s d a f fRsqrt
/-- `vexp2`. -/
def execVexp2 (gd : Guard) (d a : BitVec 5) (f : BitVec 2) (s : State) : Outcome := vapprox gd s d a f fExp2
/-- `vlog2`. -/
def execVlog2 (gd : Guard) (d a : BitVec 5) (f : BitVec 2) (s : State) : Outcome := vapprox gd s d a f fLog2

end Sys2Proof.Machine
end

