-- ==== Sys2Proof/Machine/Jobs.lean ====
section
/-!
DEFINITION. Majors 0x30 and 0x31: the job queue, the cards of matrix, copy, bank-op and collective jobs, and polling,
waiting for and cancelling jobs (spec/12_matrix_copy_jobs.md R225 to R237, R240, R246).
-/
namespace Sys2Proof.Machine

/-! ### The queue (R226, R227) -/

/-- STATE of a job as its code. -/
def JobState.code : JobState → Nat
  | .done => 0 | .queued => 1 | .running => 2 | .suspended => 3 | .failed => 4 | .cancelled => 5

/-- The status word (R227). -/
def Job.status (j : Job) : Word :=
  BitVec.ofNat 64 (j.cause * 2 ^ 56 + j.state.code * 2 ^ 52 + (if j.type = 3 then 0 else j.prog % 2 ^ 48))
/-- The job identifier (R226). -/
def jobId (g : Nat) (seq : BitVec 32) (type entry : Nat) : Word :=
  BitVec.ofNat 64 (g * 2 ^ 40 + seq.toNat * 2 ^ 8 + type * 2 ^ 6 + entry)
/-- The identifier of the job in entry `e` of cluster `g`. -/
def Job.id (j : Job) (g e : Nat) : Word := jobId g j.seq j.type e
/-- The entry may be allocated: none, or that of a job done or cancelled. -/
def entryFree (j : Option Job) : Bool := match j with | none => true | some x => x.state == .done || x.state == .cancelled

/-- Entries of cluster `g` that owner `o` holds or has been granted. -/
def State.entriesHeld (s : State) (g o : Nat) : Nat :=
  let c := s.cluster g
  (c.jobs.toList.filter fun j => match j with | some x => !entryFree j && x.owner == o | none => false).length
    + (c.admitGrants.filter fun n => (s.core n).own == o).length

/-- Entries of cluster `g` neither held nor granted. -/
def State.entriesFree (s : State) (g : Nat) : Nat :=
  let c := s.cluster g
  (c.jobs.toList.filter entryFree).length - c.admitGrants.length

/-- Owner `o` may take an entry: one of the four reserved for it, or a shared one (R123, R226). -/
def State.mayAdmit (s : State) (g o : Nat) : Bool :=
  let others := ((s.clusterOwners g).filter (· != o)).map fun q => 4 - s.entriesHeld g q
  s.entriesFree g != 0 && (decide (s.entriesHeld g o < 4) || decide (others.sum < s.entriesFree g))

/-- A job instruction or a tree access is an RC access without bytes of its own (R88, R90): it waits for older fences and
acquires. -/
def State.rcReady (s : State) (n : Nat) : Bool :=
  let c := s.core n
  s.mayPerform n c.pend
    ⟨0, .load 0 0, .cluster (clusterOf n), 2 ^ 40, 0, 0, .rc, .hbm, false, 0, c.own, c.sup, false, none, false, false, [], false, false⟩

/-! ### Cards (R234) -/

/-- A card or descriptor of `len` bytes in the own plate: its plate offset, or the trap of steps 1 to 3. -/
def ownBlock (n : Nat) (va : Word) (len : Nat) : Except (BitVec 8) Nat :=
  let a := va.toNat
  let base := plateBase n
  if a < base ∨ base + 2 ^ 20 ≤ a then .error 0x05
  else if a % 64 ≠ 0 then .error 0x03
  else if 0x20000 < a - base + len then .error 0x07
  else .ok (a - base)

/-- A card that has passed the checks: its job, and the accumulator tiles it uses. -/
structure Spec where
  type : Nat
  card : List Word
  fmtA : Word
  fmtB : Word
  reads : List (Nat × Nat)
  writes : List (Nat × Nat)
  tiles : List Nat
  deriving DecidableEq, Repr

/-- The first check that fails. -/
def firstTrap : List (Bool × BitVec 8 × Word) → Option (BitVec 8 × Word)
  | [] => none
  | (true, c, i) :: _ => some (c, i)
  | (false, _, _) :: l => firstTrap l

/-- The 32-bit word at byte `b` of a card. -/
def cw32 (ws : List Word) (b : Nat) : BitVec 32 := (cw ws (b / 8)).extractLsb' (8 * (b % 8)) 32

/-- Addresses below the windows are main memory (R56). -/
def mainTop : Nat := 0x000E000000000000

/-! ### The matrix card (R228 to R231) -/

namespace MCard
def doff (w : List Word) : Nat := bitsOf (cw w 0) 63 54 * 128
def dcore (w : List Word) : Nat := bitsOf (cw w 0) 53 43
def k (w : List Word) : Nat := bitsOf (cw w 0) 42 27 + 1
def acc (w : List Word) : Nat := bitsOf (cw w 0) 26 20
def clr (w : List Word) : Bool := bitOf (cw w 0) 19
def drn (w : List Word) : Bool := bitOf (cw w 0) 18
def wake (w : List Word) : Bool := bitOf (cw w 0) 17
def afmt (w : List Word) : Nat := bitsOf (cw w 0) 16 13
def bfmt (w : List Word) : Nat := bitsOf (cw w 0) 12 9
def areg (w : List Word) : Nat := bitsOf (cw w 0) 8 6
def breg (w : List Word) : Nat := bitsOf (cw w 0) 5 3
def a (w : List Word) : Nat := bitsOf (cw w 1) 51 0
def b (w : List Word) : Nat := bitsOf (cw w 2) 51 0
def sa (w : List Word) : Nat := bitsOf (cw w 3) 63 32
def sb (w : List Word) : Nat := bitsOf (cw w 3) 31 0
def ssa (w : List Word) : Nat := bitsOf (cw w 4) 63 32
def ssb (w : List Word) : Nat := bitsOf (cw w 4) 31 0
def pa (w : List Word) : Nat := bitsOf (cw w 5) 63 32
def pb (w : List Word) : Nat := bitsOf (cw w 5) 31 0
def whand (w : List Word) : Word := cw w 6 &&& 0x000FFFFFFFFFFFF0
def user (w : List Word) : Word := cw w 7 >>> 32
end MCard

/-- The accumulator format of a pair of operand codes (R229): a float format, `i32`, or malformed. -/
inductive AccFmt where
  | flt (f : FFmt)
  | int
  deriving DecidableEq, Repr

/-- R229. -/
def accFmt (a b : Nat) : Option AccFmt :=
  if 10 ≤ a && a ≤ 12 && 10 ≤ b && b ≤ 12 then some (.flt f32)
  else if a = 9 && b = 9 then some (.flt f32)
  else if a = 8 && b = 8 then some (.flt f64)
  else if (a = 0 || a = 4) && (b = 0 || b = 4) then some .int
  else none

/-- Bits of an operand element, also under an invalid descriptor. -/
def operandWidth (code : Nat) (desc : Word) : Nat :=
  if code = 12 then bitsOf desc 2 0 + 4 else match etypeOf code 0 with | some t => t.width | none => 8

/-- The operand is planar (R104). -/
def operandPlanar (code : Nat) (desc : Word) : Bool := code == 12 && fmtPlanar desc && (narrowFmt desc).isSome

/-- The base of an operand's scale tensor, 0 for none (R102, R106). -/
def scaleBase (code : Nat) (desc : Word) : Nat := if code = 12 then fmtScale desc * 128 else 0

/-- Bytes from the start of a row of `k` elements to its end, over both planes of a planar one (R231). -/
def rowExtent (planar : Bool) (w k p : Nat) : Nat :=
  if planar then max ((4 * k + 7) / 8) (p + (2 * k + 7) / 8) else (k * w + 7) / 8

/-- The read regions of a matrix job (R231). -/
def matrixReads (w : List Word) (fa fb : Word) : List (Nat × Nat) :=
  let k := MCard.k w
  let blocks := (k + 3) / 4
  let ea := rowExtent (operandPlanar (MCard.afmt w) fa) (operandWidth (MCard.afmt w) fa) k (MCard.pa w)
  let eb := rowExtent (operandPlanar (MCard.bfmt w) fb) (operandWidth (MCard.bfmt w) fb) 32 (MCard.pb w)
  let sa0 := scaleBase (MCard.afmt w) fa
  let sb0 := scaleBase (MCard.bfmt w) fb
  [(MCard.a w, MCard.a w + 31 * MCard.sa w + ea), (MCard.b w, MCard.b w + (k - 1) * MCard.sb w + eb)]
    ++ (if sa0 = 0 then [] else [(sa0, sa0 + 31 * MCard.ssa w + blocks)])
    ++ (if sb0 = 0 then [] else [(sb0, sb0 + (blocks - 1) * MCard.ssb w + 32)])

/-- Tiles of the accumulator. -/
def accTiles (w : List Word) : List Nat :=
  if accFmt (MCard.afmt w) (MCard.bfmt w) = some (.flt f64) then [MCard.acc w, MCard.acc w + 1] else [MCard.acc w]

/-- Bytes of the drain. -/
def drainBytes (w : List Word) : Nat := 4096 * (accTiles w).length

/-- R230: element, row-stride and plane alignment of one operand. -/
def operandAligned (planar : Bool) (w base stride p : Nat) : Bool :=
  if planar then base % 128 == 0 && stride % 128 == 0 && (base + p) % 64 == 0
  else if 16 ≤ w then base % (w / 8) == 0 && stride % (w / 8) == 0 else true

/-- A target core passes R58 for core `n`. -/
def State.targetOk (s : State) (n t : Nat) : Bool := t == n || s.mayPlate n t

/-- The card of `mjob` (R228 to R231, R234 steps 4 to 7). DESIGN CHOICE (log 74): with both descriptors invalid, the trap names the
register of A, the spec giving no order (R102). -/
def State.matrixCard (s : State) (n : Nat) (w : List Word) : Except (BitVec 8 × Word) Spec :=
  let c := s.core n
  let g := clusterOf n
  let fa := if MCard.afmt w = 12 then c.fmt (MCard.areg w) else 0
  let fb := if MCard.bfmt w = 12 then c.fmt (MCard.breg w) else 0
  let fmt := accFmt (MCard.afmt w) (MCard.bfmt w)
  let reads := matrixReads w fa fb
  let tiles := accTiles w
  let target := MCard.drn w || MCard.wake w
  let bad := bitsOf (cw w 0) 2 0 != 0 || bitsOf (cw w 1) 63 52 != 0 || bitsOf (cw w 2) 63 52 != 0 || fmt.isNone
    || (fmt == some (.flt f64) && MCard.acc w % 2 == 1)
    || (MCard.wake w && (bitsOf (cw w 6) 63 52 != 0 || bitsOf (cw w 6) 3 0 != 0 || bitsOf (cw w 7) 31 0 != 0))
  let space := reads.any (fun r => decide (mainTop < r.2))
    || (MCard.drn w && decide (0x20000 < MCard.doff w + drainBytes w)) || (target && !s.targetOk n (MCard.dcore w))
  let align :=
    operandAligned (operandPlanar (MCard.afmt w) fa) (operandWidth (MCard.afmt w) fa) (MCard.a w) (MCard.sa w) (MCard.pa w)
    && operandAligned (operandPlanar (MCard.bfmt w) fb) (operandWidth (MCard.bfmt w) fb) (MCard.b w) (MCard.sb w) (MCard.pb w)
  let uses := tiles.filterMap fun t => s.accUse n g t
  let range := uses.filter fun u => u.1 == 0x05
  match firstTrap [(bad, 0x0E, 1), (space, 0x0E, 2), (!align, 0x0E, 3),
      (MCard.afmt w == 12 && (narrowFmt fa).isNone, 0x01, BitVec.ofNat 64 (MCard.areg w)),
      (MCard.bfmt w == 12 && (narrowFmt fb).isNone, 0x01, BitVec.ofNat 64 (MCard.breg w))] with
  | some t => .error t
  | none =>
    match range ++ uses with
    | t :: _ => .error t
    | [] =>
      let accs := tiles.map (accInterval g)
      let d := plateBase (MCard.dcore w) + MCard.doff w
      .ok ⟨1, w, fa, fb, reads ++ accs, accs ++ (if MCard.drn w then [(d, d + drainBytes w)] else []), tiles⟩

/-! ### The copy card (R240) -/

/-- Counts and strides of a loop nest at the byte offsets of R240 and R243. -/
def loopCount (w : List Word) (l : Nat) : Nat := (cw32 w (64 + 4 * l)).toNat
def strideS (w : List Word) (l : Nat) : Int := (cw32 w (104 + 4 * l)).toInt
def strideD (w : List Word) (l : Nat) : Int := (cw32 w (140 + 4 * l)).toInt

/-- The product of the counts of levels lo to hi − 1. -/
def countProd (w : List Word) (lo hi : Nat) : Nat := ((List.range (hi - lo)).map fun i => loopCount w (lo + i)).prod

/-- The hull of a loop nest (R240). -/
def hull (w : List Word) (nl base z : Nat) (stride : List Word → Nat → Int) : Int × Int :=
  (List.range nl).foldl (fun (p : Int × Int) l =>
    let x := ((loopCount w l : Int) - 1) * stride w l
    if stride w l < 0 then (p.1 + x, p.2) else (p.1, p.2 + x)) ((base : Int), (base : Int) + (z : Int))

/-- A hull as an interval. -/
def hullNat (h : Int × Int) : Nat × Nat := (h.1.toNat, h.2.toNat)

/-- A region of a copy: in main memory, or in the plate bytes of one window that R58 permits. -/
def State.copySpace (s : State) (n : Nat) (bank : Bool) (h : Int × Int) : Bool :=
  if h.1 < 0 then false
  else
    let (lo, hi) := hullNat h
    if hi ≤ mainTop then true
    else if bank then false
    else match placeOf (BitVec.ofNat 64 lo) with
      | some (.plate t off) => decide (lo < 2 ^ 64) && decide (off + (hi - lo) ≤ 0x20000) && s.targetOk n t
      | _ => false

namespace CCard
def kind (w : List Word) : Nat := bitsOf (cw w 0) 3 0
def nl (w : List Word) : Nat := bitsOf (cw w 0) 7 4
def esz (w : List Word) : Nat := bitsOf (cw w 0) 10 8
def bop (w : List Word) : Nat := bitsOf (cw w 0) 19 16
def btype (w : List Word) : Nat := bitsOf (cw w 0) 23 20
def wake (w : List Word) : Bool := bitOf (cw w 0) 25
def wcore (w : List Word) : Nat := bitsOf (cw w 0) 36 26
def src (w : List Word) : Nat := (cw w 1).toNat
def src2 (w : List Word) : Nat := (cw w 2).toNat
def dst (w : List Word) : Nat := (cw w 3).toNat
def whand (w : List Word) : Word := cw w 4 &&& 0x000FFFFFFFFFFFF0
def user (w : List Word) : Word := cw w 5 >>> 32
def z (w : List Word) : Nat := 2 ^ esz w
def bank (w : List Word) : Bool := kind w == 2
/-- Elements in all. -/
def total (w : List Word) : Nat := countProd w 0 (nl w)
/-- The second source is read. -/
def two (w : List Word) : Bool := bank w && bop w != 8
end CCard

/-- The loop fields of a card keep the limits of R240. -/
def loopsOk (w : List Word) (nl : Nat) (two : Bool) : Bool :=
  (List.range 9).all fun l =>
    if l < nl then decide (1 ≤ loopCount w l)
    else loopCount w l == 0 && strideS w l == 0 && (!two || strideD w l == 0)

/-- The width in bytes of a bank-op type, 0 for a code it does not take. -/
def bankBytes (t : Nat) : Nat := match t with | 2 => 4 | 3 => 8 | 6 => 4 | 7 => 8 | 9 => 4 | 11 => 2 | _ => 0

/-- The card of `cjob` (R240, R234 step 4). -/
def State.copyCard (s : State) (n : Nat) (w : List Word) : Except (BitVec 8 × Word) Spec :=
  let nl := CCard.nl w
  let z := CCard.z w
  let bank := CCard.bank w
  let bad := bitsOf (cw w 0) 63 37 != 0 || bitOf (cw w 0) 24 || bitsOf (cw w 0) 15 11 != 0 || cw w 6 != 0 || cw w 7 != 0
    || cw32 w 100 != 0 || cw w 22 != 0 || cw w 23 != 0 || !(CCard.kind w == 1 || CCard.kind w == 2)
    || nl == 0 || decide (9 < nl) || decide (3 < CCard.esz w) || !loopsOk w nl true || decide (2 ^ 48 < CCard.total w)
    || bitsOf (cw w 5) 31 0 != 0
    || (CCard.wake w && (bitsOf (cw w 4) 63 52 != 0 || bitsOf (cw w 4) 3 0 != 0))
    || (!CCard.two w && CCard.src2 w != 0)
    || (bank && (decide (8 < CCard.bop w) || bankBytes (CCard.btype w) != z
        || (5 ≤ CCard.bop w && CCard.bop w ≤ 7 && (CCard.btype w == 9 || CCard.btype w == 11))))
  let hs := hull w nl (CCard.src w) z strideS
  let h2 := hull w nl (CCard.src2 w) z strideS
  let hd := hull w nl (CCard.dst w) z strideD
  let space := !s.copySpace n bank hs || (CCard.two w && !s.copySpace n bank h2) || !s.copySpace n bank hd
    || (CCard.wake w && !s.targetOk n (CCard.wcore w))
  let align := CCard.src w % z == 0 && CCard.src2 w % z == 0 && CCard.dst w % z == 0
    && (List.range 9).all fun l => strideS w l % z == 0 && strideD w l % z == 0
  match firstTrap [(bad, 0x0E, 1), (space, 0x0E, 2), (!align, 0x0E, 3)] with
  | some t => .error t
  | none =>
    .ok ⟨2, w, 0, 0, hullNat hs :: (if CCard.two w then [hullNat h2] else []), [hullNat hd], []⟩

/-! ### The collective record (R246) -/

/-- The card of `coll` (R246, R234 step 4). -/
def State.collCard (s : State) (n : Nat) (w : List Word) : Except (BitVec 8 × Word) Spec :=
  let g := clusterOf n
  let m := s.members (s.core n).own w
  let p := m.length
  let z := Coll.z w
  let cnt := Coll.count w
  let c := if p = 0 then 0 else cnt / p
  let bad := bitsOf (cw w 0) 7 6 != 0 || Coll.red w == 3 || !(1 ≤ Coll.op w && Coll.op w ≤ 3)
    || !([2, 3, 8, 9, 11].contains (Coll.tcode w)) || bitsOf (cw w 1) 63 52 != 0 || bitsOf (cw w 2) 63 52 != 0
    || bitsOf (cw w 3) 63 40 != 0 || cnt == 0 || bitsOf (cw w 5) 31 0 != 0 || cw w 6 != 0 || cw w 7 != 0
    || (Coll.wake w && (bitsOf (cw w 4) 63 52 != 0 || bitsOf (cw w 4) 3 0 != 0))
    || (Coll.op w != 3 && p != 0 && cnt % p != 0)
  let rd := (Coll.src w, Coll.src w + (if Coll.op w = 2 then c else cnt) * z)
  let wr := (Coll.dst w, Coll.dst w + (if Coll.op w = 1 then c else cnt) * z)
  let space := s.boot.state != 4 || !m.contains (0, g) || decide (mainTop < rd.2) || decide (mainTop < wr.2)
    || (Coll.wake w && !s.targetOk n (Coll.wcore w))
  let align := Coll.src w % z == 0 && Coll.dst w % z == 0
  match firstTrap [(bad, 0x0E, 1), (space, 0x0E, 2), (!align, 0x0E, 3)] with
  | some t => .error t
  | none => .ok ⟨3, w, 0, 0, [rd], [wr], []⟩

/-! ### Queueing a job (R90, R226, R234 step 8) -/

/-- Accept a job into the lowest-numbered free entry. -/
def State.acceptJob (s : State) (n : Nat) (d : BitVec 5) (p : Spec) : State :=
  let c := s.core n
  let g := clusterOf n
  let q := s.cluster g
  let e := firstIndex (fun i => entryFree (q.job i)) 32
  let seq := q.jobSeq + 1
  let j : Job :=
    { seq := seq, type := p.type, state := .queued, cause := 0, prog := 0, owner := c.own, sup := c.sup, issuer := n
      work := c.work, card := p.card, fmtA := p.fmtA, fmtB := p.fmtB, reads := p.reads, writes := p.writes
      order := q.arrivals, held := [], part := 0, accs := [], pages := [], stale := false, cancel := false,
      moved := false, drained := false, faulted := false, wakeDue := false, started := 0 }
  let s := s.updCluster g fun q =>
    { q.setJob e (some j) with jobSeq := seq, arrivals := q.arrivals + 1, admitGrants := q.admitGrants.filter (· != n) }
  let s := p.tiles.foldl (fun s t => s.takeAcc n g t) s
  s.updCore n fun c => c.setS d (jobId g seq p.type e)

/-- Wait for the lottery of class 6 and queue the job (R226). -/
def State.admitJob (s : State) (n : Nat) (d : BitVec 5) (p : Spec) : Act :=
  let g := clusterOf n
  if (s.cluster g).admitGrants.contains n then
    if s.rcReady n then .done (s.acceptJob n d p) else .stall s
  else if (s.cluster g).admits.contains n || s.limited (s.core n).own 6 g then .stall s
  else .stall ((s.debit (s.core n).own 6 g).updCluster g fun q => { q with admits := q.admits ++ [n] })

/-- A job instruction with a card of `len` bytes. -/
def jobInstr (gd : Guard) (s : State) (d a : BitVec 5) (len : Nat)
    (card : State → Nat → List Word → Except (BitVec 8 × Word) Spec) : Outcome :=
  scalarOp gd s fun s n =>
    let c := s.core n
    match ownBlock n (c.s a) len with
    | .error cause => .trap s cause (c.s a)
    | .ok off =>
      match card s n (c.plateWords off (len / 8)) with
      | .error (cause, info) => .trap s cause info
      | .ok p => s.admitJob n d p

/-- `mjob` (R228). -/
def execMjob (gd : Guard) (d a : BitVec 5) (s : State) : Outcome := jobInstr gd s d a 64 State.matrixCard
/-- `cjob` (R240). -/
def execCjob (gd : Guard) (d a : BitVec 5) (s : State) : Outcome := jobInstr gd s d a 192 State.copyCard
/-- `coll` (R246). -/
def execColl (gd : Guard) (d a : BitVec 5) (s : State) : Outcome := jobInstr gd s d a 64 State.collCard

/-! ### Testing, waiting and cancelling (R236, R237) -/

/-- What a job identifier names. -/
inductive Named where
  /-- an identifier of R236 that traps -/
  | bad
  /-- a job that is done, whose entry holds another SEQ, or that was freed when its failure was acknowledged -/
  | gone
  | live (e : Nat) (j : Job)

/-- Look an identifier up for core `n`. -/
def State.findJob (s : State) (n : Nat) (id : Word) : Named :=
  let g := clusterOf n
  let e := bitsOf id 4 0
  if bitsOf id 63 48 ≠ 0 ∨ bitOf id 5 ∨ bitsOf id 7 6 = 0 ∨ bitsOf id 47 40 ≠ g then .bad
  else match (s.cluster g).job e with
    | none => .gone
    | some j =>
      if j.seq.toNat ≠ bitsOf id 39 8 then .gone
      else if (if j.sup then (s.core n).sup else !(s.core n).sup && j.owner == (s.core n).own) then .live e j else .bad

/-- WAKE of a job's card. -/
def Job.wakes (j : Job) : Bool :=
  if j.type = 1 then MCard.wake j.card else if j.type = 2 then CCard.wake j.card else Coll.wake j.card
/-- The target of its wake message. -/
def Job.wakeCore (j : Job) : Nat :=
  if j.type = 1 then MCard.dcore j.card else if j.type = 2 then CCard.wcore j.card else Coll.wcore j.card
/-- The wake message with status word `st` (R233). -/
def Job.wakeMsg (j : Job) (g e : Nat) (st : Word) : Rec :=
  let h := if j.type = 1 then MCard.whand j.card else if j.type = 2 then CCard.whand j.card else Coll.whand j.card
  let u := if j.type = 1 then MCard.user j.card else if j.type = 2 then CCard.user j.card else Coll.user j.card
  mkRec [h, j.work, j.id g e, st, u, 0, 0, 0]

/-- The unit of a cluster that runs the job, as a requester of the plate ports (R124), and which of its messages the job's wake
message is. -/
def Job.requester (j : Job) (g : Nat) : Nat := if j.type = 1 then matrixRequester g else copyRequester g
def wakeTag (e : Nat) : Nat := e + 1

/-- The job in entry `e` sends no wake message: its request leaves the port (R233, R237). -/
def State.dropWake (s : State) (g e : Nat) (j : Job) : State :=
  if j.wakeDue then s.updCore j.wakeCore fun c => c.leavePort fun q => q.is (j.requester g) 0 (wakeTag e) else s

/-- Free an entry; a failed job's wake message that still waits goes on waiting at the device, with its request at the port. -/
def State.freeJob (s : State) (g e : Nat) : State :=
  let s : State := match (s.cluster g).job e with
    | some (j : Job) =>
      if j.state = JobState.failed && j.wakeDue then
        let (id, s) := s.newId
        let s := s.updCore j.wakeCore fun c => { c with portWait := c.portWait.map fun (q : PortWait) =>
          if (PortWait.is q (j.requester g) 0 (wakeTag e)) then { q with tag := 64 + id } else q }
        { s with devMsgs := s.devMsgs ++
          [⟨j.wakeCore, j.owner, false, j.wakeMsg g e j.status, none, [], j.requester g, 64 + id⟩] }
      else s
    | none => s
  s.updCluster g fun q => q.setJob e none

/-- `jpoll`: a failure it returns frees the entry. -/
def execJpoll (gd : Guard) (d a : BitVec 5) (s : State) : Outcome :=
  scalarOp gd s fun s n =>
    let id := (s.core n).s a
    match s.findJob n id with
    | .bad => .trap s 0x05 id
    | .gone => .done (s.updCore n fun c => c.setS d 0)
    | .live e j =>
      let s := if j.state = .failed then s.freeJob (clusterOf n) e else s
      .done (s.updCore n fun c => c.setS d j.status)

/-- `jwait`: it stalls while the job is queued, running or suspended, and its core may clock-gate; a failure traps and frees the entry. -/
def execJwait (gd : Guard) (d a : BitVec 5) (s : State) : Outcome :=
  scalarOp gd s fun s n =>
    let id := (s.core n).s a
    match s.findJob n id with
    | .bad => .trap s 0x05 id
    | .gone => .done (s.updCore n fun c => c.setS d 0)
    | .live e j =>
      match j.state with
      | .failed => .trap (s.freeJob (clusterOf n) e) 0x0E j.status
      | .done | .cancelled => .done (s.updCore n fun c => c.setS d j.status)
      | _ => .stall (s.updCore n fun c => { c with jwaitAt := some c.pc })

/-- `jcancel`. -/
def execJcancel (gd : Guard) (a : BitVec 5) (s : State) : Outcome :=
  scalarOp gd s fun s n =>
    let id := (s.core n).s a
    let g := clusterOf n
    match s.findJob n id with
    | .bad => .trap s 0x05 id
    | .gone => .done s
    | .live e j =>
      match j.state with
      | .queued | .suspended | .running =>
        if j.state = .running && j.type ≠ 3 then .done (s.updCluster g fun q => q.setJob e (some { j with cancel := true }))
        else
          let s := (s.dropWake g e j).updCluster g fun q =>
            q.setJob e (some { j with state := .cancelled, wakeDue := false, faulted := false })
          .done (if j.type = 3 then s.failPeers j.owner j.card 8 else s)
      | .failed => .done (s.freeJob g e)
      | .done | .cancelled => .done s

end Sys2Proof.Machine
end

