-- ==== Sys2Proof/Machine/Agents.lean ====
section
/-!
DEFINITION. Majors 0x32 and 0x33: steeps, racks and the accumulator instructions (spec/12_matrix_copy_jobs.md R238, R239,
R243 to R245).
-/
namespace Sys2Proof.Machine

/-! ### Agent descriptors (R243) -/

namespace ADesc
def kind (w : List Word) : Nat := bitsOf (cw w 0) 3 0
def nl (w : List Word) : Nat := bitsOf (cw w 0) 7 4
def esz (w : List Word) : Nat := bitsOf (cw w 0) 10 8
def mark (w : List Word) : Bool := bitOf (cw w 0) 11
def wrap (w : List Word) : Bool := bitOf (cw w 0) 12
def tile (w : List Word) : Nat := bitsOf (cw w 0) 17 13
def ring (w : List Word) : Nat := bitsOf (cw w 0) 21 18
def tcore (w : List Word) : Nat := bitsOf (cw w 0) 32 22
def tlev (w : List Word) : Nat := bitsOf (cw w 0) 36 33
def base (w : List Word) : Nat := (cw w 1).toNat
def wb (w : List Word) : Word := cw w 2
def ack (w : List Word) : Nat := (cw w 3).toNat
def prog (w : List Word) : Nat := (cw w 4).toNat
/-- Bytes of an element. -/
def z (w : List Word) : Nat := 2 ^ esz w
/-- Elements of one tile, and combinations of the outer levels. -/
def inner (w : List Word) : Nat := countProd w 0 (tlev w)
def outer (w : List Word) : Nat := countProd w (tlev w) (nl w)
/-- A tile kind. -/
def tiled (w : List Word) : Bool := kind w == 2 || kind w == 4
end ADesc

/-- The lowest free handle of steeps (from 1) or racks (from 0x81). -/
def Core.freeHandle (c : Core) (from_ : Nat) : Option Nat :=
  ((List.range 8).map fun i => from_ + i).find? fun h => (Store.find h c.agents).isNone

/-- A capacity is a power of two from 2 to 2^32. -/
def capOk (x : Nat) : Bool := (List.range 32).any fun i => x == 2 ^ (i + 1)

/-- The checks of `subs` and `rack` on a descriptor (R234 step 4, R243): the handle, or the cause. -/
def State.agentCard (s : State) (n : Nat) (rack : Bool) (w : List Word) : Except Nat Nat :=
  let c := s.core n
  let k := ADesc.kind w
  let nl := ADesc.nl w
  let z := ADesc.z w
  let t := c.tile (ADesc.tile w)
  let bad := bitsOf (cw w 0) 63 37 != 0 || cw w 5 != 0 || cw w 6 != 0 || cw w 7 != 0 || cw32 w 100 != 0
    || cw32 w 140 != 0 || [18, 19, 20, 21, 22, 23].any (fun i => cw w i != 0)
    || !(if rack then k == 3 || k == 4 else k == 1 || k == 2)
    || (if k == 3 then nl != 0 else nl == 0 || decide (9 < nl)) || decide (3 < ADesc.esz w) || !loopsOk w nl false
    || decide (2 ^ 48 < countProd w 0 nl) || (k == 1 && decide (ADesc.ring w < 2)) || (k == 3 && !capOk (ADesc.wb w).toNat)
    || (ADesc.tiled w && (ADesc.tlev w == 0 || decide (nl < ADesc.tlev w) || ADesc.inner w * z != t.bytes))
  let space := decide (mainTop ≤ ADesc.base w) || (k == 3 && ADesc.wrap w && decide (mainTop ≤ ADesc.ack w))
    || (rack && decide (mainTop ≤ ADesc.prog w)) || (k == 1 && !s.targetOk n (ADesc.tcore w))
  let align := ADesc.base w % z == 0 && (List.range 9).all (fun l => strideS w l % z == 0)
    && !(k == 3 && ADesc.wrap w && ADesc.ack w % 8 != 0) && !(rack && ADesc.prog w % 8 != 0)
  let avail := !ADesc.tiled w || (t.agent == 0 && (t.state == .empty || (rack && t.state == .ready)))
  match c.freeHandle (if rack then 0x81 else 1) with
  | none => if bad then .error 1 else if space then .error 2 else if !align then .error 3 else .error 9
  | some h =>
    if bad then .error 1 else if space then .error 2 else if !align then .error 3
    else if !avail then .error 0x0A else .ok h

/-- Start an agent (R243): its tile takes the handle. -/
def State.startAgent (s : State) (n : Nat) (d : BitVec 5) (w : List Word) (h : Nat) : State :=
  s.updCore n fun c =>
    let a : Agent :=
      { desc := w, state := .running, elem := 0, count := 0, buf := [], written := 0, ack := 0
        reread := ADesc.wrap w, faulted := false
        owner := c.own, tlb := [] }
    let c := { c with agents := Store.put h a c.agents }
    let c := if ADesc.tiled w then
        c.setTile (ADesc.tile w) { c.tile (ADesc.tile w) with agent := BitVec.ofNat 8 h } else c
    c.setS d (BitVec.ofNat 64 h)

/-- `subs` and `rack`. DESIGN CHOICE (log 73): `rack`, which R90 does not name, is an RC access for R81 as `subs` is. -/
def agentInstr (gd : Guard) (s : State) (rack : Bool) (d a : BitVec 5) : Outcome :=
  scalarOp gd s fun s n =>
    let c := s.core n
    match ownBlock n (c.s a) 192 with
    | .error cause => .trap s cause (c.s a)
    | .ok off =>
      let w := c.plateWords off 24
      match s.agentCard n rack w with
      | .error cause => .trap s 0x0E (BitVec.ofNat 64 cause)
      | .ok h => if s.rcReady n then .done (s.startAgent n d w h) else .stall s

/-- `subs` (R243). -/
def execSubs (gd : Guard) (d a : BitVec 5) (s : State) : Outcome := agentInstr gd s false d a
/-- `rack` (R243). -/
def execRack (gd : Guard) (d a : BitVec 5) (s : State) : Outcome := agentInstr gd s true d a

/-- An agent leaves its tile as a release does, its AGENT becomes 0, and its slot is freed (R67, R243). -/
def State.stopAgent (s : State) (n h : Nat) (a : Agent) : State :=
  let t := ADesc.tile a.desc
  let x := (s.core n).tile t
  let mine := ADesc.tiled a.desc && x.agent.toNat == h
  let s := if mine && (x.state == .filling || x.state == .draining) then
      match (s.core n).tileRelease t (Config.unitInFlight s.moves) with
      | .ok c spoil => s.applyTile n t c spoil
      | .trap .. => s
    else s
  (s.unwait (agentRequester n h)).updCore n fun c =>
    let c := { c with agents := Store.del h c.agents }
    if mine then c.setTile t { c.tile t with agent := 0 } else c

/-- `unsubs` (R243). -/
def execUnsubs (gd : Guard) (a : BitVec 5) (s : State) : Outcome :=
  scalarOp gd s fun s n =>
    let c := s.core n
    let h := (c.s a).toNat
    match (if 1 ≤ h ∧ h ≤ 8 then Store.find h c.agents else none) with
    | none => .trap s 0x05 (c.s a)
    | some x => .done (s.stopAgent n h x)

/-- `unrack` (R243): not while a ring names the rack as its link; records it has accepted are written first. -/
def execUnrack (gd : Guard) (a : BitVec 5) (s : State) : Outcome :=
  scalarOp gd s fun s n =>
    let c := s.core n
    let h := (c.s a).toNat
    match (if 0x81 ≤ h ∧ h ≤ 0x88 then Store.find h c.agents else none) with
    | none => .trap s 0x05 (c.s a)
    | some x =>
      if c.rings.toList.any fun r => r.lv && r.lr && r.lrack.toNat == h then .trap s 0x0E 0x0B
      else if x.state == .running && !x.buf.isEmpty then .stall s
      else .done (s.stopAgent n h x)

/-! ### Accumulator tiles (R239) -/

/-- A 4-byte element of accumulator tile `t`, as an element of an access. -/
def accElem (g t w lane : Nat) : Elem :=
  let off := t * 4096 + 4 * w
  ⟨lane, .cluster g, off, 4, BitVec.ofNat 64 (0x000E800000000000 + g * 2 ^ 24 + off), 0⟩

/-- Continue with accumulator tile s[a], once its number and its tag allow the use. -/
def State.withAcc (s : State) (n : Nat) (v : Word) (k : Nat → Act) : Act :=
  if 127 < v.toNat then .trap s 0x05 v
  else match s.accUse n (clusterOf n) v.toNat with
    | some (cause, info) => .trap s cause info
    | none => k v.toNat

/-- `aclr`: a window store of +0 to every element. -/
def execAclr (gd : Guard) (a : BitVec 5) (s : State) : Outcome :=
  scalarOp gd s fun s n =>
    s.withAcc n ((s.core n).s a) fun t =>
      s.issueStores n ((List.range 1024).map fun i => (accElem (clusterOf n) t i 0, 0)) none

/-- `ardr`: a window load of one row, guarded per lane; lanes from 32 on read 0. -/
def execArdr (gd : Guard) (d a b : BitVec 5) (s : State) : Outcome :=
  laneOp s fun s n =>
    let c := s.core n
    let g := clusterOf n
    let l := c.execLanes gd
    let r := c.s b
    if l.isEmpty then .done s
    else if 127 < (c.s a).toNat then .trap s 0x05 (c.s a)
    else if 31 < r.toNat then .trap s 0x05 r
    else s.withAcc n (c.s a) fun t =>
      let es := (l.filter fun i => i < 32).map fun i => accElem g t (32 * r.toNat + i) i
      if !s.loadReady n (accElem g t (32 * r.toNat) 0 :: es) false then .stall s else
      let s := s.takeAcc n g t
      let q := s.cluster g
      let s := s.setCore n (c.setLanesOf d.toNat 32 l fun i =>
        if i < 32 then (q.accRead (t * 4096 + 128 * r.toNat + 4 * i) 4).toNat else 0)
      .left (s.updCore n fun c => { c with hold := .reply, pc := c.pc + 4, hints := [] })

/-- `awrr`: window stores of one row, guarded per lane. -/
def execAwrr (gd : Guard) (d a b : BitVec 5) (s : State) : Outcome :=
  laneOp s fun s n =>
    let c := s.core n
    let g := clusterOf n
    let l := c.execLanes gd
    let r := c.s b
    if l.isEmpty then .done s
    else if 127 < (c.s a).toNat then .trap s 0x05 (c.s a)
    else if 31 < r.toNat then .trap s 0x05 r
    else s.withAcc n (c.s a) fun t =>
      if (l.filter fun i => i < 32).isEmpty then .done (s.takeAcc n g t)
      else s.issueStores n ((l.filter fun i => i < 32).map fun i =>
        (accElem g t (32 * r.toNat + i) i, c.v d.toNat i)) none

end Sys2Proof.Machine
end

