-- ==== Sys2Proof/Machine/TreeOps.lean ====
section
/-!
DEFINITION. Majors 0x34 and 0x35: updates and queries of sum-tree registers (spec/13_sum_trees.md R250 to R262).
-/
namespace Sys2Proof.Machine

/-- Steps 1 to 3 of R254: the use, and a scalar operand that must not satisfy `bad`. -/
def State.treeChecks (s : State) (n w : Nat) (v : Word) (bad : Bool) : Option (BitVec 8 × Word) :=
  match s.treeUse n w with
  | some t => some t
  | none => if bad then some (0x05, v) else none

/-- Replace tree `w` of core `n`'s cluster; a completed use at TAG none takes the register (R250). -/
def State.putTree (s : State) (n w : Nat) (t : Tree) : State :=
  s.updCluster (clusterOf n) fun q => q.setTree w { t with tag := some ((q.tree w).tag.getD (s.core n).own) }

/-- An update of tree `w` (R251): `f` gives the new state. -/
def State.treeUpdate (s : State) (n w : Nat) (v : Word) (bad : Bool) (f : Tree → Tree) : Act :=
  match s.treeChecks n w v bad with
  | some (cause, info) => .trap s cause info
  | none =>
    if !s.rcReady n then .stall s
    else .done (s.putTree n w (f ((s.cluster (clusterOf n)).tree w)))

/-- A query of tree `w` that writes s[d] and s[d+1] (R260). -/
def State.treeQuery (s : State) (n w : Nat) (d : BitVec 5) (v : Word) (bad : Bool) (f : Tree → Nat) : Act :=
  match s.treeChecks n w v bad with
  | some (cause, info) => .trap s cause info
  | none =>
    if !s.rcReady n then .stall s
    else
      let t := (s.cluster (clusterOf n)).tree w
      let s := s.putTree n w t
      .done (s.updCore n fun c => (c.setS d (BitVec.ofNat 64 (f t))).setS (d + 1) (t.seq.setWidth 64))

/-- A word that is no exponent of a tree (R255, R258). -/
def badExp (v : Word) : Bool := decide (v.toInt < -128) || decide (127 < v.toInt)

/-! ### Updates -/

/-- `wclr` (R255). -/
def execWclr (gd : Guard) (t a : BitVec 5) (s : State) : Outcome :=
  scalarOp gd s fun s n =>
    let v := (s.core n).s a
    s.treeUpdate n t.toNat v (badExp v) fun x => x.clear (v.extractLsb' 0 8)

/-- `wld` (R256): the loads are performed before the update, and the core waits for them (R88). -/
def execWld (gd : Guard) (t a b : BitVec 5) (s : State) : Outcome :=
  scalarOp gd s fun s n =>
    let c := s.core n
    let k := c.s b
    let ea := c.s a
    match s.treeChecks n t.toNat k (decide (256 < k.toNat)) with
    | some (cause, info) => .trap s cause info
    | none =>
      if ea.toNat % 4 ≠ 0 then .trap s 0x03 ea
      else match s.checkAll n .plain 4 false true false
          ((List.range k.toNat).map fun i => (i, ea + BitVec.ofNat 64 (4 * i))) [] with
        | .error x => x
        | .ok (s, es) =>
          if !s.rcReady n then .stall s
          else s.issueLoads n (.tree t.toNat k.toNat) es ea false true

/-- `wldv` (R256). -/
def execWldv (gd : Guard) (t a b : BitVec 5) (s : State) : Outcome :=
  scalarOp gd s fun s n =>
    let c := s.core n
    let f := c.s b
    let lanes := min c.lanes (256 - f.toNat)
    match s.treeUpdate n t.toNat f (decide (255 < f.toNat)) fun x =>
        x.loadAt f.toNat ((List.range lanes).map fun i =>
          BitVec.ofNat 32 (roundMass x.exp.toInt (f32.val (c.vn a i % 2 ^ 32)) (s.modeAt n i))) with
    | .done s => .done (s.updCore n fun c => c.srAdvance (lanes != 0))
    | x => x

/-- `wset` (R257). -/
def execWset (gd : Guard) (t a b : BitVec 5) (s : State) : Outcome :=
  scalarOp gd s fun s n =>
    let c := s.core n
    let k := c.s a
    s.treeUpdate n t.toNat k (decide (255 < k.toNat)) fun x => x.set k.toNat (c.s b).toNat

/-- `wadd` (R257). -/
def execWadd (gd : Guard) (t a b : BitVec 5) (s : State) : Outcome :=
  scalarOp gd s fun s n =>
    let c := s.core n
    let k := c.s a
    s.treeUpdate n t.toNat k (decide (255 < k.toNat)) fun x => x.add k.toNat (c.s b).toInt

/-- `wexp` (R258). -/
def execWexp (gd : Guard) (t a : BitVec 5) (s : State) : Outcome :=
  scalarOp gd s fun s n =>
    let v := (s.core n).s a
    match s.treeUpdate n t.toNat v (badExp v) fun x => x.rescale (v.extractLsb' 0 8) (s.modeAt n) with
    | .done s => .done (s.updCore n fun c => c.srAdvance true)
    | x => x

/-- `wcut` (R259). -/
def execWcut (gd : Guard) (t a : BitVec 5) (s : State) : Outcome :=
  scalarOp gd s fun s n =>
    let v := (s.core n).s a
    s.treeUpdate n t.toNat v (decide (2 ^ 32 ≤ v.toNat)) fun x => x.cut v.toNat

/-- `wuncut` (R259): without an operand the limit is 256. -/
def execWuncut (gd : Guard) (t a : BitVec 5) (s : State) : Outcome :=
  scalarOp gd s fun s n =>
    let v := (s.core n).s a
    s.treeUpdate n t.toNat v false fun x => x.uncut (if a = 0 then 256 else v.toNat)

/-! ### Queries -/

/-- `wget` (R260). -/
def execWget (gd : Guard) (d t b : BitVec 5) (s : State) : Outcome :=
  scalarOp gd s fun s n =>
    let k := (s.core n).s b
    s.treeQuery n t.toNat d k (decide (255 < k.toNat)) fun x => x.leaf k.toNat

/-- `wsum` (R260). -/
def execWsum (gd : Guard) (d t : BitVec 5) (s : State) : Outcome :=
  scalarOp gd s fun s n => s.treeQuery n t.toNat d 0 false Tree.root

/-- `wpre` (R260). -/
def execWpre (gd : Guard) (d t b : BitVec 5) (s : State) : Outcome :=
  scalarOp gd s fun s n =>
    let k := (s.core n).s b
    s.treeQuery n t.toNat d k (decide (256 < k.toNat)) fun x => x.prefixSum k.toNat

/-- `wfind` (R261). -/
def execWfind (gd : Guard) (d t b : BitVec 5) (s : State) : Outcome :=
  scalarOp gd s fun s n =>
    let u := (s.core n).s b
    s.treeQuery n t.toNat d u false fun x => x.search (u.extractLsb' 0 32)

/-- `wseq` (R260): only s[d] is written. -/
def execWseq (gd : Guard) (d t : BitVec 5) (s : State) : Outcome :=
  scalarOp gd s fun s n =>
    match s.treeChecks n t.toNat 0 false with
    | some (cause, info) => .trap s cause info
    | none =>
      if !s.rcReady n then .stall s
      else
        let x := (s.cluster (clusterOf n)).tree t.toNat
        .done ((s.putTree n t.toNat x).updCore n fun c => c.setS d (x.seq.setWidth 64))

/-- `wst` (R262): the row as it reads is stored after the tree access. -/
def execWst (gd : Guard) (d t b : BitVec 5) (s : State) : Outcome :=
  scalarOp gd s fun s n =>
    let ea := (s.core n).s b
    match s.treeChecks n t.toNat 0 false with
    | some (cause, info) => .trap s cause info
    | none =>
      if ea.toNat % 4 ≠ 0 then .trap s 0x03 ea
      else match s.checkAll n .plain 4 false false true
          ((List.range 256).map fun i => (i, ea + BitVec.ofNat 64 (4 * i))) [] with
        | .error x => x
        | .ok (s, es) =>
          if !s.rcReady n then .stall s
          else
            let x := (s.cluster (clusterOf n)).tree t.toNat
            match (s.putTree n t.toNat x).issueStores n
                (es.map fun e => (e, BitVec.ofNat 64 (x.leaf e.lane))) none with
            | .done s => .done (s.updCore n fun c => c.setS d (x.seq.setWidth 64))
            | .stall _ => .stall s
            | r => r

end Sys2Proof.Machine
end

