-- ==== Sys2Proof/Machine/Random.lean ====
section
/-!
DEFINITION. Majors 0x36 and 0x37: draws from the user streams, splices and ring binding
(spec/14_draws_system_traps.md R266 to R269, R273 to R275).
-/
namespace Sys2Proof.Machine

/-! ### Draws (R266 to R269) -/

/-- `rnd`. -/
def execRnd (gd : Guard) (d : BitVec 5) (s : State) : Outcome :=
  scalarOp gd s fun s n =>
    let q := s.userDraw n 0 0x10
    .done (s.updCore n fun c => (c.setS d q.lo).advanceIndex)

/-- An instruction of executing lanes advances the index when one lane executes (R269). -/
def Core.advanceIf (c : Core) (b : Bool) : Core := if b then c.advanceIndex else c

/-- `rnd.v`. -/
def execRndV (gd : Guard) (d : BitVec 5) (s : State) : Outcome :=
  laneOp s fun s n =>
    let c := s.core n
    let l := c.execLanes gd
    let draw (i : Nat) : Nat :=
      let q := s.userDraw n (i / 2) 0x10
      (if i % 2 = 0 then q.lo else q.hi).toNat
    .done (s.setCore n ((c.setLanesOf d.toNat 64 l draw).advanceIf !l.isEmpty))

/-- `pdrop`: bits of guarded-off lanes below Lanes stay, bits from Lanes on become 0. -/
def execPdrop (gd : Guard) (d a : BitVec 5) (s : State) : Outcome :=
  laneOp s fun s n =>
    let c := s.core n
    let l := c.execLanes gd
    let q := min (c.s a).toNat (2 ^ 32)
    let kept : Pred := c.p d.toNat &&& BitVec.ofNat 256 (2 ^ c.lanes - 1)
    let p := l.foldl (fun (p : Pred) i =>
      let one : Pred := BitVec.ofNat 256 (2 ^ i)
      if ((s.userDraw n (i / 4) 0x12).word i).toNat < q then p ||| one else p &&& ~~~one) kept
    .done (s.setCore n ((c.setP d.toNat p).advanceIf !l.isEmpty))

/-- `wdraw`: a query of the tree with a drawn fraction (R261, R268). -/
def execWdraw (gd : Guard) (d t : BitVec 5) (s : State) : Outcome :=
  scalarOp gd s fun s n =>
    let u := (s.userDraw n 0 0x13).x0
    match s.treeQuery n t.toNat d 0 false fun x => x.search u with
    | .done s => .done (s.updCore n Core.advanceIndex)
    | r => r

/-! ### Splices and ring binding (R273 to R275) -/

/-- `splice`: the checks of `rpush` but for the KIND of the source. -/
def execSplice (gd : Guard) (a b : BitVec 5) (s : State) : Outcome :=
  scalarOp gd s fun s n =>
    let c := s.core n
    match s.pushTarget n (c.s a) with
    | none => .trap s 0x05 (c.s a)
    | some tgt =>
      match ownRecord n (c.s b) with
      | .error cause => .trap s cause (c.s b)
      | .ok off =>
        if c.pushRec.isNone && !s.ownReady n off 64 false none then .stall s
        else
          let r := c.pushRec.getD (c.plateRec off)
          s.pushRead n tgt r (setWordAt r 0 (pushHeader n 4 ||| ((recSseq r).setWidth 64 <<< 32)))

/-- The ring a binding block describes. -/
def bindRing (w : List Word) : Ring :=
  (((Ring.free.setWord 0 (w.getD 0 0)).setWord 3 (w.getD 3 0)).setWord 4 (w.getD 4 0)).setWord 5 (w.getD 5 0)

/-- A binding block is well formed (R274): every bit it does not define, HALT and words 1, 2, 6 and 7 are 0. -/
def bindOk (w : List Word) (g : Ring) : Bool :=
  [0, 3, 4, 5].all (fun i => g.word i == w.getD i 0) && [1, 2, 6, 7].all (fun i => w.getD i 0 == 0)
    && decide (1 ≤ g.log2n.toNat ∧ g.log2n.toNat ≤ 10) && g.mode != 3 && !g.halt && !(g.mode == 1 && g.handler == 0)
    && decide (g.base.toNat * 64 + g.size * 64 ≤ 0x20000)

/-- Two rings have one handler, state and link (R136). -/
def Ring.sameStage (x y : Ring) : Bool :=
  x.handler == y.handler && x.state == y.state && x.lv == y.lv && x.lr == y.lr && x.lrack == y.lrack
    && x.lcore == y.lcore && x.lring == y.lring

/-- The checks of `rbind` from the second on: the number of the first that fails (R274). -/
def State.bindCheck (s : State) (n : Nat) (ring : Word) (w : List Word) (g : Ring) : Option Nat :=
  let c := s.core n
  let j := ring.toNat
  if !(decide (2 ≤ j ∧ j ≤ 15)) then some 1
  else if (c.ring j).log2n ≠ 0 then some 2
  else if !bindOk w g then some 3
  else if g.grp ≠ 0 && (List.range 16).any (fun i =>
      (c.ring i).log2n != 0 && (c.ring i).grp == g.grp && !(c.ring i).sameStage g) then some 4
  else if g.lv && !g.lr && !(decide (2 ≤ g.lring.toNat) && s.targetOk n g.lcore.toNat) then some 5
  else if g.lv && g.lr && !(match Store.find g.lrack.toNat c.agents with
      | some x => decide (0x81 ≤ g.lrack.toNat) && x.kind == 3
      | none => false) then some 6
  else none

/-- `rbind`. -/
def execRbind (gd : Guard) (a b : BitVec 5) (s : State) : Outcome :=
  scalarOp gd s fun s n =>
    let c := s.core n
    let ring := c.s a
    match ownRecord n (c.s b) with
    | .error cause => .trap s cause (c.s b)
    | .ok off =>
      let w := c.plateWords off 8
      let g := bindRing w
      match s.bindCheck n ring w g with
      | some k => .trap s 0x05 (ring ||| BitVec.ofNat 64 (k * 2 ^ 8))
      | none =>
        if s.ownReady n off 64 false none && s.ownReady n (0x20000 + 64 * ring.toNat) 64 false none then
          .done (s.setCore n (c.setRing ring.toNat g))
        else .stall s

/-- `runbind`. -/
def execRunbind (gd : Guard) (b : BitVec 5) (s : State) : Outcome :=
  scalarOp gd s fun s n =>
    let c := s.core n
    let ring := c.s b
    let j := ring.toNat
    let g := c.ring j
    if !(decide (2 ≤ j ∧ j ≤ 15)) || g.log2n == 0 || g.tail != g.head || g.halt then
      .trap s 0x05 (ring ||| 0x700)
    else if !s.ownReady n (0x20000 + 64 * j) 64 false none then .stall s
    else .done (s.setCore n (c.setRing j Ring.free))

end Sys2Proof.Machine
end

