-- ==== Sys2Proof/Machine/System.lean ====
section
/-!
DEFINITION. Majors 0x38 and 0x39: the user trap, placement and exceedance, and the privileged instructions of the supervisor
(spec/14_draws_system_traps.md R270 to R272, R276, R279, R281 to R283).
-/
namespace Sys2Proof.Machine

/-! ### Major 0x38 -/

/-- `trap n` (R276). -/
def execTrap (gd : Guard) (k : BitVec 5) (s : State) : Outcome :=
  scalarOp gd s fun s _ => .trap s (0x20 + k.setWidth 8) (k.setWidth 64)

/-- `reseed.place` (R270): a sixteenth waiting request stalls the core. -/
def execReseedPlace (gd : Guard) (s : State) : Outcome :=
  scalarOp gd s fun s n =>
    let o := (s.core n).own
    if 15 ≤ (s.owner o).reseeds.length then .stall s
    else .done (s.updOwner o fun w => { w with reseeds := w.reseeds ++ [some n] })

/-- The word of R132: new set, BUSY, old set. -/
def Owner.probe (w : Owner) (cls line : Nat) : Word :=
  let new := (w.setOf cls line false).getD 0
  let busy := w.sweep.isSome
  let old := if busy then (w.setOf cls line true).getD new else new
  BitVec.ofNat 64 (new + b2n busy * 2 ^ 15 + old * 2 ^ 16)

/-- `plprobe` (R271): it waits for the epochs its core has asked for (R286). -/
def execPlprobe (gd : Guard) (d a b : BitVec 5) (s : State) : Outcome :=
  scalarOp gd s fun s n =>
    let c := s.core n
    let va := c.s a
    let k := (c.s b).toNat
    if !(decide (1 ≤ k ∧ k ≤ 3)) then .trap s 0x05 (c.s b)
    else match placeOf va with
      | some (.main _) =>
        match s.xlate n va true false false (fun s pa leaf => .ok s ⟨0, .main .c, pa, 1, va, leaf⟩) with
        | .no x => x
        | .ok s e =>
          let w := s.owner c.own
          if w.reseeds.contains (some n) then .stall s
          else .done (s.updCore n fun c => c.setS d (w.probe k (e.addr / 128)))
      | _ => .trap s 0x05 va

/-- The destination checks of `excq` short of translation (R272). -/
def excqDest (n : Nat) (va : Word) : Option (BitVec 8) :=
  match placeOf va with
  | some (.plate t off) =>
    if t ≠ n then some 0x05 else if off % 128 ≠ 0 then some 0x03 else if 0x20000 < off + 1280 then some 0x07 else none
  | some (.main _) => if va.toNat % 128 ≠ 0 then some 0x03 else none
  | _ => some 0x05

/-- `excq` (R272): the ten reports, and with CLR the counters cleared in the same step. -/
def execExcq (gd : Guard) (a b : BitVec 5) (s : State) : Outcome :=
  scalarOp gd s fun s n =>
    let c := s.core n
    let va := c.s a
    let v := c.s b
    if 1 < v.toNat then .trap s 0x05 v
    else match excqDest n va with
      | some cause => .trap s cause va
      | none =>
        match s.checkAll n .plain 8 false false true
            ((List.range 160).map fun i => (i, va + BitVec.ofNat 64 (8 * i))) [] with
        | .error x => x
        | .ok (s, es) =>
          let ws := (List.range 10).flatMap fun k => s.report10 n k
          let s' := if v = 1 then s.updOwner c.own fun w => { w with exceed := [] } else s
          match s'.issueStores n (es.map fun e => (e, ws.getD e.lane 0)) none with
          | .stall _ => .stall s
          | x => x

/-! ### Major 0x39 -/

/-- `rft` (R279). -/
def execRft (gd : Guard) (s : State) : Outcome :=
  privOp (.rft gd) gd s fun s n => .left (s.returnFromTrap n)

/-- Page sizes of `tinv` (R282). -/
def pageShifts (p : Nat) : Nat := match p with | 0 => 12 | 1 => 16 | 2 => 21 | 3 => 29 | _ => 34

/-- Every cached translation of the module. -/
def State.allTrans (s : State) : List Trans :=
  (s.cores.flatMap fun (_, c) => c.tlb ++ c.agents.flatMap fun (_, a) => a.tlb) ++
    s.clusters.flatMap fun (_, c) => c.meTlb ++ c.cpyTlb

/-- Accesses of owner `o` to main memory, issued and not performed, whose translation is one of `ts` (R316). -/
def State.accessesUnder (s : State) (o : Nat) (ts : List Trans) : List Nat :=
  ((s.cores.flatMap fun (_, c) => c.pend) ++ s.lateLoads.map (fun x => x.2.1)).filter (fun a =>
    a.owner == o && (match a.dest with | .main _ => true | _ => false) &&
      ts.any fun t => t.sup == a.sup && a.va.toNat / 2 ^ t.shift == t.page) |>.map Access.id

/-- `tinv` (R282): the entries are dropped, and the core stalls until the accesses under them have been performed, and the rows and
elements in progress under them (R316). -/
def execTinv (gd : Guard) (a b : BitVec 5) (s : State) : Outcome :=
  privOp (.tinv gd a b) gd s fun s n =>
    let c := s.core n
    let v := c.s b
    let o := bitsOf v 7 0
    let all := bitOf v 8
    let psz := bitsOf v 11 9
    if bitsOf v 63 12 ≠ 0 || (!all && decide (4 < psz)) then .trap s 0x05 v
    else
      let s' := if all then s.dropOwnerTlb o else s.dropPage o (c.s a).toNat (pageShifts psz)
      let left := s'.allTrans
      let gone := s.allTrans.filter fun t => t.owner == o && !left.contains t
      let under (j : Job) : Bool := if all then j.owner == o && !j.pages.isEmpty else j.holdsPage o (c.s a).toNat (pageShifts psz)
      .left ((s'.markStale under).updCore n fun c => { c with hold := .tinv (s.accessesUnder o gone) o })

/-! #### Spilling and retagging (R281, R332) -/

/-- The slot of tile `x`, or tree `x`, of cluster `g` for owner `o` (R332; log 29). -/
def State.slotAddr (s : State) (o g x : Nat) (tree : Bool) : Nat :=
  let w := s.owner o
  Own.asBase (if w.started then w.entry else w.entryNext) + g * 0x80000
    + (if tree then 0x78000 + x * 0x800 else x * 0x1000)

/-- A dword of a slot as an element: a coherent, release-consistent page of the HBM4E tier (R281, R332; log 29). -/
def slotElem (pa i : Nat) : Elem := ⟨i, .main .c, pa + 8 * i, 8, BitVec.ofNat 64 (pa + 8 * i), 0⟩

/-- Spill words to the slot of owner `q`; the tag is dropped by `f`. -/
def State.spill (s : State) (n q x : Nat) (tree : Bool) (ws : List Word) (f : Cluster → Cluster) : Act :=
  let g := clusterOf n
  let pa := s.slotAddr q g x tree
  match s.issueStores n (((List.range ws.length).zip ws).map fun (i, w) => (slotElem pa i, w)) none with
  | .done s => .done (s.updCluster g f)
  | r => r

/-- `aspill`. -/
def execAspill (gd : Guard) (a : BitVec 5) (s : State) : Outcome :=
  privOp (.aspill gd a) gd s fun s n =>
    let v := (s.core n).s a
    let t := v.toNat
    let g := clusterOf n
    let q := s.cluster g
    if 119 < t then .trap s 0x05 v
    else match q.tag t with
      | .owner o =>
        if q.held g t o then .trap s 0x08 v
        else s.spill n o t false ((List.range 512).map fun i => q.accRead (t * 4096 + 8 * i) 8)
          fun q => { q with tags := Store.del t q.tags }
      | _ => .done s

/-- `wspill`. -/
def execWspill (gd : Guard) (a : BitVec 5) (s : State) : Outcome :=
  privOp (.wspill gd a) gd s fun s n =>
    let v := (s.core n).s a
    let w := v.toNat
    let t := (s.cluster (clusterOf n)).tree w
    if 7 < w then .trap s 0x05 v
    else match t.tag with
      | some o => s.spill n o w true t.slotWords fun q => q.setTree w { q.tree w with tag := none }
      | none => .done s

/-- The operand checks of the tag forms: the offending value. -/
def State.tagChecks (s : State) (v x : Word) (top : Nat) : Option Word :=
  if top < v.toNat then some v
  else if bitsOf x 63 9 ≠ 0 then some x
  else if !Own.valid (s.owner (bitsOf x 7 0)).entryNext then some x
  else none

/-- `atag`: with LOAD the slot is read before the tag changes. -/
def execAtag (gd : Guard) (a b : BitVec 5) (s : State) : Outcome :=
  privOp (.atag gd a b) gd s fun s n =>
    let c := s.core n
    let v := c.s a
    let x := c.s b
    let g := clusterOf n
    match s.tagChecks v x 119 with
    | some y => .trap s 0x05 y
    | none =>
      if bitOf x 8 then
        let pa := s.slotAddr (bitsOf x 7 0) g v.toNat false
        s.issueLoads n (.tile v.toNat (bitsOf x 7 0)) ((List.range 512).map (slotElem pa)) (BitVec.ofNat 64 pa) false true
      else .done (s.updCluster g fun q => { q with tags := Store.put v.toNat (.owner (bitsOf x 7 0)) q.tags })

/-- `wtag`. -/
def execWtag (gd : Guard) (a b : BitVec 5) (s : State) : Outcome :=
  privOp (.wtag gd a b) gd s fun s n =>
    let c := s.core n
    let v := c.s a
    let x := c.s b
    let g := clusterOf n
    match s.tagChecks v x 7 with
    | some y => .trap s 0x05 y
    | none =>
      if bitOf x 8 then
        let pa := s.slotAddr (bitsOf x 7 0) g v.toNat true
        s.issueLoads n (.treeSlot v.toNat (bitsOf x 7 0)) ((List.range 256).map (slotElem pa)) (BitVec.ofNat 64 pa) false true
      else .done (s.updCluster g fun q => q.setTree v.toNat { q.tree v.toNat with tag := some (bitsOf x 7 0) })

/-! #### Keys and salts (R283, R346) -/

/-- A block of `len` bytes in the own plate, aligned to its length: its offset, or the trap. -/
def ownKey (n : Nat) (va : Word) (len : Nat) : Except (BitVec 8) Nat :=
  let a := va.toNat
  let base := plateBase n
  if a < base ∨ base + 2 ^ 20 ≤ a then .error 0x05
  else if a % len ≠ 0 then .error 0x03
  else if 0x20000 < a - base + len then .error 0x07
  else .ok (a - base)

/-- `keyld`: never to the slot of a valid owner, nor of one whose retirement has not finished (R346). -/
def execKeyld (gd : Guard) (a b : BitVec 5) (s : State) : Outcome :=
  privOp (.keyld gd a b) gd s fun s n =>
    let c := s.core n
    let v := c.s b
    match ownKey n (c.s a) 64 with
    | .error cause => .trap s cause (c.s a)
    | .ok off =>
      if 255 < v.toNat then .trap s 0x05 v
      else
        let w := s.owner v.toNat
        if Own.valid w.entryNext || w.retiring then .trap s 0x05 v
        else if !s.ownReady n off 64 false none then .stall s
        else
          let s := s.updOwner v.toNat fun w => { w with key := .loaded (c.plateRec off) }
          .left (s.updCore n fun c => { c with hold := .keyld v.toNat })

/-- A change of salt enters one request for each owner of the function that has none waiting (R115). -/
def State.saltChange (s : State) (f : Nat) : State :=
  let e := (s.func f).entry
  (([0, 1, 2, 3].filter fun i => Vd.svalid e i).map fun i => Vd.own e i).foldl
    (fun s o => s.updOwner o fun w => { w with reseeds := if w.reseeds.isEmpty then [none] else w.reseeds }) s

/-- `saltld`. -/
def execSaltld (gd : Guard) (a b : BitVec 5) (s : State) : Outcome :=
  privOp (.saltld gd a b) gd s fun s n =>
    let c := s.core n
    let v := c.s b
    match ownKey n (c.s a) 16 with
    | .error cause => .trap s cause (c.s a)
    | .ok off =>
      if 63 < v.toNat then .trap s 0x05 v
      else if !s.ownReady n off 16 false none then .stall s
      else
        let salt : Key128 := c.plateRead (off + 8) 8 ++ c.plateRead off 8
        .done ((s.updFunc v.toNat fun f => { f with salt := salt }).saltChange v.toNat)

end Sys2Proof.Machine
end

