-- ==== Sys2Proof/Machine/CoreEvents.lean ====
section
/-!
DEFINITION. Moves of the ordering machine and of the cores that no instruction word makes (spec/04_ordering.md R80, R82, R84;
spec/03_memory_spaces.md R72, R76; spec/02_execution_model.md R37, R40 to R49; spec/14_draws_system_traps.md R277, R278).
A move is `none` where its condition does not hold.
-/
namespace Sys2Proof.Machine

/-- The outcome of an event row: its move, or a refusal by name where the move is not enabled (log 17). -/
def event (name : String) (m : Option State) : Outcome :=
  match m with
  | some s => .next s
  | none => .refused (.notEnabled name)

/-- A state that holds under a condition. -/
def onlyIf (b : Bool) (s : State) : Option State := if b then some s else none

/-! ### The ordering machine (R80) -/

/-- Perform the queued access `id` of core `n` if it is of the right kind and may be performed; a load that meets an open
window of its owner joins it instead (R72). -/
def State.performMove (s : State) (n id : Nat) (kind : AccOp → Bool) : Option State :=
  match (s.core n).access id with
  | some a =>
    if kind a.op && s.performable n a then
      some (if a.op.isRead && (s.openMerge n a).isSome then s.joinMerge n a else s.perform n a)
    else none
  | none => none

/-- The gather of a load part delivers an asynchronous reply. -/
def Core.asyncPart (c : Core) (op : AccOp) : Bool :=
  match op with
  | .load gid _ => c.gathers.any fun g => g.gid == gid && (match g.dest with | .async .. => true | _ => false)
  | _ => false

/-- Accesses PERFORM_LOAD performs: loads, and full/empty forms that return a value. -/
def Core.loadKind (c : Core) (op : AccOp) : Bool :=
  match op with
  | .load .. => !c.asyncPart op
  | .fe op _ _ => op.returns
  | _ => false

/-- Accesses PERFORM_STORE performs. -/
def storeKind (op : AccOp) : Bool :=
  match op with
  | .store _ | .atom .. | .msg _ | .push .. | .faultMsg _ | .range _ => true
  | .fe op _ _ => !op.returns
  | _ => false

/-- FORWARD. -/
def State.forwardMove (s : State) (n load store : Nat) : Option State :=
  match (s.core n).access load, (s.core n).access store with
  | some a, some b => if s.forwardable n a b then some (s.forward n a b) else none
  | _, _ => none

/-- The attributes of the page of owner `o` that holds a line, where a translation is cached: one whose accesses use image C. -/
def State.linePage (s : State) (o line : Nat) : Option Word :=
  (s.allTrans.find? fun t => t.owner == o && Leaf.image t.leaf == .c && line * 128 / 2 ^ t.shift == Leaf.frame t.leaf / 2 ^ t.shift).map
    Trans.leaf

/-- FILL: the line joins C, and under owner `o` the caches its page allows, the L2 of cluster `g`'s die and the MSC; L1D only at an
access (R70, R80, R122). -/
def State.fillMove (s : State) (g o line : Nat) : Option State :=
  let s' := s.fillLine line o false
  onlyIf (s.populated (128 * line) && (Store.find line s.memC).isNone)
    (match s.linePage o line with
      | some leaf => s'.touch (8 * g) o line (max 1 (Leaf.cache leaf)) (Leaf.tierOf leaf) false .read 0
      | none => s')

/-- WRITE_BACK: an uncorrectable error of the line is detected as it is read (R338). -/
def State.writeBackMove (s : State) (line : Nat) : Option State :=
  match Store.find line s.memC with
  | some l => onlyIf l.dirty (s.writeBackLine line)
  | none => none

/-- DROP: with the line go its L1D and L2 copies. -/
def State.dropMove (s : State) (line : Nat) : Option State :=
  match Store.find line s.memC with
  | some l =>
    onlyIf (!l.dirty) { s.dropLine line with copies := s.copies.filter fun c => !(c.line == line && c.cls != 3) }
  | none => none

/-- FENCE_PERFORMED. -/
def State.fenceMove (s : State) (n id : Nat) : Option State :=
  s.performMove n id fun op => match op with | .fence .. => true | _ => false

/-- DECREMENT_AND_WAKE (R34). -/
def State.decMove (s : State) (n id : Nat) : Option State :=
  s.performMove n id fun op => match op with | .dec .. => true | _ => false

/-- READY_PUSH_ACCEPT: a waiting push takes a freed slot (R37). DESIGN CHOICE (log 70): of several that wait at the port, the oldest,
the spec naming none. -/
def State.readyAccept (s : State) (n : Nat) : Option State :=
  let c := s.core n
  match c.readyWait with
  | q :: rest =>
    onlyIf (c.hasRoom 1)
      (s.setCore n { c.append 1 (readyRec q.codelet q.work q.issuer) with readyWait := rest })
  | [] => none

/-- The merge window of a line at a die's slice for an owner (R72). -/
def Merge.is (m : Merge) (die o line : Nat) : Bool := m.die == die && m.owner == o && m.line == line

/-- MERGE_WINDOW_EXPIRE. -/
def State.mergeExpire (s : State) (die o line : Nat) : Option State :=
  let p (m : Merge) : Bool := m.is die o line && !m.closed
  onlyIf (s.merges.any p) { s with merges := mapFirst p (fun m => { m with closed := true }) s.merges }

/-- FILL_REPLY: the fill of the oldest window of the line returns, once the read that opened it has passed its points
(R72, R127). -/
def State.fillReply (s : State) (die o line : Nat) : Option State :=
  (s.merges.find? fun m => m.is die o line).bind fun m =>
    onlyIf (match m.joined.head? with
      | some (n, id) => ((s.core n).access id).all fun a => a.path.isEmpty
      | none => true) (s.multicast m)

/-- WINDOW_LOAD_REPLY (R76), once the load has passed the points on its way (R127). -/
def State.windowReply (s : State) (n : Nat) : Option State :=
  onlyIf ((s.core n).hold == .reply && !s.loadCrosses n) (s.updCore n fun c =>
    { c with hold := .none, gathers := c.gathers.map fun (g : Gather) => { g with stalls := none } })

/-! ### Asynchronous loads (R205, R331) -/

/-- The gather of an asynchronous load whose part has been performed already, as a window's is. -/
def Core.asyncDone (c : Core) (id : Nat) : Option Gather :=
  c.gathers.find? fun g => g.gid == id && (match g.dest with | .async .. => true | _ => false)
    && g.parts.all fun p => p.val.isSome

/-- ASYNC_LOAD_REPLY: the load `id` of core `n` is performed and its reply enters the inbox, live or saved; that of a
window load, performed at issue, enters by the number of its gather. -/
def State.asyncMove (s : State) (n id : Nat) : Option State :=
  match s.lateLoads.find? fun x => x.1 == n && x.2.1.id == id with
  | some (_, a, g) => onlyIf (s.lateReady n a g) (s.lateReply n a g)
  | none => match (s.core n).asyncDone id with
    | some g => onlyIf (!s.loadCrosses n) (s.complete n g)
    | none => s.performMove n id (s.core n).asyncPart

/-! ### Waiting (R42 to R45) -/

/-- Core `n` stands between chains, where a trap that its chain did not raise may be taken (R156): nothing holds it in an
instruction, and none has done a part of what it does. Hint words it has read for a main word still to issue have done nothing:
the chain has not begun, and it executes from its first word after the trap (log 12). -/
def Core.atBoundary (c : Core) : Bool := c.hold == .none && c.rangeAt == 0 && !c.begun

/-- WATCHDOG: trap 0x06 with the entry address of the outermost handler (R42). -/
def State.watchdogMove (s : State) (n : Nat) : Option State :=
  let c := s.core n
  match c.handler with
  | some h =>
    onlyIf (!c.sup && decide (h.limit ≤ h.count) && !c.blk && c.atBoundary) ((s.unclaim n).raiseTrap n 0x06 h.entry c.chainStart)
  | none => none

/-- The core stalls in a `jwait` (R236). -/
def Core.jwaits (c : Core) : Bool := c.handler.isSome && c.hold == .none && c.jwaitAt == some c.pc

/-- Change the gating state of a blocked core, of an idle dispatcher, or of a core stalled in `jwait`, which does not
power-gate (R43, R236). -/
def State.gateMove (s : State) (n old new least : Nat) : Option State :=
  let c := s.core n
  match c.hold with
  | .blocked b =>
    onlyIf (b.gate == old && decide (least ≤ b.resid))
      (s.updCore n fun c => { c with hold := .blocked { b with gate := new } })
  | _ =>
    onlyIf ((c.idles || (c.jwaits && new == 2)) && c.gate == old && decide (least ≤ c.calm))
      (s.updCore n fun c => { c with gate := new })

/-- CORE_WAKE: a blocked core goes on, or a gated one that a record or the end of its wait makes active again (R43). -/
def State.wakeMove (s : State) (n : Nat) : Option State :=
  let c := s.core n
  if s.canWake n then some (s.wake n)
  else onlyIf (c.gate != 1 && !c.idles && !c.jwaits) (s.updCore n fun c => { c with gate := 1, calm := 0 })

/-- HANG_REPORT: a class 0x07 record, and a fault message where a fault core can take one (R45, R334, R343). -/
def State.hangMove (s : State) (n : Nat) : Option State :=
  let c := s.core n
  match c.hold with
  | .blocked b =>
    let s' := (s.updCore n fun c => { c with hold := .blocked { b with reported := true } }).report 0x07 0 c.ctx 0 n 0
    let tell := c.faultHandler != 0 && Own.hasCore (s.owner c.own).entry c.faultCore.toNat
    onlyIf (!b.reported && decide (c.hangExp ≤ 40) && decide (2 ^ c.hangExp ≤ b.resid))
      (if tell then s'.sendFault n 0x40 c.trapInfo c.chainStart else s')
  | _ => none

/-! ### The deadlock detector (R46) -/

/-- The cores a blocked core waits on. -/
def State.waitsOn (s : State) (n : Nat) : List Nat :=
  match (s.core n).hold with
  | .blocked b =>
    if b.cause = 4 || b.cause = 5 then [b.core]
    else if b.cause = 3 then
      (s.cores.filter fun (_, c) => c.rings.toList.any fun r =>
        r.log2n != 0 && r.lv && !r.lr && r.lcore.toNat == n && r.lring.toNat == b.ring).map Prod.fst
    else []
  | _ => []

/-- The wait-for relation (R46): each blocked core with those it waits on. -/
def State.waitFor (s : State) : List (Nat × Nat) := s.cores.flatMap fun (n, _) => (s.waitsOn n).map fun m => (n, m)

/-- Paths of a relation from `n`, one step longer, until one of them closes at `n`. -/
def cyclePath (r : List (Nat × Nat)) (n : Nat) : Nat → List (List Nat) → List Nat → Option (List Nat)
  | 0, _, _ => none
  | k + 1, paths, seen =>
    let ext := paths.flatMap fun p => (r.filter fun e => e.1 == p.getLastD n).map fun e => (p, e.2)
    match ext.find? fun x => x.2 == n with
    | some (p, _) => some p
    | none =>
      let new := ext.filter fun x => !seen.contains x.2
      if new.isEmpty then none
      else cyclePath r n k (new.map fun x => x.1 ++ [x.2]) (seen ++ new.map Prod.snd)

/-- The numbers of a list below a bound, in increasing order, each once. -/
def idsBelow (k : Nat) (l : List Nat) : List Nat := (List.range k).filter l.contains

/-- The cores of a relation in order, each with a cycle through it (R46); one that a cycle found before holds is in that. -/
def cyclesOf (r : List (Nat × Nat)) : List (List Nat) :=
  (idsBelow 2048 (r.map Prod.fst)).foldl (fun (l : List (List Nat)) n =>
    if l.any fun p => p.contains n then l
    else match cyclePath r n 2048 [[n]] [n] with
      | some p => l ++ [p]
      | none => l) []

/-- The last scan of die `d` saw the episode of a core (R46). -/
def Core.seenBlocked (c : Core) (d : Nat) : Bool := match c.hold with | .blocked b => bitOf b.seen d | _ => false

/-- `ctl.trapinfo` of a deadlock trap (R46). -/
def State.deadlockInfo (s : State) (cycle : List Nat) (i : Nat) : Word :=
  let ring := match (s.core (cycle.getD i 0)).hold with | .blocked b => b.ring | _ => 0
  BitVec.ofNat 64 (ring * 2 ^ 22 + cycle.getD ((i + 1) % cycle.length) 0 * 2 ^ 11 + (cycle.length - 1))

/-- DEADLOCK_SCAN: the monitor of a die traps every core of a cycle that the relation holds in two of its scans running,
no core of it having left its episode; a cycle belongs to the die of its lowest core. A core is trapped once, and one whose
context an earlier trap has killed not at all. -/
def State.deadlockMove (s : State) (die : Nat) : Option State :=
  let now := s.waitFor
  let last := Store.get [] die s.scans
  let both := now.filter fun e => last.contains e && (s.core e.1).seenBlocked die
  let hit := (cyclesOf both).filter fun p => dieOf (p.foldl min (p.headD 0)) == die
  let traps := hit.flatMap fun p => (List.range p.length).map fun i => (p.getD i 0, s.deadlockInfo p i)
  let s := { s with scans := Store.put die now s.scans }
  let s := (idsBelow 2048 (now.map Prod.fst)).foldl (fun s n => s.updCore n fun c =>
    match c.hold with
    | .blocked b => { c with hold := .blocked { b with seen := b.seen ||| (1#4 <<< die) } }
    | _ => c) s
  some (traps.foldl (fun s (n, info) =>
    match (s.core n).hold with
    | .blocked _ => (s.withdraw n).raiseTrap n 0x09 info ((s.core n).chainStart)
    | _ => s) s)

/-! ### Traps between chains (R277, R278) -/

/-- TRAP_ENTRY: a trap that waits for a chain boundary. -/
def State.trapMove (s : State) (n : Nat) : Option State :=
  let c := s.core n
  onlyIf (c.pending.isSome && c.handler.isSome && !c.blk && c.atBoundary) ((s.unclaim n).raiseTrap n 0 0 c.chainStart)

/-- SUP_CYCLE_LIMIT: a double trap whose second cause is 0x06 (R278). -/
def State.supLimitMove (s : State) (n : Nat) : Option State :=
  let c := s.core n
  onlyIf (c.sup && decide (2 ^ 20 ≤ c.supCount) && !c.blk && c.atBoundary) (s.takeTrap n 0x06 0 c.chainStart)

/-! ### The event rows -/

/-- DISPATCH (R40). -/
def execDispatch (n : BitVec 11) (s : State) : Outcome :=
  event "DISPATCH" (onlyIf (s.canDispatch n.toNat) (s.dispatchNow n.toNat))
/-- FORWARD (R80). -/
def execForward (n : BitVec 11) (load store : Nat) (s : State) : Outcome := event "FORWARD" (s.forwardMove n.toNat load store)
/-- FILL (R80). -/
def execFill (g o : BitVec 8) (line : Nat) (s : State) : Outcome := event "FILL" (s.fillMove g.toNat o.toNat line)
/-- PERFORM_LOAD (R80). -/
def execPerformLoad (n : BitVec 11) (id : Nat) (s : State) : Outcome :=
  event "PERFORM_LOAD" (s.performMove n.toNat id (s.core n.toNat).loadKind)
/-- PERFORM_STORE (R80). -/
def execPerformStore (n : BitVec 11) (id : Nat) (s : State) : Outcome :=
  event "PERFORM_STORE" (s.performMove n.toNat id storeKind)
/-- WRITE_BACK (R80). -/
def execWriteBack (line : Nat) (s : State) : Outcome := event "WRITE_BACK" (s.writeBackMove line)
/-- DROP (R80). -/
def execDrop (line : Nat) (s : State) : Outcome := event "DROP" (s.dropMove line)
/-- FENCE_PERFORMED (R82). -/
def execFencePerformed (n : BitVec 11) (id : Nat) (s : State) : Outcome := event "FENCE_PERFORMED" (s.fenceMove n.toNat id)
/-- DECREMENT_AND_WAKE (R34). -/
def execDecrementAndWake (n : BitVec 11) (id : Nat) (s : State) : Outcome :=
  event "DECREMENT_AND_WAKE" (s.decMove n.toNat id)
/-- READY_PUSH_ACCEPT (R37). -/
def execReadyPushAccept (n : BitVec 11) (s : State) : Outcome := event "READY_PUSH_ACCEPT" (s.readyAccept n.toNat)
/-- MERGE_WINDOW_EXPIRE (R72). -/
def execMergeWindowExpire (die : BitVec 2) (o : BitVec 8) (line : Nat) (s : State) : Outcome :=
  event "MERGE_WINDOW_EXPIRE" (s.mergeExpire die.toNat o.toNat line)
/-- FILL_REPLY (R72). -/
def execFillReply (die : BitVec 2) (o : BitVec 8) (line : Nat) (s : State) : Outcome :=
  event "FILL_REPLY" (s.fillReply die.toNat o.toNat line)
/-- WINDOW_LOAD_REPLY (R76). -/
def execWindowLoadReply (n : BitVec 11) (s : State) : Outcome := event "WINDOW_LOAD_REPLY" (s.windowReply n.toNat)
/-- ASYNC_LOAD_REPLY (R205). -/
def execAsyncLoadReply (n : BitVec 11) (id : Nat) (s : State) : Outcome := event "ASYNC_LOAD_REPLY" (s.asyncMove n.toNat id)
/-- WATCHDOG (R42). -/
def execWatchdog (n : BitVec 11) (s : State) : Outcome := event "WATCHDOG" (s.watchdogMove n.toNat)
/-- CLOCK_GATE (R43). -/
def execClockGate (n : BitVec 11) (s : State) : Outcome := event "CLOCK_GATE" (s.gateMove n.toNat 1 2 256)
/-- POWER_GATE (R43). -/
def execPowerGate (n : BitVec 11) (s : State) : Outcome := event "POWER_GATE" (s.gateMove n.toNat 2 3 65536)
/-- CORE_WAKE (R43). -/
def execCoreWake (n : BitVec 11) (s : State) : Outcome := event "CORE_WAKE" (s.wakeMove n.toNat)
/-- HANG_REPORT (R45). -/
def execHangReport (n : BitVec 11) (s : State) : Outcome := event "HANG_REPORT" (s.hangMove n.toNat)
/-- DEADLOCK_SCAN (R46). -/
def execDeadlockScan (die : BitVec 2) (s : State) : Outcome := event "DEADLOCK_SCAN" (s.deadlockMove die.toNat)
/-- TRAP_ENTRY (R277). -/
def execTrapEntry (n : BitVec 11) (s : State) : Outcome := event "TRAP_ENTRY" (s.trapMove n.toNat)
/-- SUP_CYCLE_LIMIT (R278). -/
def execSupCycleLimit (n : BitVec 11) (s : State) : Outcome := event "SUP_CYCLE_LIMIT" (s.supLimitMove n.toNat)

end Sys2Proof.Machine
end

