-- ==== Sys2Proof/Machine/Issue.lean ====
section
/-!
DEFINITION. Issue (spec/04_ordering.md R80, spec/08_encoding.md R171, spec/21_issue_and_scheduling.md R290, R291, R294): a core
fetches the word at its pc, decodes it in its chain, waits for the registers it uses and runs its meaning.
-/
namespace Sys2Proof.Machine

/-! ### Hint words (R153, R154) -/

/-- A hint joins the chain of core `n`. -/
def Core.pushHint (c : Core) (h : Code) : Core :=
  { c with chainPc := if c.hints = [] then c.pc else c.chainPc, hints := c.hints ++ [h], pc := c.pc + 4 }

/-- Issue a hint word: it joins the chain, or makes it illegal (R154, R172). -/
def hintOp (h : Code) (s : State) : Outcome :=
  let n := s.cur
  match decodeFetched (s.core n).hints h with
  | .hint h => .next (s.updCore n fun c => c.pushHint h)
  | .illegal info => .next ((Act.trap s 0x01 info).finish n)
  | .instr _ => .next s

/-- IMMX. -/
def execImmx (p : BitVec 16) (s : State) : Outcome := hintOp (packHint 0 p) s
/-- RMODE. -/
def execRmode (p : BitVec 16) (s : State) : Outcome := hintOp (packHint 1 p) s
/-- CPOL. -/
def execCpol (p : BitVec 16) (s : State) : Outcome := hintOp (packHint 2 p) s
/-- ORDER. -/
def execOrder (p : BitVec 16) (s : State) : Outcome := hintOp (packHint 3 p) s
/-- ETYPE. -/
def execEtype (p : BitVec 16) (s : State) : Outcome := hintOp (packHint 4 p) s

/-! ### Register interlocks (R291, R294) -/

/-- A register a word reads or writes. -/
inductive RegUse where
  | s (r : BitVec 5)
  | v (r : BitVec 5)
  deriving DecidableEq, Repr

/-- The scalar and vector registers an instruction reads or writes. No other register has a pending write. -/
def Instr.uses : Instr → List RegUse
  | .add64 _ d a b _
  | .sub64 _ d a b _
  | .and64 _ d a b _
  | .or64 _ d a b _
  | .xor64 _ d a b _
  | .andn64 _ d a b _
  | .shl64 _ d a b _
  | .shr64 _ d a b _
  | .rotl64 _ d a b _
  | .rotr64 _ d a b _
  | .min64 _ d a b _
  | .max64 _ d a b _
  | .add32 _ d a b _
  | .sub32 _ d a b _
  | .and32 _ d a b _
  | .or32 _ d a b _
  | .xor32 _ d a b _
  | .andn32 _ d a b _
  | .shl32 _ d a b _
  | .shr32 _ d a b _
  | .rotl32 _ d a b _
  | .rotr32 _ d a b _
  | .min32 _ d a b _
  | .max32 _ d a b _
  | .mul64 _ d a b _
  | .mulh64 _ d a b _
  | .div64 _ d a b _
  | .rem64 _ d a b _
  | .mul32 _ d a b _
  | .mulh32 _ d a b _
  | .div32 _ d a b _
  | .rem32 _ d a b _
  | .aswapD _ d a b
  | .acasD _ d a b
  | .aadd64 _ d a b
  | .aandD _ d a b
  | .aorD _ d a b
  | .axorD _ d a b
  | .aminI64 _ d a b
  | .amaxI64 _ d a b
  | .aminN64 _ d a b
  | .amaxN64 _ d a b
  | .aadd32 _ d a b
  | .aswapW _ d a b
  | .acasW _ d a b
  | .adecw _ d a b
  | .aaddF32 _ d a b
  | .aaddF64 _ d a b
  | .rpop _ d a b
  | .plprobe _ d a b => [.s d, .s a, .s b]
  | .popc64 _ d a _
  | .clz64 _ d a _
  | .ctz64 _ d a _
  | .popc32 _ d a _
  | .clz32 _ d a _
  | .ctz32 _ d a _
  | .addImm _ d a _
  | .shlImm _ d a _
  | .shrN64Imm _ d a _
  | .shrI64Imm _ d a _
  | .rotlImm _ d a _
  | .andImm _ d a _
  | .orImm _ d a _
  | .xorImm _ d a _
  | .jalr _ d a _
  | .claim _ d a _
  | .vrelease _ d a _
  | .mjob _ d a
  | .cjob _ d a
  | .coll _ d a
  | .jpoll _ d a
  | .jwait _ d a
  | .subs _ d a
  | .rack _ d a => [.s d, .s a]
  | .sel _ d _ b c => [.s d, .s b, .s c]
  | .li _ d _
  | .lsi _ d _
  | .pext _ d _ _
  | .pcnt _ d _
  | .rdctl _ d _
  | .wrctl _ d _
  | .fmtrd _ d _
  | .wseq _ d _
  | .rnd _ d => [.s d]
  | .cmp _ _ a b _ _ _
  | .qadd64 _ a b
  | .qandD _ a b
  | .qorD _ a b
  | .qxorD _ a b
  | .qminI64 _ a b
  | .qmaxI64 _ a b
  | .qminN64 _ a b
  | .qmaxN64 _ a b
  | .qadd32 _ a b
  | .qdecw _ a b
  | .qaddF32 _ a b
  | .qaddF64 _ a b
  | .cleanRange _ a b
  | .invalRange _ a b
  | .flushRange _ a b
  | .icsync _ a b
  | .icinvRange _ a b
  | .rpush _ a b
  | .aldD _ a b
  | .wld _ _ a b
  | .wset _ _ a b
  | .wadd _ _ a b
  | .splice _ a b
  | .rbind _ a b
  | .excq _ a b
  | .tinv _ a b
  | .atag _ a b
  | .wtag _ a b
  | .keyld _ a b
  | .saltld _ a b => [.s a, .s b]
  | .cmpImm _ _ a _ _ _
  | .pins _ _ a _
  | .fmtld _ _ a
  | .jcancel _ a
  | .unsubs _ a
  | .unrack _ a
  | .aclr _ a
  | .wclr _ _ a
  | .wexp _ _ a
  | .wcut _ _ a
  | .wuncut _ _ a
  | .pdrop _ _ a
  | .aspill _ a
  | .wspill _ a => [.s a]
  | .jal _ _ => [.s 30]
  | .ldB _ d b _
  | .ldH _ d b _
  | .ldW _ d b _
  | .ldD _ d b _
  | .ldBS _ d b _
  | .ldHS _ d b _
  | .ldWS _ d b _
  | .stB _ d b _
  | .stH _ d b _
  | .stW _ d b _
  | .stD _ d b _
  | .ldAcq _ d b _ _
  | .stRel _ d b _ _
  | .ldff _ d b _ _
  | .ldfe _ d b _ _
  | .fet _ d b _ _
  | .stef _ d b _ _
  | .stxf _ d b _ _
  | .stxe _ d b _ _
  | .rpeek _ d b
  | .wst _ d _ b => [.s d, .s b]
  | .send _ a b => [.s a, .s b, .s 10, .s 11, .s 12, .s 13, .s 14, .s 15]
  | .vld _ d a _
  | .vst _ d a _
  | .vbcast _ d a => [.s a, .v d]
  | .vlds _ d a b _
  | .vsts _ d a b _
  | .vins _ d a b
  | .ardr _ d a b
  | .awrr _ d a b => [.s a, .s b, .v d]
  | .vldx _ d a b _
  | .vstx _ d a b _ => [.s a, .v d, .v b]
  | .vaddFp _ d a b _
  | .vsubFp _ d a b _
  | .vmulFp _ d a b _
  | .vdiv _ d a b _
  | .vminFp _ d a b _
  | .vmaxFp _ d a b _
  | .vcvn _ d a b _
  | .vperm _ d a b
  | .vpack6 _ d a b
  | .vunp6 _ d a b => [.v d, .v a, .v b]
  | .vsqrt _ d a _
  | .vabsFp _ d a _
  | .vabsInt _ d a
  | .vssum _ d a
  | .vsmin _ d a
  | .vsmax _ d a
  | .vsand _ d a
  | .vsor _ d a
  | .vsxor _ d a
  | .vmov _ d a
  | .vpack4 _ d a
  | .vunp4 _ d a
  | .vrcp _ d a _
  | .vrsqrt _ d a _
  | .vexp2 _ d a _
  | .vlog2 _ d a _ => [.v d, .v a]
  | .vfma _ d a b c => [.v d, .v a, .v b, .v c]
  | .vaddInt _ d a b x
  | .vsubInt _ d a b x
  | .vmulInt _ d a b x
  | .vmulh _ d a b x
  | .vminInt _ d a b x
  | .vmaxInt _ d a b x
  | .vand _ d a b x
  | .vor _ d a b x
  | .vxor _ d a b x
  | .vandn _ d a b x
  | .vshl _ d a b x
  | .vshr _ d a b x
  | .vrotl _ d a b x
  | .vadds _ d a b x
  | .vsubs _ d a b x => [.v d, .v a, if x = 1 then .s b else .v b]
  | .vcmp _ _ a b x _ => [.v a, if x = 1 then .s b else .v b]
  | .vcvt _ d a b _
  | .vslideup _ d a b
  | .vslidedn _ d a b => [.s b, .v d, .v a]
  | .vrsum _ d a
  | .vrmin _ d a
  | .vrmax _ d a
  | .vrand _ d a
  | .vror _ d a
  | .vrxor _ d a => [.s d, .v a]
  | .vext _ d a b => [.s d, .s b, .v a]
  | .vidx _ d
  | .rndV _ d => [.v d]
  | .wldv _ _ a b => [.s b, .v a]
  | .wget _ d _ b
  | .wpre _ d _ b
  | .wfind _ d _ b => [.s d, .s b, .s (d + 1)]
  | .wsum _ d _
  | .wdraw _ d _ => [.s d, .s (d + 1)]
  | .runbind _ b => [.s b]
  | _ => []

/-- A vector load is still to write lanes of v[r]. -/
def Core.pendingV (c : Core) (r : BitVec 5) : Bool :=
  c.gathers.any fun g => match g.dest with | .vreg d _ => d == r.toNat | _ => false

/-- The register has no pending write. -/
def Core.useReady (c : Core) : RegUse → Bool
  | .s r => !c.pendingS (c.sreg r)
  | .v r => !c.pendingV r

/-- The word is guarded per lane (R13, R207, R239, R265). -/
def laneGuarded (w : Code) : Bool :=
  let m := (fMaj w).toNat
  let fn := bitsOf w 4 0
  (decide (0x20 ≤ m ∧ m ≤ 0x28) && !(m == 0x27 && (fn == 5 || fn == 12 || fn == 13)))
    || (m == 0x33 && fn != 0) || (m == 0x36 && (fn == 1 || fn == 2))

/-- The guard lets the word do something (R294). -/
def Core.guardOn (c : Core) (w : Code) : Bool :=
  let gd := (decodeGuard (fGuard w)).getD .none
  if laneGuarded w then !(c.execLanes gd).isEmpty else c.on gd

/-- A claim or release of lanes changes every vector register, so it waits for every vector load. -/
def Core.lanesSettled (c : Core) (w : Code) : Bool :=
  (fMaj w).toNat != 0x29 || c.gathers.all fun g => match g.dest with | .vreg .. => false | _ => true

/-- The word waits for a register (R291). -/
def Core.interlocked (c : Core) (w : Code) (i : Instr) : Bool :=
  c.guardOn w && !((Instr.uses i).all c.useReady && c.lanesSettled w)

/-! ### Issue -/

/-- The meaning of an encoded instruction; no event row has a word. -/
def runInstr (i : Instr) (s : State) : Outcome :=
  match i with
  | .add64 gd d a b u => Sys2Proof.Machine.execAdd64 gd d a b u s
  | .sub64 gd d a b u => Sys2Proof.Machine.execSub64 gd d a b u s
  | .and64 gd d a b u => Sys2Proof.Machine.execAnd64 gd d a b u s
  | .or64 gd d a b u => Sys2Proof.Machine.execOr64 gd d a b u s
  | .xor64 gd d a b u => Sys2Proof.Machine.execXor64 gd d a b u s
  | .andn64 gd d a b u => Sys2Proof.Machine.execAndn64 gd d a b u s
  | .shl64 gd d a b u => Sys2Proof.Machine.execShl64 gd d a b u s
  | .shr64 gd d a b u => Sys2Proof.Machine.execShr64 gd d a b u s
  | .rotl64 gd d a b u => Sys2Proof.Machine.execRotl64 gd d a b u s
  | .rotr64 gd d a b u => Sys2Proof.Machine.execRotr64 gd d a b u s
  | .min64 gd d a b u => Sys2Proof.Machine.execMin64 gd d a b u s
  | .max64 gd d a b u => Sys2Proof.Machine.execMax64 gd d a b u s
  | .popc64 gd d a u => Sys2Proof.Machine.execPopc64 gd d a u s
  | .clz64 gd d a u => Sys2Proof.Machine.execClz64 gd d a u s
  | .ctz64 gd d a u => Sys2Proof.Machine.execCtz64 gd d a u s
  | .add32 gd d a b u => Sys2Proof.Machine.execAdd32 gd d a b u s
  | .sub32 gd d a b u => Sys2Proof.Machine.execSub32 gd d a b u s
  | .and32 gd d a b u => Sys2Proof.Machine.execAnd32 gd d a b u s
  | .or32 gd d a b u => Sys2Proof.Machine.execOr32 gd d a b u s
  | .xor32 gd d a b u => Sys2Proof.Machine.execXor32 gd d a b u s
  | .andn32 gd d a b u => Sys2Proof.Machine.execAndn32 gd d a b u s
  | .shl32 gd d a b u => Sys2Proof.Machine.execShl32 gd d a b u s
  | .shr32 gd d a b u => Sys2Proof.Machine.execShr32 gd d a b u s
  | .rotl32 gd d a b u => Sys2Proof.Machine.execRotl32 gd d a b u s
  | .rotr32 gd d a b u => Sys2Proof.Machine.execRotr32 gd d a b u s
  | .min32 gd d a b u => Sys2Proof.Machine.execMin32 gd d a b u s
  | .max32 gd d a b u => Sys2Proof.Machine.execMax32 gd d a b u s
  | .popc32 gd d a u => Sys2Proof.Machine.execPopc32 gd d a u s
  | .clz32 gd d a u => Sys2Proof.Machine.execClz32 gd d a u s
  | .ctz32 gd d a u => Sys2Proof.Machine.execCtz32 gd d a u s
  | .mul64 gd d a b u => Sys2Proof.Machine.execMul64 gd d a b u s
  | .mulh64 gd d a b u => Sys2Proof.Machine.execMulh64 gd d a b u s
  | .div64 gd d a b u => Sys2Proof.Machine.execDiv64 gd d a b u s
  | .rem64 gd d a b u => Sys2Proof.Machine.execRem64 gd d a b u s
  | .mul32 gd d a b u => Sys2Proof.Machine.execMul32 gd d a b u s
  | .mulh32 gd d a b u => Sys2Proof.Machine.execMulh32 gd d a b u s
  | .div32 gd d a b u => Sys2Proof.Machine.execDiv32 gd d a b u s
  | .rem32 gd d a b u => Sys2Proof.Machine.execRem32 gd d a b u s
  | .sel gd d a b c => Sys2Proof.Machine.execSel gd d a b c s
  | .addImm gd d a i => Sys2Proof.Machine.execAddImm gd d a i s
  | .shlImm gd d a n => Sys2Proof.Machine.execShlImm gd d a n s
  | .shrN64Imm gd d a n => Sys2Proof.Machine.execShrN64Imm gd d a n s
  | .shrI64Imm gd d a n => Sys2Proof.Machine.execShrI64Imm gd d a n s
  | .rotlImm gd d a n => Sys2Proof.Machine.execRotlImm gd d a n s
  | .andImm gd d a v => Sys2Proof.Machine.execAndImm gd d a v s
  | .orImm gd d a v => Sys2Proof.Machine.execOrImm gd d a v s
  | .xorImm gd d a v => Sys2Proof.Machine.execXorImm gd d a v s
  | .li gd d i => Sys2Proof.Machine.execLi gd d i s
  | .lsi gd d i => Sys2Proof.Machine.execLsi gd d i s
  | .cmp gd d a b u w c => Sys2Proof.Machine.execCmp gd d a b u w c s
  | .cmpImm gd d a c u v => Sys2Proof.Machine.execCmpImm gd d a c u v s
  | .pand gd d a b => Sys2Proof.Machine.execPand gd d a b s
  | .por gd d a b => Sys2Proof.Machine.execPor gd d a b s
  | .pxor gd d a b => Sys2Proof.Machine.execPxor gd d a b s
  | .pandn gd d a b => Sys2Proof.Machine.execPandn gd d a b s
  | .porn gd d a b => Sys2Proof.Machine.execPorn gd d a b s
  | .pnot gd d a => Sys2Proof.Machine.execPnot gd d a s
  | .pset gd d => Sys2Proof.Machine.execPset gd d s
  | .pclr gd d => Sys2Proof.Machine.execPclr gd d s
  | .pins gd d a b => Sys2Proof.Machine.execPins gd d a b s
  | .pext gd d a b => Sys2Proof.Machine.execPext gd d a b s
  | .pcnt gd d a => Sys2Proof.Machine.execPcnt gd d a s
  | .rdctl gd d n => Sys2Proof.Machine.execRdctl gd d n s
  | .wrctl gd d n => Sys2Proof.Machine.execWrctl gd d n s
  | .br gd o => Sys2Proof.Machine.execBr gd o s
  | .jal gd o => Sys2Proof.Machine.execJal gd o s
  | .jalr gd d a i => Sys2Proof.Machine.execJalr gd d a i s
  | .endH gd => Sys2Proof.Machine.execEndH gd s
  | .yieldH gd => Sys2Proof.Machine.execYieldH gd s
  | .ldB gd d b o => Sys2Proof.Machine.execLdB gd d b o s
  | .ldH gd d b o => Sys2Proof.Machine.execLdH gd d b o s
  | .ldW gd d b o => Sys2Proof.Machine.execLdW gd d b o s
  | .ldD gd d b o => Sys2Proof.Machine.execLdD gd d b o s
  | .ldBS gd d b o => Sys2Proof.Machine.execLdBS gd d b o s
  | .ldHS gd d b o => Sys2Proof.Machine.execLdHS gd d b o s
  | .ldWS gd d b o => Sys2Proof.Machine.execLdWS gd d b o s
  | .stB gd d b o => Sys2Proof.Machine.execStB gd d b o s
  | .stH gd d b o => Sys2Proof.Machine.execStH gd d b o s
  | .stW gd d b o => Sys2Proof.Machine.execStW gd d b o s
  | .stD gd d b o => Sys2Proof.Machine.execStD gd d b o s
  | .ldAcq gd d b z k => Sys2Proof.Machine.execLdAcq gd d b z k s
  | .stRel gd d b z k => Sys2Proof.Machine.execStRel gd d b z k s
  | .ldff gd d b z o => Sys2Proof.Machine.execLdff gd d b z o s
  | .ldfe gd d b z o => Sys2Proof.Machine.execLdfe gd d b z o s
  | .fet gd d b z o => Sys2Proof.Machine.execFet gd d b z o s
  | .stef gd d b z o => Sys2Proof.Machine.execStef gd d b z o s
  | .stxf gd d b z o => Sys2Proof.Machine.execStxf gd d b z o s
  | .stxe gd d b z o => Sys2Proof.Machine.execStxe gd d b z o s
  | .aswapD gd d a b => Sys2Proof.Machine.execAswapD gd d a b s
  | .acasD gd d a b => Sys2Proof.Machine.execAcasD gd d a b s
  | .aadd64 gd d a b => Sys2Proof.Machine.execAadd64 gd d a b s
  | .aandD gd d a b => Sys2Proof.Machine.execAandD gd d a b s
  | .aorD gd d a b => Sys2Proof.Machine.execAorD gd d a b s
  | .axorD gd d a b => Sys2Proof.Machine.execAxorD gd d a b s
  | .aminI64 gd d a b => Sys2Proof.Machine.execAminI64 gd d a b s
  | .amaxI64 gd d a b => Sys2Proof.Machine.execAmaxI64 gd d a b s
  | .aminN64 gd d a b => Sys2Proof.Machine.execAminN64 gd d a b s
  | .amaxN64 gd d a b => Sys2Proof.Machine.execAmaxN64 gd d a b s
  | .aadd32 gd d a b => Sys2Proof.Machine.execAadd32 gd d a b s
  | .aswapW gd d a b => Sys2Proof.Machine.execAswapW gd d a b s
  | .acasW gd d a b => Sys2Proof.Machine.execAcasW gd d a b s
  | .adecw gd d a b => Sys2Proof.Machine.execAdecw gd d a b s
  | .aaddF32 gd d a b => Sys2Proof.Machine.execAaddF32 gd d a b s
  | .aaddF64 gd d a b => Sys2Proof.Machine.execAaddF64 gd d a b s
  | .qadd64 gd a b => Sys2Proof.Machine.execQadd64 gd a b s
  | .qandD gd a b => Sys2Proof.Machine.execQandD gd a b s
  | .qorD gd a b => Sys2Proof.Machine.execQorD gd a b s
  | .qxorD gd a b => Sys2Proof.Machine.execQxorD gd a b s
  | .qminI64 gd a b => Sys2Proof.Machine.execQminI64 gd a b s
  | .qmaxI64 gd a b => Sys2Proof.Machine.execQmaxI64 gd a b s
  | .qminN64 gd a b => Sys2Proof.Machine.execQminN64 gd a b s
  | .qmaxN64 gd a b => Sys2Proof.Machine.execQmaxN64 gd a b s
  | .qadd32 gd a b => Sys2Proof.Machine.execQadd32 gd a b s
  | .qdecw gd a b => Sys2Proof.Machine.execQdecw gd a b s
  | .qaddF32 gd a b => Sys2Proof.Machine.execQaddF32 gd a b s
  | .qaddF64 gd a b => Sys2Proof.Machine.execQaddF64 gd a b s
  | .fence gd k => Sys2Proof.Machine.execFence gd k s
  | .fenceAll gd k => Sys2Proof.Machine.execFenceAll gd k s
  | .cleanRange gd a b => Sys2Proof.Machine.execCleanRange gd a b s
  | .invalRange gd a b => Sys2Proof.Machine.execInvalRange gd a b s
  | .flushRange gd a b => Sys2Proof.Machine.execFlushRange gd a b s
  | .icsync gd a b => Sys2Proof.Machine.execIcsync gd a b s
  | .icinvRange gd a b => Sys2Proof.Machine.execIcinvRange gd a b s
  | .send gd a b => Sys2Proof.Machine.execSend gd a b s
  | .rpush gd a b => Sys2Proof.Machine.execRpush gd a b s
  | .rpop gd d a b => Sys2Proof.Machine.execRpop gd d a b s
  | .rpeek gd d b => Sys2Proof.Machine.execRpeek gd d b s
  | .aldD gd a b => Sys2Proof.Machine.execAldD gd a b s
  | .vld gd d a z => Sys2Proof.Machine.execVld gd d a z s
  | .vlds gd d a b z => Sys2Proof.Machine.execVlds gd d a b z s
  | .vldx gd d a b z => Sys2Proof.Machine.execVldx gd d a b z s
  | .vst gd d a z => Sys2Proof.Machine.execVst gd d a z s
  | .vsts gd d a b z => Sys2Proof.Machine.execVsts gd d a b z s
  | .vstx gd d a b z => Sys2Proof.Machine.execVstx gd d a b z s
  | .vaddFp gd d a b f => Sys2Proof.Machine.execVaddFp gd d a b f s
  | .vsubFp gd d a b f => Sys2Proof.Machine.execVsubFp gd d a b f s
  | .vmulFp gd d a b f => Sys2Proof.Machine.execVmulFp gd d a b f s
  | .vdiv gd d a b f => Sys2Proof.Machine.execVdiv gd d a b f s
  | .vminFp gd d a b f => Sys2Proof.Machine.execVminFp gd d a b f s
  | .vmaxFp gd d a b f => Sys2Proof.Machine.execVmaxFp gd d a b f s
  | .vsqrt gd d a f => Sys2Proof.Machine.execVsqrt gd d a f s
  | .vabsFp gd d a f => Sys2Proof.Machine.execVabsFp gd d a f s
  | .vfma gd d a b c => Sys2Proof.Machine.execVfma gd d a b c s
  | .vaddInt gd d a b x => Sys2Proof.Machine.execVaddInt gd d a b x s
  | .vsubInt gd d a b x => Sys2Proof.Machine.execVsubInt gd d a b x s
  | .vmulInt gd d a b x => Sys2Proof.Machine.execVmulInt gd d a b x s
  | .vmulh gd d a b x => Sys2Proof.Machine.execVmulh gd d a b x s
  | .vminInt gd d a b x => Sys2Proof.Machine.execVminInt gd d a b x s
  | .vmaxInt gd d a b x => Sys2Proof.Machine.execVmaxInt gd d a b x s
  | .vand gd d a b x => Sys2Proof.Machine.execVand gd d a b x s
  | .vor gd d a b x => Sys2Proof.Machine.execVor gd d a b x s
  | .vxor gd d a b x => Sys2Proof.Machine.execVxor gd d a b x s
  | .vandn gd d a b x => Sys2Proof.Machine.execVandn gd d a b x s
  | .vshl gd d a b x => Sys2Proof.Machine.execVshl gd d a b x s
  | .vshr gd d a b x => Sys2Proof.Machine.execVshr gd d a b x s
  | .vrotl gd d a b x => Sys2Proof.Machine.execVrotl gd d a b x s
  | .vabsInt gd d a => Sys2Proof.Machine.execVabsInt gd d a s
  | .vadds gd d a b x => Sys2Proof.Machine.execVadds gd d a b x s
  | .vsubs gd d a b x => Sys2Proof.Machine.execVsubs gd d a b x s
  | .vcmp gd d a b x c => Sys2Proof.Machine.execVcmp gd d a b x c s
  | .vcvt gd d a b t => Sys2Proof.Machine.execVcvt gd d a b t s
  | .vcvn gd d a b t => Sys2Proof.Machine.execVcvn gd d a b t s
  | .vrsum gd d a => Sys2Proof.Machine.execVrsum gd d a s
  | .vrmin gd d a => Sys2Proof.Machine.execVrmin gd d a s
  | .vrmax gd d a => Sys2Proof.Machine.execVrmax gd d a s
  | .vrand gd d a => Sys2Proof.Machine.execVrand gd d a s
  | .vror gd d a => Sys2Proof.Machine.execVror gd d a s
  | .vrxor gd d a => Sys2Proof.Machine.execVrxor gd d a s
  | .vssum gd d a => Sys2Proof.Machine.execVssum gd d a s
  | .vsmin gd d a => Sys2Proof.Machine.execVsmin gd d a s
  | .vsmax gd d a => Sys2Proof.Machine.execVsmax gd d a s
  | .vsand gd d a => Sys2Proof.Machine.execVsand gd d a s
  | .vsor gd d a => Sys2Proof.Machine.execVsor gd d a s
  | .vsxor gd d a => Sys2Proof.Machine.execVsxor gd d a s
  | .vbcast gd d a => Sys2Proof.Machine.execVbcast gd d a s
  | .vslideup gd d a b => Sys2Proof.Machine.execVslideup gd d a b s
  | .vslidedn gd d a b => Sys2Proof.Machine.execVslidedn gd d a b s
  | .vperm gd d a b => Sys2Proof.Machine.execVperm gd d a b s
  | .vmov gd d a => Sys2Proof.Machine.execVmov gd d a s
  | .vext gd d a b => Sys2Proof.Machine.execVext gd d a b s
  | .vins gd d a b => Sys2Proof.Machine.execVins gd d a b s
  | .vpack6 gd d a b => Sys2Proof.Machine.execVpack6 gd d a b s
  | .vunp6 gd d a b => Sys2Proof.Machine.execVunp6 gd d a b s
  | .vpack4 gd d a => Sys2Proof.Machine.execVpack4 gd d a s
  | .vunp4 gd d a => Sys2Proof.Machine.execVunp4 gd d a s
  | .vidx gd d => Sys2Proof.Machine.execVidx gd d s
  | .fmtld gd d a => Sys2Proof.Machine.execFmtld gd d a s
  | .fmtrd gd d a => Sys2Proof.Machine.execFmtrd gd d a s
  | .vrcp gd d a f => Sys2Proof.Machine.execVrcp gd d a f s
  | .vrsqrt gd d a f => Sys2Proof.Machine.execVrsqrt gd d a f s
  | .vexp2 gd d a f => Sys2Proof.Machine.execVexp2 gd d a f s
  | .vlog2 gd d a f => Sys2Proof.Machine.execVlog2 gd d a f s
  | .claim gd d a n => Sys2Proof.Machine.execClaim gd d a n s
  | .vrelease gd d a n => Sys2Proof.Machine.execVrelease gd d a n s
  | .mjob gd d a => Sys2Proof.Machine.execMjob gd d a s
  | .cjob gd d a => Sys2Proof.Machine.execCjob gd d a s
  | .coll gd d a => Sys2Proof.Machine.execColl gd d a s
  | .jcancel gd a => Sys2Proof.Machine.execJcancel gd a s
  | .jpoll gd d a => Sys2Proof.Machine.execJpoll gd d a s
  | .jwait gd d a => Sys2Proof.Machine.execJwait gd d a s
  | .subs gd d a => Sys2Proof.Machine.execSubs gd d a s
  | .rack gd d a => Sys2Proof.Machine.execRack gd d a s
  | .unsubs gd a => Sys2Proof.Machine.execUnsubs gd a s
  | .unrack gd a => Sys2Proof.Machine.execUnrack gd a s
  | .aclr gd a => Sys2Proof.Machine.execAclr gd a s
  | .ardr gd d a b => Sys2Proof.Machine.execArdr gd d a b s
  | .awrr gd d a b => Sys2Proof.Machine.execAwrr gd d a b s
  | .wclr gd t a => Sys2Proof.Machine.execWclr gd t a s
  | .wld gd t a b => Sys2Proof.Machine.execWld gd t a b s
  | .wldv gd t a b => Sys2Proof.Machine.execWldv gd t a b s
  | .wset gd t a b => Sys2Proof.Machine.execWset gd t a b s
  | .wadd gd t a b => Sys2Proof.Machine.execWadd gd t a b s
  | .wexp gd t a => Sys2Proof.Machine.execWexp gd t a s
  | .wcut gd t a => Sys2Proof.Machine.execWcut gd t a s
  | .wuncut gd t a => Sys2Proof.Machine.execWuncut gd t a s
  | .wget gd d t b => Sys2Proof.Machine.execWget gd d t b s
  | .wsum gd d t => Sys2Proof.Machine.execWsum gd d t s
  | .wpre gd d t b => Sys2Proof.Machine.execWpre gd d t b s
  | .wfind gd d t b => Sys2Proof.Machine.execWfind gd d t b s
  | .wseq gd d t => Sys2Proof.Machine.execWseq gd d t s
  | .wst gd d t b => Sys2Proof.Machine.execWst gd d t b s
  | .rnd gd d => Sys2Proof.Machine.execRnd gd d s
  | .rndV gd d => Sys2Proof.Machine.execRndV gd d s
  | .pdrop gd d a => Sys2Proof.Machine.execPdrop gd d a s
  | .wdraw gd d t => Sys2Proof.Machine.execWdraw gd d t s
  | .splice gd a b => Sys2Proof.Machine.execSplice gd a b s
  | .rbind gd a b => Sys2Proof.Machine.execRbind gd a b s
  | .runbind gd b => Sys2Proof.Machine.execRunbind gd b s
  | .trap gd n => Sys2Proof.Machine.execTrap gd n s
  | .reseedPlace gd => Sys2Proof.Machine.execReseedPlace gd s
  | .plprobe gd d a b => Sys2Proof.Machine.execPlprobe gd d a b s
  | .excq gd a b => Sys2Proof.Machine.execExcq gd a b s
  | .rft gd => Sys2Proof.Machine.execRft gd s
  | .tinv gd a b => Sys2Proof.Machine.execTinv gd a b s
  | .aspill gd a => Sys2Proof.Machine.execAspill gd a s
  | .atag gd a b => Sys2Proof.Machine.execAtag gd a b s
  | .wspill gd a => Sys2Proof.Machine.execWspill gd a s
  | .wtag gd a b => Sys2Proof.Machine.execWtag gd a b s
  | .keyld gd a b => Sys2Proof.Machine.execKeyld gd a b s
  | .saltld gd a b => Sys2Proof.Machine.execSaltld gd a b s
  | .immx p => Sys2Proof.Machine.execImmx p s
  | .rmode p => Sys2Proof.Machine.execRmode p s
  | .cpol p => Sys2Proof.Machine.execCpol p s
  | .order p => Sys2Proof.Machine.execOrder p s
  | .etype p => Sys2Proof.Machine.execEtype p s
  | _ => .refused (.notEnabled "ISSUE")

/-- Core `n` may issue a word: a handler runs there, nothing holds it, and it has not been pre-empted (R80, R330). -/
def State.canIssue (s : State) (n : Nat) : Bool :=
  let c := s.core n
  c.ctx.isSome && c.handler.isSome && c.hold == .none && !c.blk

/-- A trap that core `n` is to take at its chain boundary: its watchdog's, that of the supervisor's limit, or one that waits
(R42, R188, R278). -/
def State.boundaryTrap (s : State) (n : Nat) : Option State := s.watchdogMove n <|> s.supLimitMove n <|> s.trapMove n

/-- The instruction at the pc of core `n` has issued and stalls: it goes on with the word as fetched, a range with lines still to
issue, or one that waits at the lane pool or the job queue, or has been served there or woken. -/
def State.hasBegun (s : State) (n : Nat) : Bool :=
  let c := s.core n
  let q := s.cluster (clusterOf n)
  c.rangeAt != 0 || c.begun || q.claims.any (fun x => x.1 == n) || q.claimGrants.contains n || q.admits.contains n
    || q.admitGrants.contains n

/-- Run the word `w` of core `n` in its chain, where its registers are ready (R171, R291). -/
def State.runWord (s : State) (n : Nat) (w : Code) : Outcome :=
  let c := s.core n
  match decodeFetched c.hints w with
  | .hint h => .next (s.updCore n fun c => c.pushHint h)
  | .illegal info => .next ((Act.trap s 0x01 info).finish n)
  | .instr i => if c.interlocked w i then .next s else runInstr i s

/-- Issue the word at the pc of core `s.cur` (R80, R171): a trap due at the chain boundary is taken first. -/
def State.issueWord (s : State) : Outcome :=
  let n := s.cur
  match s.boundaryTrap n with
  | some t => .next t
  | none =>
    if s.hasBegun n then s.runWord n (s.core n).ir
    else match s.fetch n with
      | .stop a => .next (a.finish n)
      | .word s w => (s.updCore n fun c => { c with ir := w }).runWord n w

/-- ISSUE (R80): core `n` becomes the issuing core. -/
def execIssue (n : BitVec 11) (s : State) : Outcome :=
  if s.canIssue n.toNat then { s with cur := n.toNat }.issueWord else .refused (.notEnabled "ISSUE")

end Sys2Proof.Machine
end

