-- ==== Sys2Proof/Machine/JobEvents.lean ====
section
/-!
DEFINITION. What the engines of a cluster do (spec/12_matrix_copy_jobs.md R226, R232, R233, R241, R242, R247, R248): starting,
running, suspending and completing jobs, in the moves of spec/04_ordering.md R91.
-/
namespace Sys2Proof.Machine

/-! ### Pages and sectors an engine reads and writes -/

/-- The unit whose translations a job uses (R309). -/
def Job.walker (j : Job) (g : Nat) : Walker := if j.type = 1 then .matrix g else .copy g

/-- Pages an engine has translated: physical address of the first byte, and leaf, by 4 KiB virtual page. -/
abbrev Pages := Store (Nat × Word)

/-- What an engine's accesses come to. -/
inductive Eng (α : Type) where
  | ok (s : State) (x : α)
  /-- a replayable fault (R311) -/
  | fault (s : State) (va : Nat) (write empty : Bool)
  /-- a cause of R235 -/
  | fail (s : State) (cause : Nat)
  /-- a write waits for a share break (R313) -/
  | busy (s : State)

/-- Continue after accesses that succeeded. -/
def Eng.bind {α β : Type} (e : Eng α) (f : State → α → Eng β) : Eng β :=
  match e with
  | .ok s x => f s x
  | .fault s va w y => .fault s va w y
  | .fail s c => .fail s c
  | .busy s => .busy s

/-- The first byte of an interval in each 4 KiB page it meets. -/
def pageStarts (lo hi : Nat) : List Nat :=
  if lo < hi then lo :: ((List.range (hi / 4096 - lo / 4096)).map fun i => (lo / 4096 + i + 1) * 4096).filter (· < hi)
  else []

/-- The first of the addresses of each page. -/
def onePerPage (l : List Nat) : List Nat :=
  l.foldl (fun acc v => if acc.any (fun x => x / 4096 == v / 4096) then acc else acc ++ [v]) []

/-- A page that has been translated for such an access already. -/
def Pages.serves (m : Pages) (va : Nat) (write : Bool) : Bool :=
  match Store.find (va / 4096) m with
  | some (_, leaf) => leafAllows leaf (!write) write false && !(write && Leaf.cow leaf)
  | none => false

/-- Translate pages for a unit, each as `write` says (R309); those of `m` that serve stay as they have been translated (R316). -/
def State.engPages (s : State) (k : Walker) (o : Nat) (sup write : Bool) : List Nat → Pages → Eng Pages
  | [], m => .ok s m
  | va :: rest, m =>
    if m.serves va write then s.engPages k o sup write rest m
    else match s.translate k o sup va (!write) write false with
    | (s, .ok pa leaf) => s.engPages k o sup write rest (Store.put (va / 4096) (pa - va % 4096, leaf) m)
    | (s, .trap) => .fail s (if s.boot.state = 4 then 0x04 else 0x02)
    | (s, .fault e) => .fault s va write e
    | (s, .busy) => .busy s

/-- The physical address of a virtual one. -/
def Pages.pa (m : Pages) (va : Nat) : Nat := (Store.get (0, 0) (va / 4096) m).1 + va % 4096
/-- Its leaf. -/
def Pages.leaf (m : Pages) (va : Nat) : Word := (Store.get (0, 0) (va / 4096) m).2

/-- The image a job uses on a page: B for bank ops, collectives and memory-side pages (R79, R91, R242, R248). -/
def Job.image (j : Job) (leaf : Word) : Image :=
  if j.type = 3 || (j.type = 2 && CCard.bank j.card) then .b else Leaf.image leaf

/-- The access of a job's engine to the line that holds a virtual address. -/
def Job.access (j : Job) (m : Pages) (va : Nat) : Access :=
  let leaf := m.leaf va
  let pa := m.pa va
  { id := 0, op := .load 0 0, dest := .main (j.image leaf), addr := pa - pa % 128, size := 128
    va := BitVec.ofNat 64 va, kind := .rc, tier := Leaf.tierOf leaf, stream := false
    cache := if j.type = 3 then 3 else if j.image leaf == .b then max 2 (Leaf.cache leaf) else max 1 (Leaf.cache leaf)
    owner := j.owner, sup := j.sup, acq := false, rel := none, detected := false, late := false, path := [], entered := false
    fails := false }

/-- An access of a unit passes its arbitration points (R127), and the caches in a traffic class: 1 steeps and racks, 2 jobs
(R69, R122). -/
def State.engTouch (s : State) (k : Walker) (tc : Nat) (a : Access) (op : CacheOp) : State :=
  let line := a.addr / 128
  (s.cross a.owner k.source line (s.memPath k.place k.core_ a.owner line a.cache a.tier op tc)).touch
    k.core_ a.owner line a.cache a.tier false op tc

/-- Read the lines that hold the given addresses: errors are detected, lines of C filled, and poison answers cause 0x05
(R335, R338, R339, R235), with a class 0x03 record for a line poisoned before, or `always` (a steep or rack). `n` is the core
the records name, `k` the unit, `acc` the access made at an address. -/
def State.engLines (s : State) (n : Nat) (k : Walker) (tc : Nat) (always : Bool) (acc : Nat → Access) : List Nat → Eng Unit
  | [] => .ok s ()
  | va :: rest =>
    let a := acc va
    let first := s.latent.contains (a.addr / 128)
    let s := ((s.detect n a 0x05).joinFill k.core_ a).engTouch k tc a .read
    let s := if a.dest == .main .c then s.fillLine (a.addr / 128) a.owner a.sup else s
    match s.poisonAt a with
    | some e =>
      .fail (if first && !always then s
        else s.report 0x03 0x05 (some a.owner) a.va n (e.setWidth 64) false false (BitVec.ofNat 64 a.addr)
          (struct := s.lineStruct (a.addr / 128) (a.dest == .main .c))) 0x05
    | none => s.engLines n k tc always acc rest

/-- The first byte of an interval in each 128-byte line it meets. -/
def lineStarts (lo hi : Nat) : List Nat :=
  if lo < hi then lo :: ((List.range (hi / 128 - lo / 128)).map fun i => (lo / 128 + i + 1) * 128).filter (· < hi)
  else []

/-- A byte a job reads. -/
def State.engByte (s : State) (j : Job) (m : Pages) (va : Nat) : Byte :=
  s.imgByte (j.image (m.leaf va)) (s.keyFor j.owner j.sup) (m.pa va)

/-- Write the low `k` bytes of a value, within one line (R91). -/
def State.engWrite {w : Nat} (s : State) (g : Nat) (j : Job) (m : Pages) (va : Nat) (x : BitVec w) (k : Nat) : State :=
  let a := j.access m va
  (s.engTouch (j.walker g) 2 a .write).imgWrite (j.image (m.leaf va)) j.owner j.sup x (m.pa va) k

/-! ### Where a job stands -/

/-- A context of owner `o` runs on cluster `g`, and its slice has not ended (R289, R330). -/
def State.ownerRuns (s : State) (g o : Nat) : Bool :=
  (coresOf g).any fun n => (s.core n).ctx == some o && !(s.core n).stopped

/-- A target core of an owner's job or agent. -/
inductive Target where
  /-- its context runs -/
  | live
  /-- its context is saved -/
  | saved
  /-- it is no longer in the owner's CMAP (R235 cause 0x06) -/
  | lost
  deriving DecidableEq, Repr

/-- How core `t` stands for owner `o` (R235, R365). -/
def State.target (s : State) (o t : Nat) : Target :=
  if !Own.valid (s.owner o).entry || !Own.hasCore (s.owner o).entry t then .lost
  else if s.liveFor o t then .live else .saved

/-- Change the job in entry `e`. -/
def State.setJob (s : State) (g e : Nat) (j : Job) : State := s.updCluster g fun q => q.setJob e (some j)

/-- A job fails (R235): its edges end, its wake message is still sent, and a collective fails at the others (R248). -/
def State.failJob (s : State) (g e : Nat) (j : Job) (cause : Nat) : State :=
  let s := s.setJob g e { j with state := .failed, cause := cause, wakeDue := j.wakes, faulted := false }
  if j.type = 3 then s.failPeers j.owner j.card 0x08 else s

/-- The move that follows a row or an element (R237): a job that `jcancel` named stops. -/
def Job.advance (j : Job) (prog : Nat) : Job :=
  { j with prog := prog, state := if j.cancel then .cancelled else j.state }

/-- Rows or elements in all. -/
def Job.goal (j : Job) : Nat := if j.type = 1 then 32 else CCard.total j.card

/-- The job makes row or element moves: it runs, work is left, and its owner runs there, or a row it has begun to commit is
still to be finished (R232, R289). -/
def State.jobWorks (s : State) (g : Nat) (j : Job) (type : Nat) : Bool :=
  j.type == type && j.state == .running && decide (j.prog < j.goal) && (s.ownerRuns g j.owner || j.part != 0)

/-! ### Sectors in an engine's hands (R91, R92) -/

/-- The first of the addresses in each 128-byte line. -/
def onePerLine (l : List Nat) : List Nat :=
  l.foldl (fun acc v => if acc.any (fun x => x / 128 == v / 128) then acc else acc ++ [v]) []

/-- The next address of a list whose sector the job is still to read. -/
def Job.nextRead (j : Job) (l : List Nat) : Option Nat := l.find? fun va => (Store.find (va / 128) j.held).isNone

/-- A byte of the sectors the job has read. -/
def Job.heldByte (j : Job) (va : Nat) : Byte := ((Store.find (va / 128) j.held).getD []).getD (va % 128) 0

/-- The job with the sector of an address read: its 128 bytes, as `rd` gives them in this move. -/
def Job.hold (j : Job) (va : Nat) (rd : Nat → Byte) : Job :=
  { j with held := Store.put (va / 128) ((List.range 128).map fun i => rd (va - va % 128 + i)) j.held }

/-- The engine reads the sector of main memory that holds the byte at `va` (R91): the pages it has translated, and the job with the
sector. A bank op or collective reaches no CXL page: it fails before the sector is read (R242, R248, R310). -/
def State.sectorOf (s : State) (g : Nat) (j : Job) (va : Nat) (m : Pages) : Eng Pages :=
  (s.engPages (j.walker g) j.owner j.sup false [va] m).bind fun s m =>
    if (j.type == 3 || (j.type == 2 && CCard.bank j.card)) && Leaf.tier (m.leaf va) == 1 then .fail s 0x02
    else (s.engLines j.issuer (j.walker g) 2 false (j.access m) [va]).bind fun s _ => .ok s m

/-- One read move of a job (R91). -/
def State.sectorRead (s : State) (g e : Nat) (j : Job) (va : Nat) : Eng Unit :=
  (s.sectorOf g j va j.pages).bind fun s m => .ok (s.setJob g e { j.hold va (s.engByte j m) with pages := m }) ()

/-- The engine may read a sector before the row or run that needs it, by a choice: entry `x` of what it reads later (R91, R92;
log 63). Where the choice is none, or the sector cannot be read now, the move is `next`. -/
def State.readAhead (s : State) (later : Nat → Option Nat) (rd : State → Nat → Eng Unit) (next : State → Eng Unit) : Eng Unit :=
  match s.choose with
  | (0, s) => next s
  | (x + 1, s) => match later x with
    | none => next s
    | some va => match rd s va with
      | .ok s u => .ok s u
      | _ => next s

/-- A write of an engine from `s` that waits for a share break: it has made one of its steps, or none (R313). -/
def State.broke (s t : State) : Option State := if t.breaks = s.breaks then none else some t

/-- The outcome of a row or element move from `s`: a fault leaves the move to JOB_SUSPEND. -/
def Eng.settle (e : Eng Unit) (s : State) (g k : Nat) (j : Job) : Option State :=
  match e with
  | .ok s _ => some s
  | .fail s cause => some (s.failJob g k j cause)
  | .fault .. => none
  | .busy t => s.broke t

/-! ### Matrix rows (R106, R107, R230, R232) -/

/-- A matrix operand: its element type, its width, and whether it is planar. -/
structure Operand where
  type : Option EType
  width : Nat
  planar : Bool
  scale : Nat

/-- Operand A or B of a job. -/
def Job.operandA (j : Job) : Operand :=
  let f := MCard.afmt j.card
  ⟨etypeOf f j.fmtA, operandWidth f j.fmtA, operandPlanar f j.fmtA, scaleBase f j.fmtA⟩
def Job.operandB (j : Job) : Operand :=
  let f := MCard.bfmt j.card
  ⟨etypeOf f j.fmtB, operandWidth f j.fmtB, operandPlanar f j.fmtB, scaleBase f j.fmtB⟩

/-- The intervals of one row of `k` elements at `base`, its 2-bit plane at `plane` (R104). -/
def Operand.row (x : Operand) (base plane k : Nat) : List (Nat × Nat) :=
  if x.planar then [(base, base + (4 * k + 7) / 8), (plane, plane + (2 * k + 7) / 8)]
  else [(base, base + (k * x.width + 7) / 8)]

/-- Element `i` of such a row. -/
def Operand.elem (x : Operand) (rd : Nat → Byte) (base plane i : Nat) : Nat :=
  if x.planar then
    ((rd (base + i / 2)).toNat / 2 ^ (4 * (i % 2))) % 16 * 4 + ((rd (plane + i / 4)).toNat / 2 ^ (2 * (i % 4))) % 4
  else joinBytes rd (base + x.width * i / 8) ((x.width * i % 8 + x.width + 7) / 8) / 2 ^ (x.width * i % 8) % 2 ^ x.width

/-- Val of an element. -/
def Operand.val (x : Operand) (bits : Nat) : FVal :=
  match x.type with
  | some t => t.val 0 bits
  | none => .nan

namespace MCard
/-- Row i of A, and its 2-bit plane. -/
def rowA (w : List Word) (i : Nat) : Nat := a w + i * sa w
def planeA (w : List Word) (i : Nat) : Nat := a w + pa w + i * (sa w / 2)
/-- Row k of B, and its 2-bit plane. -/
def rowB (w : List Word) (i : Nat) : Nat := b w + i * sb w
def planeB (w : List Word) (i : Nat) : Nat := b w + pb w + i * (sb w / 2)
/-- Blocks of four along K. -/
def blocks (w : List Word) : Nat := (k w + 3) / 4
end MCard

/-- What row `i` of a matrix job reads (R230). -/
def Job.rowReads (j : Job) (i : Nat) : List (Nat × Nat) :=
  let w := j.card
  let x := j.operandA
  let y := j.operandB
  let nb := MCard.blocks w
  x.row (MCard.rowA w i) (MCard.planeA w i) (MCard.k w)
    ++ ((List.range (MCard.k w)).flatMap fun k => y.row (MCard.rowB w k) (MCard.planeB w k) 32)
    ++ (if x.scale = 0 then [] else [(x.scale + i * MCard.ssa w, x.scale + i * MCard.ssa w + nb)])
    ++ (if y.scale = 0 then [] else
        (List.range nb).map fun t => (y.scale + t * MCard.ssb w, y.scale + t * MCard.ssb w + 32))

/-- The exponent of a block's scale byte (R105, R106): none for 0xFF. -/
def scaleExp (b : Byte) : Option Int := if b = 0xFF then none else some ((b.toNat : Int) - 127)

/-- A value times 2^`e` (R107). -/
def FVal.scale (v : FVal) (e : Int) : FVal :=
  match v with
  | .fin x => .fin { x with e := x.e + e }
  | v => v

/-- The exact sum of products, from a first one (R107). -/
def sumProducts : List FVal → FVal
  | [] => .fin ⟨false, 0, 0, false⟩
  | x :: l => l.foldl (fun a b => a.add b .rne) x

/-- Block `t` of element (i, j) of a floating-point job: P of R107. -/
def Job.block (j : Job) (rd : Nat → Byte) (i c t : Nat) : FVal :=
  let w := j.card
  let x := j.operandA
  let y := j.operandB
  let ks := (List.range 4).filter fun u => 4 * t + u < MCard.k w
  let p := sumProducts (ks.map fun u =>
    (x.val (x.elem rd (MCard.rowA w i) (MCard.planeA w i) (4 * t + u))).mul
      (y.val (y.elem rd (MCard.rowB w (4 * t + u)) (MCard.planeB w (4 * t + u)) c)))
  let sa := if x.scale = 0 then some 0 else scaleExp (rd (x.scale + i * MCard.ssa w + t))
  let sb := if y.scale = 0 then some 0 else scaleExp (rd (y.scale + t * MCard.ssb w + c))
  match sa, sb with
  | some a, some b => p.scale (a + b)
  | _, _ => .nan

/-- Accumulator element after all blocks of a floating-point job (R107). -/
def Job.accFloat (j : Job) (rd : Nat → Byte) (f : FFmt) (i c acc : Nat) : Nat :=
  (List.range (MCard.blocks j.card)).foldl (fun acc t =>
    let q := (f.roundVal (j.block rd i c t) .rne).bits
    (f.roundVal ((f.val acc).add (f.val q) .rne) .rne).bits) acc

/-- The integer of an i8 or n8 element. -/
def Operand.int (x : Operand) (bits : Nat) : Int :=
  match x.type with
  | some (.int f) => f.int bits
  | _ => 0

/-- Accumulator element after all blocks of an integer job (R107). -/
def Job.accInt (j : Job) (rd : Nat → Byte) (i c acc : Nat) : Nat :=
  let w := j.card
  let x := j.operandA
  let y := j.operandB
  let sum := (List.range (MCard.k w)).foldl (fun (a : Int) k =>
    a + x.int (x.elem rd (MCard.rowA w i) 0 k) * y.int (y.elem rd (MCard.rowB w k) 0 c)) (acc : Int)
  (sum % 2 ^ 32).toNat

/-- 4-byte elements of a row of the accumulator: an FP64 element is two of them (R91, R229). -/
def Job.rowWords (j : Job) : Nat := 32 * (accTiles j.card).length

/-- Window offset of 4-byte element `p` of row `i` of the accumulator (R229, R239). -/
def Job.accAt (j : Job) (i p : Nat) : Nat := 4096 * MCard.acc j.card + 4 * (j.rowWords * i + p)

/-- The accumulator element at column `c` as the engine has read it (R232). -/
def Job.accOld (j : Job) (c : Nat) : Nat :=
  let x (p : Nat) : Nat := Store.get 0 p j.accs
  if j.rowWords = 64 then x (2 * c) + 2 ^ 32 * x (2 * c + 1) else x c

/-- Element (i, c) after the job's row (R232). -/
def Job.accNew (j : Job) (rd : Nat → Byte) (i c : Nat) : Nat :=
  let acc := if MCard.clr j.card then 0 else j.accOld c
  match accFmt (MCard.afmt j.card) (MCard.bfmt j.card) with
  | some (.flt f) => j.accFloat rd f i c acc
  | _ => j.accInt rd i c acc

/-- 4-byte element `p` of row `i` after the job's row. -/
def Job.accWord (j : Job) (i p : Nat) : BitVec 32 :=
  if j.rowWords = 64 then BitVec.ofNat 32 (j.accNew j.heldByte i (p / 2) / 2 ^ (32 * (p % 2)))
  else BitVec.ofNat 32 (j.accNew j.heldByte i p)

/-- The sectors row `i` reads, by the first byte of each that it needs. -/
def Job.rowLines (j : Job) (i : Nat) : List Nat := onePerLine ((j.rowReads i).flatMap fun x => lineStarts x.1 x.2)

/-- The next accumulator element that row PROG is still to read (R232). -/
def Job.nextAcc (j : Job) : Option Nat :=
  if MCard.clr j.card then none else (List.range j.rowWords).find? fun p => (Store.find p j.accs).isNone

/-- The job after element PART of row PROG: the last one makes PROG + 1 (R232, R237). The sectors it holds may serve the next
row, which then sees them as they were (R92; log 63). -/
def Job.elementDone (j : Job) (keep : Bool) : Job :=
  if j.rowWords ≤ j.part + 1 then
    { j.advance (j.prog + 1) with part := 0, accs := [], pages := [], stale := false, held := if keep then j.held else [] }
  else { j with part := j.part + 1 }

/-- The next move of row PROG of the matrix job in entry `e` (R91, R232): a sector is read, or an element of the accumulator, or,
once the engine holds all that the row reads, an element is committed. -/
def State.rowCommit (s : State) (g e : Nat) (j : Job) : Eng Unit :=
  let later (x : Nat) : Option Nat :=
    ((j.rowLines (min 31 (j.prog + x % 32)))[x / 32]?).bind fun va => if (Store.find (va / 128) j.held).isNone then some va else none
  s.readAhead later (fun s va => s.sectorRead g e j va) fun s =>
    match j.nextRead (j.rowLines j.prog), j.nextAcc with
    | some va, _ => s.sectorRead g e j va
    | none, some p =>
      .ok (s.setJob g e { j with accs := Store.put p ((s.cluster g).accRead (j.accAt j.prog p) 4).toNat j.accs }) ()
    | none, none =>
      let at_ := j.accAt j.prog j.part
      let s := (s.updCluster g fun q => q.accWrite at_ 4 (j.accWord j.prog j.part)).joinOrder (.cluster g) j.owner at_ 4
      .ok (s.setJob g e (j.elementDone (Config.engineKeeps s.moves))) ()

/-- MATRIX_ROW_COMMIT. -/
def State.rowMove (s : State) (g e : Nat) : Option State :=
  match (s.cluster g).job e with
  | some j => if s.jobWorks g j 1 then (s.rowCommit g e j).settle s g e j else none
  | none => none

/-! ### Copies and bank ops (R241, R242) -/

/-- The index of level `l` at element `e` (R241, R312). -/
def loopIndex (w : List Word) (l e : Nat) : Nat := e / countProd w 0 l % loopCount w l

/-- The address of element `e` from `base` with the given strides. -/
def elemAddr (w : List Word) (nl base e : Nat) (stride : List Word → Nat → Int) : Nat :=
  ((List.range nl).foldl (fun (a : Int) l => a + (loopIndex w l e : Int) * stride w l) (base : Int)).toNat

namespace CCard
def srcAt (w : List Word) (e : Nat) : Nat := elemAddr w (nl w) (src w) e strideS
def src2At (w : List Word) (e : Nat) : Nat := elemAddr w (nl w) (src2 w) e strideS
def dstAt (w : List Word) (e : Nat) : Nat := elemAddr w (nl w) (dst w) e strideD
end CCard

/-- The elements combined into one move (R241): consecutive ones in one sector of each region. -/
def Job.run (j : Job) : Nat → Nat → List Nat
  | 0, _ => []
  | k + 1, e =>
    let w := j.card
    let p := j.prog
    let same (f : List Word → Nat → Nat) : Bool := f w e / 128 == f w p / 128
    if e < CCard.total w && same CCard.srcAt && same CCard.dstAt && (!CCard.two w || same CCard.src2At) then
      e :: j.run k (e + 1)
    else []

/-- A bank op (R242) on type code `t`. -/
def bankOp (op t x y : Nat) : Nat :=
  match etypeOf t 0 with
  | some (.flt f) =>
    let r := match op with
      | 0 => fAdd f .rne x y
      | 1 => fSub f .rne x y
      | 2 => fMul f .rne x y
      | 3 => fMin f x y
      | 4 => fMax f x y
      | _ => x
    if f.isNan r then f.nanCode else r
  | some (.int f) =>
    match op with
    | 0 => f.enc (f.int x + f.int y)
    | 1 => f.enc (f.int x - f.int y)
    | 2 => f.enc (f.int x * f.int y)
    | 3 => if f.int y < f.int x then y else x
    | 4 => if f.int x < f.int y then y else x
    | 5 => x &&& y
    | 6 => x ||| y
    | 7 => x ^^^ y
    | _ => x
  | _ => x

/-- Whether a region of a copy at `va` is a plate window: its core and offset. -/
def plateAt (va : Nat) : Option (Nat × Nat) :=
  match placeOf (BitVec.ofNat 64 va) with
  | some (.plate t off) => some (t, off)
  | _ => none

/-- The plate region of a copy can be used now (R235 cause 0x06). -/
def State.plateUse (s : State) (o va : Nat) : Target :=
  match plateAt va with
  | some (t, _) => s.target o t
  | none => .live

/-- A request of a cluster's engine passes the plate port of core `t` (R124, R127). -/
def State.crossPort (s : State) (o : Nat) (k : Walker) (t : Nat) : State :=
  s.cross o k.source noLine (linked k.place [(9, t)])

/-- One read move of a copy or bank op: the sector of a plate or of main memory that holds the byte at `va` (R91). -/
def State.copyRead (s : State) (g e : Nat) (j : Job) (va : Nat) : Eng Unit :=
  match plateAt va with
  | some (t, _) =>
    .ok ((s.crossPort j.owner (.copy g) t).setJob g e (j.hold va fun a => (s.core t).plateByte (a % 2 ^ 20))) ()
  | none => s.sectorRead g e j va

/-- The addresses of a run that lie in main memory. -/
def mainOf (l : List Nat) : List Nat := l.filter fun a => (plateAt a).isNone

/-- Write the elements of one sector in one move; a whole sector clears poison (R91, R338). -/
def State.copyWrite (s : State) (g : Nat) (j : Job) (m : Pages) (z : Nat) (l : List (Nat × Nat)) : State :=
  match l with
  | [] => s
  | (d, _) :: _ =>
    let base := d - d % 128
    let at_ (a : Nat) : Option Byte :=
      (l.reverse.find? fun x => decide (x.1 ≤ a) && decide (a < x.1 + z)).map fun x => byteAt (BitVec.ofNat 64 x.2) (a - x.1)
    match plateAt d with
    | some (t, _) =>
      l.foldl (fun s (a, x) =>
        (s.plateStore t (a % 2 ^ 20) z (BitVec.ofNat 64 x)).joinOrder (.plate t) j.owner (a % 2 ^ 20) z) (s.crossPort j.owner (.copy g) t)
    | none =>
      if (List.range 128).all fun i => (at_ (base + i)).isSome then
        s.engWrite g j m base (BitVec.ofNat 1024 (joinBytes (fun a => (at_ a).getD 0) base 128)) 128
      else l.foldl (fun s (a, x) => s.engWrite g j m a (BitVec.ofNat 64 x) z) s

/-- The next move of a copy or bank-op job (R91, R241, R242): a sector that the next run reads, or the write of the run. -/
def State.copyRun (s : State) (g e : Nat) (j : Job) : Eng Unit :=
  let w := j.card
  let z := CCard.z w
  let run := j.run 128 j.prog
  let srcs := run.map (CCard.srcAt w)
  let src2s := if CCard.two w then (run.map (CCard.src2At w)).take 1 else []
  let dsts := run.map (CCard.dstAt w)
  let uses := [s.plateUse j.owner (srcs.headD 0), s.plateUse j.owner (dsts.headD 0)]
  if uses.contains .lost then .fail s 0x06
  else if uses.contains .saved then .busy s
  else
    let later (x : Nat) : Option Nat :=
      let i := j.prog + x / 2
      let va := if x % 2 = 1 && CCard.two w then CCard.src2At w i else CCard.srcAt w i
      if i < CCard.total w && (plateAt va).isNone && (Store.find (va / 128) j.held).isNone then some va else none
    s.readAhead later (fun s va => s.copyRead g e j va) fun s =>
    match j.nextRead (srcs.take 1 ++ src2s) with
    | some va => s.copyRead g e j va
    | none =>
      (s.engPages (j.walker g) j.owner j.sup true (onePerPage (mainOf dsts)) j.pages).bind fun s m =>
        if CCard.bank w && dsts.any (fun a => Leaf.tier (m.leaf a) == 1) then .fail s 0x02
        else
          let vals := run.map fun i =>
            let x := joinBytes j.heldByte (CCard.srcAt w i) z
            let y := if CCard.two w then joinBytes j.heldByte (CCard.src2At w i) z else 0
            (CCard.dstAt w i, if CCard.bank w then bankOp (CCard.bop w) (CCard.btype w) x y else x)
          .ok ((s.copyWrite g j m z vals).setJob g e
            { j.advance (j.prog + run.length) with
              pages := [], stale := false, held := if Config.engineKeeps s.moves then j.held else [] }) ()

/-- COPY_ELEMENT and BANK_OP_ELEMENT. -/
def State.copyMove (s : State) (g e : Nat) (bank : Bool) : Option State :=
  match (s.cluster g).job e with
  | some j => if s.jobWorks g j 2 && CCard.bank j.card == bank then (s.copyRun g e j).settle s g e j else none
  | none => none

/-! ### Suspension (R232, R289, R311, R312) -/

/-- Words 2 to 7 of the fault record of a job (R312). -/
def Job.faultInfo (j : Job) (g e : Nat) : List Word :=
  if j.type = 1 then [j.id g e, BitVec.ofNat 64 j.prog, 0, 0, 0, 0]
  else
    let i (l : Nat) : Nat := if l < CCard.nl j.card then loopIndex j.card l j.prog else 0
    let pair (l : Nat) : Word := BitVec.ofNat 64 (i l + i (l + 1) * 2 ^ 32)
    [j.id g e ||| BitVec.ofNat 64 (i 8 / 2 ^ 16 * 2 ^ 48), BitVec.ofNat 64 (j.prog + i 8 % 2 ^ 16 * 2 ^ 48),
      pair 0, pair 2, pair 4, pair 6]

/-- The job as a requester of R312. -/
def Job.faultSrc (j : Job) (g e : Nat) : FaultSrc := .job g e j.seq j.issuer (j.type != 1)

/-- What the next row or element of a running job comes to. -/
def State.jobNext (s : State) (g e : Nat) (j : Job) : Eng Unit :=
  if j.type = 1 then s.rowCommit g e j else s.copyRun g e j

/-- JOB_SUSPEND: at a translation fault, with its record, or at a slice end. A job `jcancel` named stops there (R237);
collectives keep running (R330). -/
def State.suspendMove (s : State) (g e : Nat) : Option State :=
  match (s.cluster g).job e with
  | none => none
  | some j =>
    let halt : Job :=
      { j with state := if j.cancel then .cancelled else .suspended, held := [], accs := [], pages := [], stale := false
               part := if j.goal ≤ j.prog then j.part else 0 }
    if j.state != .running || j.wakeDue || j.type == 3 then none
    else if !s.ownerRuns g j.owner then (if j.part = 0 || j.goal ≤ j.prog then some (s.setJob g e halt) else none)
    else if j.goal ≤ j.prog then none
    else match s.jobNext g e j with
      | .fault s va w empty =>
        some (if j.cancel then s.setJob g e halt
          else (s.setJob g e { halt with faulted := true }).recordFault j.owner (j.faultSrc g e) (BitVec.ofNat 64 va) w empty
            (j.faultInfo g e))
      | _ => none

/-! ### Starting (R90, R226, R289) -/

/-- The job has not ended and still holds its edges. -/
def Job.holds (j : Job) : Bool := j.state == .queued || j.state == .running || j.state == .suspended

/-- Footprints that put job `y` after job `x` (R90). DESIGN CHOICE (log 64): footprints in main memory are compared as virtual
addresses, also those of jobs of different owners, for which the spec does not say whether equal addresses share a byte. -/
def edge (x y : Job) : Bool :=
  x.writes.any (fun a => y.reads.any (meets a) || y.writes.any (meets a)) || x.reads.any fun a => y.writes.any (meets a)

/-- The jobs of a cluster with their entries. -/
def Cluster.jobList (c : Cluster) : List (Nat × Job) :=
  (List.range 32).filterMap fun e => (c.job e).map fun j => (e, j)

/-- A job may start: it is queued, or suspended with no fault pending; its edges are satisfied; its owner runs. -/
def State.startable (s : State) (g : Nat) (j : Job) : Bool :=
  (j.state == .queued || (j.state == .suspended && !j.faulted)) && s.ownerRuns g j.owner &&
    (s.cluster g).jobList.all fun (_, x) => !(decide (x.order < j.order) && x.holds && edge x j)

/-- Jobs an engine runs; one that only waits for its wake message to be accepted needs no engine. -/
def Cluster.runningOn (c : Cluster) (copyUnit : Bool) : Nat :=
  (c.jobList.filter fun (_, j) => j.state == .running && !j.wakeDue && (j.type == 1) != copyUnit).length

/-- Jobs an engine could start (R226). -/
def State.startList (s : State) (g : Nat) (copyUnit : Bool) : List (Nat × Job) :=
  let c := s.cluster g
  if (if copyUnit then 4 else 1) ≤ c.runningOn copyUnit then []
  else c.jobList.filter fun (_, j) => (j.type == 1) != copyUnit && s.startable g j

/-- The oldest job of an owner in a list. -/
def oldestJob (l : List (Nat × Job)) (o : Nat) : Option (Nat × Job) :=
  (l.filter fun x => x.2.owner == o).foldl (fun b x =>
    match b with
    | none => some x
    | some y => if x.2.order < y.2.order then some x else some y) none

/-- Start a job. -/
def State.startJob (s : State) (g e : Nat) (j : Job) : State :=
  s.setJob g e { j with state := .running, started := if j.state = .queued then (s.island 44).cycles.toNat else j.started }

/-- The engine's class 6 point (R226). -/
def enginePoint (g : Nat) (copyUnit : Bool) : Nat := 256 + 2 * g + b2n copyUnit

/-- JOB_START: with jobs of more than one owner, the slot's winner; then that owner's oldest (R226). -/
def State.startMove (s : State) (g : Nat) (copyUnit : Bool) : Option State :=
  let l := s.startList g copyUnit
  let owners := idsOf (l.map fun x => x.2.owner)
  match owners with
  | [] => none
  | [o] => (oldestJob l o).map fun x => s.startJob g x.1 x.2
  | _ =>
    if (s.point 6 (enginePoint g copyUnit)).paused || s.changing 6 (enginePoint g copyUnit) then none else
    match s.lotterySlot 6 (enginePoint g copyUnit) (owners.map fun o => (o, 0)) [] with
    | (some (o, _), s) => (oldestJob l o).map fun x => s.startJob g x.1 x.2
    | (none, _) => none

/-! ### Completion and wake messages (R91, R233) -/

/-- One move of the drain of R233: sector PART of the accumulator goes to DCORE's plate (R91). -/
def State.drain (s : State) (g : Nat) (j : Job) : State :=
  let w := j.card
  let q := s.cluster g
  (List.range 16).foldl (fun s i =>
    let a := 128 * j.part + 8 * i
    s.plateStore (MCard.dcore w) (MCard.doff w + a) 8 (q.accRead (4096 * MCard.acc w + a) 8))
    ((s.crossPort j.owner (.matrix g) (MCard.dcore w)).joinOrder (.plate (MCard.dcore w)) j.owner (MCard.doff w + 128 * j.part) 128)

/-- A job's work is over: it frees its entry, or waits for its wake message to be accepted. -/
def State.finishJob (s : State) (g e : Nat) (j : Job) : State :=
  if j.wakes then s.setJob g e { j with moved := true, drained := true, wakeDue := true, part := 0 }
  else s.setJob g e { j with state := .done, part := 0 }

/-- JOB_COMPLETE: the next sector of the drain in increasing address order, then the completion or its wake message. -/
def State.completeMove (s : State) (g e : Nat) : Option State :=
  match (s.cluster g).job e with
  | none => none
  | some j =>
    if j.state != .running || j.type == 3 || j.wakeDue || !s.ownerRuns g j.owner then none
    else if decide (j.prog < j.goal) then none
    else if j.cancel then some (s.setJob g e { j with state := .cancelled })
    else if j.type = 1 && MCard.drn j.card && decide (128 * j.part < drainBytes j.card) then
      match s.target j.owner (MCard.dcore j.card) with
      | .lost => some (s.failJob g e j 0x06)
      | .saved => none
      | .live => some ((s.drain g j).setJob g e { j with part := j.part + 1 })
    else some (s.finishJob g e j)

/-- The saved inbox of core `n` of owner `o` has a free slot (R365). -/
def State.savedRoom (s : State) (o n : Nat) : Bool :=
  let base := Own.csBase (s.owner o).entry + n * 0x40000
  let key := s.keyFor o false
  let g := (List.range 8).foldl (fun (g : Ring) i => g.setWord i (s.cRead key (base + 0x21000 + 8 * i) 8)) Ring.free
  let held := (Store.find (o * 2 ^ 16 + n) s.saved).map Saved.reserved
  decide (g.occ + held.getD 0 < g.size)

/-- Message number `tag` of requester `who` comes to the inbox of core `t` of owner `o` (R32, R127, R147, R233, R365): it is accepted
at a slot of the plate port's lottery, or waits there (false) while it has none; a saved inbox takes it where it has room. -/
def State.acceptMsg (s : State) (o t who tag : Nat) (r : Rec) : Option (Bool × State) :=
  if s.liveFor o t then
    (s.passPort t 0 o who tag).map fun x => (x.1, if x.1 then x.2.updCore t fun c => c.append 0 r else x.2)
  else if (Store.find (o * 2 ^ 16 + t) s.saved).isSome && s.savedRoom o t then some (true, s.savedAppend o t r) else none

/-- WAKE_MESSAGE_DELIVERY (R233): the status word is that of a done job, or of the failed one. -/
def State.wakeMsgMove (s : State) (g e : Nat) : Option State :=
  match (s.cluster g).job e with
  | none => none
  | some j =>
    if !j.wakeDue then none
    else if j.cancel && j.state == .running then
      some ((s.dropWake g e j).setJob g e { j with state := .cancelled, wakeDue := false })
    else
      let failed := j.state == .failed
      let gone (s : State) : State :=
        s.setJob g e { j with wakeDue := false, state := if failed then j.state else .done }
      match s.target j.owner j.wakeCore with
      | .lost =>
        some (if failed then s.setJob g e { j with wakeDue := false }
          else s.setJob g e { j with state := .failed, cause := 0x06, wakeDue := false })
      | _ =>
        let st : Word := if failed then j.status else BitVec.ofNat 64 (if j.type = 3 then 0 else j.prog)
        (s.acceptMsg j.owner j.wakeCore (j.requester g) (wakeTag e) (j.wakeMsg g e st)).map fun x => if x.1 then gone x.2 else x.2

/-! ### Collectives (R246 to R248) -/

/-- The participants of this module in a collective of owner `o` with their jobs: rank, cluster, entry, job. -/
def State.locals (s : State) (o : Nat) (w : List Word) : List (Nat × Nat × Nat × Job) :=
  let ms := s.members o w
  ((List.range ms.length).zip ms).filterMap fun ((r, m) : Nat × Nat × Nat) =>
    if m.1 = 0 then
      ((s.cluster m.2).jobList.find? fun x => x.2.partOf w && s.groupTable x.2.owner == s.groupTable o).map fun x => (r, m.2, x.1, x.2)
    else none

/-- Every participant has been heard from: those here have started, those elsewhere as the links tell (R248; log 25). -/
def State.heard (s : State) (o : Nat) (w : List Word) : Bool :=
  let ms := s.members o w
  let l := s.locals o w
  l.length == (ms.filter fun m => m.1 == 0).length && l.all (fun x => x.2.2.2.state != .queued)
    && (ms.all (fun m => m.1 == 0) || Config.peerHeard (s.groupTable o) (Coll.group w) (Coll.cseq w) s.moves)

/-- All participants agree in OP, RED, TCODE and COUNT (R248). -/
def State.agreed (s : State) (o : Nat) (w : List Word) : Bool :=
  let ms := s.members o w
  (s.locals o w).all (fun x => Coll.header x.2.2.2.card == Coll.header w && Coll.count x.2.2.2.card == Coll.count w)
    && (ms.all (fun m => m.1 == 0) ||
      Config.peerAgrees (s.groupTable o) (Coll.group w) (Coll.cseq w) (Coll.header w) (BitVec.ofNat 64 (Coll.count w)))

/-- The reduction of RED in TCODE (R247). -/
def Coll.reduce (w : List Word) (x y : Nat) : Nat :=
  bankOp (match Coll.red w with | 0 => 0 | 1 => 3 | _ => 4) (Coll.tcode w) x y

/-- A pairwise tree of the shape of R108, with fuel for its levels. -/
def pairTree (f : Nat → Nat → Nat) : Nat → List Nat → List Nat
  | 0, l => l
  | k + 1, l =>
    let rec pairs : List Nat → List Nat
      | x :: y :: r => f x y :: pairs r
      | l => l
    if l.length ≤ 1 then l else pairTree f k (pairs l)

/-- Elements of a chunk. -/
def Coll.chunk (w : List Word) (p : Nat) : Nat := Coll.count w / p

/-- The rank whose chunk holds element `x` (R247; log 25). -/
def Coll.rankOf (w : List Word) (p x : Nat) : Nat :=
  if Coll.count w % p = 0 then x / Coll.chunk w p else Config.oddChunk p (Coll.count w) x % p

/-- The result for element `x` from the contributions by rank (R247). -/
def collResult (w : List Word) (ms : List (Nat × Nat)) (contrib : Nat → Nat) (x : Nat) : Nat :=
  let mods := (ms.map Prod.fst).eraseDups.mergeSort
  let sums := mods.map fun m =>
    ((pairTree (Coll.reduce w) ms.length
      (((List.range ms.length).filter fun r => (ms.getD r (0, 0)).1 == m).map contrib)).headD 0)
  let own := (ms.getD (Coll.rankOf w ms.length x) (0, 0)).1
  let at_ (k : Nat) : Nat := sums.getD ((mods.idxOf own + k) % mods.length) 0
  let r := (List.range (mods.length - 1)).foldl (fun t k => Coll.reduce w t (at_ (k + 2))) (at_ 1)
  match etypeOf (Coll.tcode w) 0 with
  | some (.flt f) => if f.isNan r then f.nanCode else r
  | _ => r

/-- Bytes a participant writes. -/
def Coll.bytes (w : List Word) (p : Nat) : Nat := (if Coll.op w = 1 then Coll.chunk w p else Coll.count w) * Coll.z w

/-- What element `y` of the destination of rank `r` is made from: the element of the sources, and for an all-gather
the one rank it comes from. -/
def Coll.elem (w : List Word) (p r y : Nat) : Nat × Option Nat :=
  match Coll.op w with
  | 1 => (r * Coll.chunk w p + y, none)
  | 2 => (y % Coll.chunk w p, some (y / Coll.chunk w p))
  | _ => (y, none)

/-- The elements of the sources that element `y` of the destination of rank `r` is made from, each with its rank (R247). -/
def Coll.parts (w : List Word) (p r y : Nat) : List (Nat × Nat) :=
  match Coll.elem w p r y with
  | (x, some q) => [(q, x)]
  | (x, none) => (List.range p).map fun q => (q, x)

/-- The address of element `x` of a participant's source. -/
def Coll.sourceAt (w : List Word) (x : Nat) : Nat := Coll.src w + x * Coll.z w

/-- Where a collective holds the sector of an address of rank `q`. -/
def heldKey (q va : Nat) : Nat := q * 2 ^ 45 + va / 128

/-- The next sector of a source that the next sector of the destination needs and that has not been read (R91): a participant of
this module with its cluster and entry, its rank, and an address in the sector. -/
def State.collNext (s : State) (j : Job) (r : Nat) (ys : List Nat) : Option (Nat × Nat × Nat × Job × Nat) :=
  let p := (s.members j.owner j.card).length
  let l := s.locals j.owner j.card
  (ys.flatMap (Coll.parts j.card p r)).findSome? fun (q, x) =>
    (l.find? fun y => y.1 == q).bind fun (_, g, e, i) =>
      let va := Coll.sourceAt i.card x
      if (Store.find (heldKey q va) j.held).isNone then some (q, g, e, i, va) else none

/-- The contribution of rank `q` to element `x`: of a sector read here, or of a participant on another module (R247; log 25). -/
def State.contribution (s : State) (j : Job) (q x : Nat) : Nat :=
  match (s.locals j.owner j.card).find? fun y => y.1 == q with
  | none =>
    (Config.peerElement (s.groupTable j.owner) (Coll.group j.card) q (Coll.cseq j.card) x).toNat % 2 ^ (8 * Coll.z j.card)
  | some (_, _, _, i) =>
    let va := Coll.sourceAt i.card x
    let sector := (Store.find (heldKey q va) j.held).getD []
    joinBytes (fun a => sector.getD (a % 128) 0) va (Coll.z j.card)

/-- Element `y` of the destination of rank `r` (R247). -/
def State.collElement (s : State) (j : Job) (r y : Nat) : Nat :=
  let ms := s.members j.owner j.card
  match Coll.elem j.card ms.length r y with
  | (x, some q) => s.contribution j q x
  | (x, none) => collResult j.card ms (fun q => s.contribution j q x) x

/-- COLLECTIVE_MOVE: one sector of a source is read, or one of the destination written, in any slice (R91, R247, R330). A page fault
fails every participant (R311). -/
def State.collMove (s : State) (g e : Nat) : Option State :=
  match (s.cluster g).job e with
  | none => none
  | some j =>
    let w := j.card
    let ms := s.members j.owner w
    let z := Coll.z w
    let r := ms.idxOf (0, g)
    if j.type != 3 || j.state != .running || j.moved || !s.heard j.owner w then none
    else if !s.agreed j.owner w then some (s.failPeers j.owner w 0x07)
    else
      let total := Coll.bytes w ms.length
      let d := Coll.dst w + j.prog
      let len := min (128 - d % 128) (total - j.prog)
      let ys := (List.range (len / z)).map fun i => j.prog / z + i
      match s.collNext j r ys with
      | some (q, g', e', i, va) =>
        match s.sectorOf g' i va [] with
        | .ok s m =>
          let data := (List.range 128).map fun k => s.engByte i m (va - va % 128 + k)
          some (s.setJob g e { j with held := Store.put (heldKey q va) data j.held })
        | .fail s cause => some (s.failJob g' e' i cause)
        | .fault s .. => some (s.failPeers j.owner w 0x08)
        | .busy _ => none
      | none =>
        match s.engPages (j.walker g) j.owner j.sup true [d] [] with
        | .fault s .. => some (s.failPeers j.owner w 0x08)
        | .fail s cause => some (s.failJob g e j cause)
        | .busy t => s.broke t
        | .ok s m =>
          if Leaf.tier (m.leaf d) = 1 then some (s.failJob g e j 0x02)
          else
            let vals := ys.map fun y => (Coll.dst w + y * z, s.collElement j r y)
            let p := j.prog + len
            some ((s.copyWrite g j m z vals).setJob g e { j with prog := p, moved := decide (total ≤ p), held := [] })

/-- COLLECTIVE_COMPLETE (R248): its destination is written, and no participant still needs its source. -/
def State.collComplete (s : State) (g e : Nat) : Option State :=
  match (s.cluster g).job e with
  | none => none
  | some j =>
    let w := j.card
    let ms := s.members j.owner w
    let free := j.drained || ((s.locals j.owner w).all (fun x => x.2.2.2.moved)
      && (s.locals j.owner w).length == (ms.filter fun m => m.1 == 0).length
      && (ms.all (fun m => m.1 == 0) || Config.peerDone (s.groupTable j.owner) (Coll.group w) (Coll.cseq w) s.moves))
    if j.type != 3 || j.state != .running || !j.moved || j.wakeDue || !free then none
    else
      let s := (s.locals j.owner w).foldl (fun s (_, q, k, x) => s.setJob q k { x with drained := true }) s
      some (s.finishJob g e { j with drained := true })

/-- COLLECTIVE_TIMEOUT (R248): a participant is not heard from within the group's timeout. -/
def State.collTimeout (s : State) (g e : Nat) : Option State :=
  match (s.cluster g).job e with
  | none => none
  | some j =>
    let w := j.card
    let t := Config.groupTimeout (s.groupTable j.owner) (Coll.group w)
    if j.type == 3 && j.state == .running && !j.moved && !s.heard j.owner w
        && decide (j.started + t ≤ (s.island 44).cycles.toNat) then
      some (s.failJob g e j 0x08)
    else none

/-! ### The event rows -/

/-- JOB_START (R226). -/
def execJobStart (g : BitVec 8) (copyUnit : Bool) (s : State) : Outcome := event "JOB_START" (s.startMove g.toNat copyUnit)
/-- MATRIX_ROW_COMMIT (R232). -/
def execMatrixRowCommit (g : BitVec 8) (e : BitVec 5) (s : State) : Outcome :=
  event "MATRIX_ROW_COMMIT" (s.rowMove g.toNat e.toNat)
/-- COPY_ELEMENT (R241). -/
def execCopyElement (g : BitVec 8) (e : BitVec 5) (s : State) : Outcome :=
  event "COPY_ELEMENT" (s.copyMove g.toNat e.toNat false)
/-- BANK_OP_ELEMENT (R242). -/
def execBankOpElement (g : BitVec 8) (e : BitVec 5) (s : State) : Outcome :=
  event "BANK_OP_ELEMENT" (s.copyMove g.toNat e.toNat true)
/-- JOB_SUSPEND (R232). -/
def execJobSuspend (g : BitVec 8) (e : BitVec 5) (s : State) : Outcome := event "JOB_SUSPEND" (s.suspendMove g.toNat e.toNat)
/-- JOB_COMPLETE (R91). -/
def execJobComplete (g : BitVec 8) (e : BitVec 5) (s : State) : Outcome := event "JOB_COMPLETE" (s.completeMove g.toNat e.toNat)
/-- WAKE_MESSAGE_DELIVERY (R233). -/
def execWakeMessageDelivery (g : BitVec 8) (e : BitVec 5) (s : State) : Outcome :=
  event "WAKE_MESSAGE_DELIVERY" (s.wakeMsgMove g.toNat e.toNat)
/-- COLLECTIVE_MOVE (R247). -/
def execCollectiveMove (g : BitVec 8) (e : BitVec 5) (s : State) : Outcome := event "COLLECTIVE_MOVE" (s.collMove g.toNat e.toNat)
/-- COLLECTIVE_COMPLETE (R248). -/
def execCollectiveComplete (g : BitVec 8) (e : BitVec 5) (s : State) : Outcome :=
  event "COLLECTIVE_COMPLETE" (s.collComplete g.toNat e.toNat)
/-- COLLECTIVE_TIMEOUT (R248). -/
def execCollectiveTimeout (g : BitVec 8) (e : BitVec 5) (s : State) : Outcome :=
  event "COLLECTIVE_TIMEOUT" (s.collTimeout g.toNat e.toNat)

end Sys2Proof.Machine
end

