-- ==== Sys2Proof/Machine/AgentEvents.lean ====
section
/-!
DEFINITION. Tile commands at the plate port (spec/03_memory_spaces.md R66, R67), steeps and racks at work
(spec/12_matrix_copy_jobs.md R243 to R245), and the ring engine's moves (spec/07_pipelines_splices.md R140 to R143).
-/
namespace Sys2Proof.Machine

/-! ### Tile commands (R66, R67) -/

/-- A store at the tile table of core `n`, as its port applies it; where R66 or R67 traps, the store's instruction does. -/
def State.tilePort (s : State) (n t : Nat) (r : TileRes) : Option State :=
  match r with
  | .trap .. => none
  | .ok c spoil => onlyIf (s.core n).ctx.isSome (s.applyTile n t c spoil)

/-- TILE_RECONFIGURE (R66). -/
def execTileReconfigure (n : BitVec 11) (t : BitVec 5) (v : BitVec 64) (s : State) : Outcome :=
  event "TILE_RECONFIGURE" (s.tilePort n.toNat t.toNat ((s.core n.toNat).tileConfig t.toNat v 0))
/-- TILE_RELEASE (R67). -/
def execTileRelease (n : BitVec 11) (t : BitVec 5) (s : State) : Outcome :=
  event "TILE_RELEASE" (s.tilePort n.toNat t.toNat ((s.core n.toNat).tileRelease t.toNat (Config.unitInFlight s.moves)))
/-- TILE_PUBLISH (R67). -/
def execTilePublish (n : BitVec 11) (t : BitVec 5) (s : State) : Outcome :=
  event "TILE_PUBLISH" (s.tilePort n.toNat t.toNat ((s.core n.toNat).tilePublish t.toNat))
/-- TILE_CMD_NOP (R66): commands 0 and 3 to 7. -/
def execTileCmdNop (n : BitVec 11) (_t : BitVec 5) (c : BitVec 3) (s : State) : Outcome :=
  event "TILE_CMD_NOP" (onlyIf ((s.core n.toNat).ctx.isSome && c != 1 && c != 2) s)

/-! ### What agents share -/

/-- Agent `h` of core `n`, when it runs, waits for no page and its context runs (R243, R311, R330). -/
def State.agentAt (s : State) (n h kind : Nat) : Option Agent :=
  let c := s.core n
  match Store.find h c.agents with
  | some a =>
    if a.state == .running && !a.faulted && a.kind == kind && c.ctx == some a.owner && !c.stopped then some a else none
  | none => none

/-- Replace agent `h` of core `n`, keeping the translations it has cached meanwhile. -/
def State.setAgent (s : State) (n h : Nat) (a : Agent) : State :=
  let tlb := s.tlbOf (.agent n h)
  s.updCore n fun c => { c with agents := Store.put h { a with tlb := tlb } c.agents }

/-- The access of an agent in image B (R89, R244, R245), by pages of its own. -/
def Agent.access (a : Agent) (m : Pages) (va : Nat) : Access :=
  let pa := m.pa va
  { id := 0, op := .load 0 0, dest := .main .b, addr := pa - pa % 128, size := 128, va := BitVec.ofNat 64 va, kind := .rc
    tier := Leaf.tierOf (m.leaf va), stream := false, cache := max 2 (Leaf.cache (m.leaf va)), owner := a.owner, sup := false
    acq := false, rel := Option.none, detected := false, late := false, path := [], entered := false, fails := false }

/-- Translate the pages an agent uses, and read the lines it reads; CXL pages answer cause 0x02 (R310). -/
def State.agentPages (s : State) (n h : Nat) (a : Agent) (write : Bool) (l : List Nat) (m : Pages) : Eng Pages :=
  (s.engPages (.agent n h) a.owner false write (onePerPage l) m).bind fun s m =>
    if l.any fun v => Leaf.tier (m.leaf v) == 1 then .fail s 0x02
    else if write then .ok s m
    else (s.engLines n (.agent n h) 1 true (a.access m) (l.map fun v => v - v % 128).eraseDups).bind fun s _ => .ok s m

/-- A byte an agent reads. -/
def State.agentByte (s : State) (a : Agent) (m : Pages) (va : Nat) : Byte := s.bByte (s.keyFor a.owner false) (m.pa va)

/-- Store the low `k` bytes of a value for an agent, in image B (R245, R317). -/
def State.agentStore {w : Nat} (s : State) (n h : Nat) (a : Agent) (m : Pages) (va : Nat) (x : BitVec w) (k : Nat) : State :=
  (s.engTouch (.agent n h) 1 (a.access m va) .write).imgWrite .b a.owner false x (m.pa va) k

/-- Store 8 bytes of an agent at any address: byte by byte where they meet two lines. -/
def State.agentWord (s : State) (n h : Nat) (a : Agent) (m : Pages) (va : Nat) (x : Word) : State :=
  if va % 128 ≤ 120 then s.agentStore n h a m va x 8
  else (List.range 8).foldl (fun s i => s.agentStore n h a m (va + i) (byteAt x i) 1) s

/-- A tile an agent filled or drained when it stops: a fill leaves undefined bytes (R67, R245). -/
def State.abandonTile (s : State) (n h : Nat) (a : Agent) : State :=
  let t := ADesc.tile a.desc
  let x := (s.core n).tile t
  if ADesc.tiled a.desc && x.agent.toNat == h && (x.state == .filling || x.state == .draining) then
    let s' := s.updCore n fun c =>
      { c.setTile t { x with state := .empty } with spoilt := c.spoilt.filter fun y => y.1 != t }
    if x.state == .filling then s'.spoilBytes n x.start x.bytes else s'
  else s

/-- An agent stops with a cause of R235, recorded as an engine failure; poison is recorded as consumed (R244, R245, R334,
R339). It keeps its handle and slot. -/
def State.agentStop (s : State) (n h : Nat) (a : Agent) (cause : Nat) : State :=
  let s := ((s.setAgent n h { a with state := .stopped cause, buf := [] }).abandonTile n h a).unwait (agentRequester n h)
  if cause = 0x05 then s else s.report 0x0B cause (some a.owner) 0 n 0

/-- What an agent's move from `s` comes to: it pauses at a replayable fault (R311), and stops on a cause. -/
def State.agentSettle (s : State) (n h : Nat) (a : Agent) (e : Eng State) : Option State :=
  match e with
  | .ok _ s => some s
  | .fault s va w empty =>
    some ((s.setAgent n h { a with faulted := true }).recordFault a.owner (.agent n h) (BitVec.ofNat 64 va) w empty
      [BitVec.ofNat 64 h, 0, 0, 0, 0, 0])
  | .fail s cause => some (s.agentStop n h a cause)
  | .busy t => s.broke t

/-! ### Steeps (R244, R288) -/

namespace ADesc
/-- The address of element `i` of the loop order. -/
def addr (w : List Word) (i : Nat) : Nat := elemAddr w (nl w) (base w) i strideS
/-- Elements of a steep to a ring, those of one record, and its data records. -/
def total (w : List Word) : Nat := countProd w 0 (nl w)
def perRecord (w : List Word) : Nat := 48 / z w
def records (w : List Word) : Nat := (total w + perRecord w - 1) / perRecord w
/-- Elements in one 128-byte unit of a tile. -/
def perUnit (w : List Word) : Nat := 128 / z w
end ADesc

/-- The header of a record that core `n` subscribed to (R244, R288). -/
def steepHeader (n kind : Nat) : Word := BitVec.ofNat 64 (n * 2 ^ 13 + kind)

/-- The marker record (R288). -/
def steepMarker (n : Nat) (w : List Word) : Rec :=
  mkRec [steepHeader n 3, ADesc.wb w + BitVec.ofNat 64 (ADesc.records w), BitVec.ofNat 64 (ADesc.total w),
    BitVec.ofNat 64 (ADesc.records w), 0, 0, 0, 0]

/-- The elements with numbers from `i` to `hi` − 1 as little-endian words. -/
def State.elemWords (s : State) (a : Agent) (m : Pages) (i hi bytes : Nat) : List Word :=
  let z := ADesc.z a.desc
  let b (k : Nat) : Byte :=
    if i + k / z < hi then s.agentByte a m (ADesc.addr a.desc (i + k / z) + k % z) else 0
  (List.range (bytes / 8)).map fun k => readWord b (8 * k) 8

/-- A steep's target ring is lost: its core fails R58, or the ring is free (R244, R275). -/
def State.steepLost (s : State) (n : Nat) (w : List Word) : Bool :=
  !s.targetOk n (ADesc.tcore w) || ((s.core (ADesc.tcore w)).ring (ADesc.ring w)).log2n == 0

/-- STEEP_RECORD_APPEND, at a slot of the target's plate port (R244). -/
def State.steepAppend (s : State) (n h : Nat) : Option State :=
  match s.agentAt n h 1 with
  | none => none
  | some a =>
    let w := a.desc
    let t := ADesc.tcore w
    let j := ADesc.ring w
    let last (k : Nat) : AgentState :=
      if k = ADesc.records w + b2n (ADesc.mark w) then .ended else .running
    if s.steepLost n w then some (s.agentStop n h a 0x06)
    else
    match s.passPort t j a.owner (agentRequester n h) 0 with
    | none => none
    | some (false, s) => some s
    | some (true, s) =>
    if a.count = ADesc.records w then
      some ((s.updCore t fun c => c.append j (steepMarker n w)).setAgent n h
        { a with count := a.count + 1, state := last (a.count + 1) })
    else
      let lo := a.count * ADesc.perRecord w
      let hi := min (ADesc.total w) (lo + ADesc.perRecord w)
      s.agentSettle n h a <|
        (s.agentPages n h a false ((List.range (hi - lo)).map fun i => ADesc.addr w (lo + i)) []).bind fun s m =>
          let r := mkRec ([steepHeader n 2, ADesc.wb w + BitVec.ofNat 64 a.count] ++ s.elemWords a m lo hi 48)
          let s := (s.updCore t fun c => c.append j r).setAgent n h
            { a with count := a.count + 1, elem := hi, state := last (a.count + 1) }
          .ok s s

/-- The units that tile `t` shares with other tiles that are filling: each tile, and the unit's plate offset / 128. -/
def Core.sharedUnits (c : Core) (t : Nat) : List (Nat × Nat) :=
  let x := c.tile t
  (List.range 32).flatMap fun k =>
    let y := c.tile k
    if k == t || y.state != .filling then [] else
      ((List.range (x.lenm1.toNat + 1)).map fun i => (k, x.base.toNat + i)).filter fun z =>
        decide (y.base.toNat ≤ z.2) && decide (z.2 ≤ y.base.toNat + y.lenm1.toNat)

/-- Tile `t` of core `n` begins to fill: the units it shares with tiles that are filling are undefined, whichever fill
writes them and when (R65). -/
def State.fillTile (s : State) (n t : Nat) : State :=
  let c := s.core n
  let both := c.sharedUnits t
  let c := { c.setTile t { c.tile t with state := .filling, prog := 0 } with
    spoilt := c.spoilt.filter (fun y => y.1 != t) ++ both ++ both.map fun y => (t, y.2) }
  ((both.map Prod.snd).eraseDups).foldl (fun s u => s.spoilBytes n (128 * u) 128) (s.setCore n c)

/-- No unit of a released drain is in flight at a tile, so that its agent may start on it (R67). -/
def Core.noFlight (c : Core) (t : Nat) : Bool := c.flights.all fun f => f.tile != t

/-- STEEP_FILL_START (R67, R244): the next combination of the outer levels. -/
def State.fillStart (s : State) (n h : Nat) : Option State :=
  match s.agentAt n h 2 with
  | none => none
  | some a =>
    let t := ADesc.tile a.desc
    let x := (s.core n).tile t
    onlyIf (x.state == .empty && x.agent.toNat == h && decide (a.elem < ADesc.outer a.desc) && (s.core n).noFlight t)
      ((s.fillTile n t).setAgent n h { a with elem := a.elem + 1 })

/-- The numbers of the elements of unit `u` of the fill or drain in progress (R244, R245). -/
def Agent.unitElem (a : Agent) (u i : Nat) : Nat := (a.elem - 1) * ADesc.inner a.desc + u * ADesc.perUnit a.desc + i

/-- The bytes of unit `u` of tile `t`, as a fill writes them: `ws`, or free values where the unit is undefined (R65, R68). -/
def State.unitWrite (s : State) (n t u : Nat) (ws : List Word) : State :=
  let x := (s.core n).tile t
  if (s.core n).spoilt.contains (t, x.base.toNat + u) then s.spoilBytes n (x.start + 128 * u) 128
  else (s.updCore n fun c =>
    ((List.range 16).zip ws).foldl (fun c (i, v) => c.plateWrite (x.start + 128 * u + 8 * i) 8 v) c).joinOrder (.plate n)
      (s.core n).own (x.start + 128 * u) 128

/-- STEEP_UNIT_COMPLETE. -/
def State.fillUnit (s : State) (n h : Nat) : Option State :=
  match s.agentAt n h 2 with
  | none => none
  | some a =>
    let w := a.desc
    let t := ADesc.tile w
    let x := (s.core n).tile t
    let u := x.prog.toNat
    if x.state != .filling || x.agent.toNat != h then none
    else
      s.agentSettle n h a <|
        (s.agentPages n h a false ((List.range (ADesc.perUnit w)).map fun i => ADesc.addr w (a.unitElem u i)) []).bind fun s m =>
          let ws := s.elemWords a m (a.unitElem u 0) (a.unitElem u 0 + ADesc.perUnit w) 128
          let full := u = x.lenm1.toNat
          let s := (s.unitWrite n t u ws).updCore n fun c =>
            { c.setTile t { x with prog := x.prog + 1, state := if full then .ready else .filling
                                   seq := if full then x.seq + 1 else x.seq } with
              spoilt := if full then c.spoilt.filter (fun y => y.1 != t) else c.spoilt }
          let s := s.setAgent n h
            (if full then
              { a with count := a.count + 1, state := if a.elem = ADesc.outer w then .ended else .running }
            else a)
          .ok s s

/-! ### Racks (R245) -/

/-- Store a rack's count of records or drains written (R245). -/
def State.rackProgress (s : State) (n h : Nat) (a : Agent) (m : Pages) (k : Nat) : State :=
  if ADesc.prog a.desc = 0 then s else s.agentStore n h a m (ADesc.prog a.desc) (BitVec.ofNat 64 k) 8

/-- RACK_DRAIN_START (R67). -/
def State.drainStart (s : State) (n h : Nat) : Option State :=
  match s.agentAt n h 4 with
  | none => none
  | some a =>
    let t := ADesc.tile a.desc
    let x := (s.core n).tile t
    onlyIf (x.state == .ready && x.agent.toNat == h && decide (a.elem < ADesc.outer a.desc) && (s.core n).noFlight t)
      ((s.updCore n fun c => c.setTile t { x with state := .draining, prog := 0 }).setAgent n h { a with elem := a.elem + 1 })

/-- The addresses of a unit's elements in a rack's tensor. -/
def Agent.unitAddrs (a : Agent) (u : Nat) : List Nat :=
  (List.range (ADesc.perUnit a.desc)).map fun i => ADesc.addr a.desc (a.unitElem u i)

/-- Store the unit at plate offset `p` of core `n` to the addresses `dst`: one move where they make up one sector (R91, R245,
R338). -/
def State.unitStore (s : State) (n h : Nat) (a : Agent) (m : Pages) (p : Nat) (dst : List Nat) : State :=
  let z := ADesc.z a.desc
  let d := dst.headD 0
  if d % 128 = 0 && dst == (List.range dst.length).map fun i => d + z * i then
    s.agentStore n h a m d (BitVec.ofNat 1024 (joinBytes (s.core n).plateByte p 128)) 128
  else ((List.range dst.length).zip dst).foldl (fun s (i, d) => s.agentStore n h a m d ((s.core n).plateRead (p + z * i) z) z) s

/-- The unit in flight of a released drain completes, and is counted while the entry stands (R67). DESIGN CHOICE (log 58):
one whose pages cannot be used any more ends without a write. DESIGN CHOICE (log 72): it writes the bytes that the plate holds
as it completes. -/
def State.flightDone (s : State) (n : Nat) (f : Flight) : Option State :=
  let dst := f.agent.unitAddrs f.unit
  let gone (s : State) : State := s.updCore n fun c => { c with flights := c.flights.filter (· != f) }
  match s.agentPages n f.handle f.agent true dst [] with
  | .ok s m =>
    some (gone ((s.unitStore n f.handle f.agent m (f.start + 128 * f.unit) dst).updCore n fun c =>
      let x := c.tile f.tile
      if f.counts then c.setTile f.tile { x with prog := x.prog + 1 } else c))
  | .fault s .. => some (gone s)
  | .fail s _ => some (gone s)
  | .busy t => s.broke t

/-- RACK_UNIT_COMPLETE: a unit in flight of a released drain, or the next unit of a drain; with the last unit goes the
count of drains. -/
def State.drainUnit (s : State) (n h : Nat) : Option State :=
  match (s.core n).flights.find? fun f => f.handle == h with
  | some f => s.flightDone n f
  | none =>
  match s.agentAt n h 4 with
  | none => none
  | some a =>
    let w := a.desc
    let t := ADesc.tile w
    let x := (s.core n).tile t
    let u := x.prog.toNat
    let full := u = x.lenm1.toNat
    let dst := a.unitAddrs u
    if x.state != .draining || x.agent.toNat != h then none
    else
      s.agentSettle n h a <|
        (s.agentPages n h a true (dst ++ (if full && ADesc.prog w != 0 then [ADesc.prog w] else [])) []).bind fun s m =>
          let s := s.unitStore n h a m (x.start + 128 * u) dst
          let s := if full then s.rackProgress n h a m (a.count + 1) else s
          let s := s.updCore n fun c => c.setTile t { x with prog := x.prog + 1, state := if full then .empty else .draining }
          let s := s.setAgent n h (if full then
              { a with count := a.count + 1, state := if a.elem = ADesc.outer w then .ended else .running }
            else a)
          .ok s s

/-- RACK_RECORD_WRITE: the oldest record accepted, then the progress word. -/
def State.rackWrite (s : State) (n h : Nat) : Option State :=
  match s.agentAt n h 3 with
  | none => none
  | some a =>
    match a.buf with
    | [] => none
    | r :: rest =>
      let w := a.desc
      let d := ADesc.base w + a.written % a.cap * 64
      s.agentSettle n h a <|
        (s.agentPages n h a true ([d, d + 63] ++ (if ADesc.prog w = 0 then [] else [ADesc.prog w])) []).bind fun s m =>
          let s := (List.range 8).foldl (fun s i => s.agentWord n h a m (d + 8 * i) (wordAt r i)) s
          let s := (s.rackProgress n h a m (a.written + 1)).setAgent n h { a with buf := rest, written := a.written + 1 }
          .ok s s

/-- RACK_ACK_REREAD (R245). -/
def State.rackAck (s : State) (n h : Nat) : Option State :=
  match s.agentAt n h 3 with
  | none => none
  | some a =>
    if !a.wrap then none
    else
      let d := ADesc.ack a.desc
      s.agentSettle n h a <|
        (s.agentPages n h a false [d] []).bind fun s m =>
          let s := s.setAgent n h { a with ack := readWord (s.agentByte a m) d 8, reread := false }
          .ok s s

/-! ### The event rows -/

/-- STEEP_FILL_START (R244). -/
def execSteepFillStart (n : BitVec 11) (h : BitVec 8) (s : State) : Outcome :=
  event "STEEP_FILL_START" (s.fillStart n.toNat h.toNat)
/-- STEEP_UNIT_COMPLETE (R67). -/
def execSteepUnitComplete (n : BitVec 11) (h : BitVec 8) (s : State) : Outcome :=
  event "STEEP_UNIT_COMPLETE" (s.fillUnit n.toNat h.toNat)
/-- STEEP_RECORD_APPEND (R244). -/
def execSteepRecordAppend (n : BitVec 11) (h : BitVec 8) (s : State) : Outcome :=
  event "STEEP_RECORD_APPEND" (s.steepAppend n.toNat h.toNat)
/-- RACK_DRAIN_START (R245). -/
def execRackDrainStart (n : BitVec 11) (h : BitVec 8) (s : State) : Outcome :=
  event "RACK_DRAIN_START" (s.drainStart n.toNat h.toNat)
/-- RACK_UNIT_COMPLETE (R67). -/
def execRackUnitComplete (n : BitVec 11) (h : BitVec 8) (s : State) : Outcome :=
  event "RACK_UNIT_COMPLETE" (s.drainUnit n.toNat h.toNat)
/-- RACK_RECORD_WRITE (R245). -/
def execRackRecordWrite (n : BitVec 11) (h : BitVec 8) (s : State) : Outcome :=
  event "RACK_RECORD_WRITE" (s.rackWrite n.toNat h.toNat)
/-- RACK_ACK_REREAD (R245). -/
def execRackAckReread (n : BitVec 11) (h : BitVec 8) (s : State) : Outcome :=
  event "RACK_ACK_REREAD" (s.rackAck n.toNat h.toNat)
/-- RING_FORWARD (R141). -/
def execRingForward (n : BitVec 11) (j : BitVec 4) (s : State) : Outcome :=
  event "RING_FORWARD" (s.engineMove n.toNat j.toNat)
/-- SPLICE_APPLY (R142). -/
def execSpliceApply (n : BitVec 11) (j : BitVec 4) (s : State) : Outcome :=
  event "SPLICE_APPLY" (s.spliceMove n.toNat j.toNat)
/-- STATE_TRANSFER_RUN (R142). -/
def execStateTransferRun (n : BitVec 11) (s : State) : Outcome :=
  event "STATE_TRANSFER_RUN" (onlyIf (s.canTransfer n.toNat) (s.transferNow n.toNat))
/-- ALIGNMENT_TIMEOUT (R143). -/
def execAlignmentTimeout (n : BitVec 11) (j : BitVec 4) (s : State) : Outcome :=
  event "ALIGNMENT_TIMEOUT" (s.alignNow n.toNat j.toNat)

end Sys2Proof.Machine
end

