-- ==== Sys2Proof/Machine/ArbEvents.lean ====
section
/-!
DEFINITION. The slots of arbitration points and what keeps them fair (spec/06_owner_draws.md R114, R119 to R128;
spec/24_tenancy_and_preemption.md R324), placement epochs and their sweeps (R119 to R121, R285).
-/
namespace Sys2Proof.Machine

/-! ### Slots (R123, R124) -/

/-- The lane pool serves the claim of core `n`: the lanes change hands in this slot, and the claim completes before any trap is
taken (R156, R209). -/
def State.grantClaim (s : State) (g n : Nat) : State :=
  match (s.cluster g).claims.find? fun x => x.1 == n with
  | none => s
  | some (_, want) =>
    let got := s.lanesFor n want
    ((s.setLanes n got).updCore n fun c => { c with demand := want - got, begun := true }).updCluster g fun c =>
      { c with claims := c.claims.filter (fun x => x.1 != n), claimGrants := c.claimGrants ++ [n] }

/-- The job queue grants core `n` an entry (R226). -/
def State.grantAdmit (s : State) (g n : Nat) : State :=
  s.updCluster g fun c => { c with admits := c.admits.filter (· != n), admitGrants := c.admitGrants ++ [n] }

/-- Requests at a point: (owner, requester) with whether it is present (R124). At the points of memory, the routers and links and
the plate ports the requesters are the cores whose accesses stand in the queue, and the others whose requests do. -/
def State.requests (s : State) (k i : Nat) : List ((Nat × Nat) × Bool) :=
  let own (n : Nat) : Nat := (s.core n).own
  if k = 5 then (s.cluster i).claims.map fun x => ((own x.1, x.1), true)
  else if k = 6 && i < 256 then (s.cluster i).admits.map fun n => ((own n, n), s.mayAdmit i (own n))
  else if k = 9 then s.portRequests i
  else if k = 6 then []
  else (s.queued k i).map (fun x => ((x.2.owner, x.1), s.canAdvance x.1 x.2))
    ++ (s.crossed k i).map fun x => ((x.owner, x.who), s.canCross x)

/-- The grant of a slot takes effect at once (R124). -/
def State.grantAt (s : State) (k i n : Nat) : State :=
  if k = 5 then s.grantClaim i n else if k = 6 then s.grantAdmit i n
  else if k = 9 then s.grantAtPort i n else s.grantAccess k i n

/-- ARBITRATION_SLOT: one slot of a point that is not paused (R124, R128). An engine's choice of owner is JOB_START. -/
def State.slotMove (s : State) (k i : Nat) : Option State :=
  if !pointExists k i || (s.point k i).paused || s.changing k i then none
  else if k = 6 && 256 ≤ i && 2 ≤ (idsOf ((s.startList ((i - 256) / 2) (i % 2 == 1)).map fun x => x.2.owner)).length then
    s.startMove ((i - 256) / 2) (i % 2 == 1)
  else
    let s := s.arrive k i
    let l := s.requests k i
    let present := (l.filter Prod.snd).map Prod.fst |>.eraseDups
    let held := (idsOf ((l.map fun x => x.1.1))).filter fun o => !present.any fun x => x.1 == o
    match s.lotterySlot k i present held with
    | (some (_, n), s) => some (s.grantAt k i n)
    | (none, s) => some s

/-! ### Keys and limiters (R114, R324) -/

/-- ARB_KEY_UPDATE: the point takes the arbitration seed as it stands. -/
def State.arbKeyMove (s : State) (k i o : Nat) : Option State :=
  onlyIf (pointExists k i) (s.updOwner o fun w => { w with arbInUse := Store.put (pointId k i) w.seedArb w.arbInUse })

/-- LIMITER_REFILL: the balance rises by RATE, never above DEPTH. -/
def State.refillMove (s : State) (o k i : Nat) : Option State :=
  let e := (s.owner o).entryPts
  onlyIf (pointExists k i && Own.rate e k != 0)
    (s.updOwner o fun w =>
      let b := min (Store.get 0 (pointId k i) w.balance + (Own.rate e k : Int)) (Own.depth e k : Int)
      { w with balance := Store.put (pointId k i) b w.balance })

/-! ### Pauses (R126, R128) -/

/-- THROTTLE_WINDOW_EXPIRE: the window's count of a row for an owner starts again. -/
def State.throttleMove (s : State) (o row : Nat) : Option State :=
  some { s with rows := Store.del (o * 2 ^ 64 + row) s.rows }

/-- HBM_REFRESH: a bank scheduler pauses, or runs again. -/
def State.refreshMove (s : State) (i : Nat) : Option State :=
  onlyIf (pointExists 4 i) (s.setPoint 4 i { s.point 4 i with paused := !(s.point 4 i).paused })

/-- LINK_RETRAIN: the slots stop, with a class 0x0C record that has no owner (R128, R334). -/
def State.retrainMove (s : State) (k i : Nat) : Option State :=
  onlyIf (linkClass k && pointExists k i && !(s.point k i).paused)
    ((s.setPoint k i { s.point k i with paused := true }).report 0x0C 0 none 0 0 0
      (struct := BitVec.ofNat 64 (k * 2 ^ 24 + i)))

/-- RETRAINING_COMPLETE. -/
def State.retrainedMove (s : State) (k i : Nat) : Option State :=
  onlyIf (linkClass k && (s.point k i).paused) (s.setPoint k i { s.point k i with paused := false })

/-- No core of cluster island `j` stands within a chain, and no matrix engine within a row (R358). -/
def State.islandWhole (s : State) (j : Nat) : Bool :=
  s.cores.all (fun (n, c) => islandOf n != j || (c.hints == [] && c.rangeAt == 0 && !c.begun)) &&
    s.clusters.all fun (g, c) => g / 8 != j || c.jobList.all fun (_, x) => x.part == 0 || x.goal ≤ x.prog

/-- FREQUENCY_CHANGE (R358): a cluster island takes the clock the firmware has asked for (R359, R363) in one step, which ends
the pause of its points. -/
def State.frequencyMove (s : State) (j mhz : Nat) : Option State :=
  onlyIf (decide (j < 32) && (s.island j).want.toNat == mhz && (s.island j).mhz != (s.island j).want && s.islandWhole j)
    (s.updIsland j fun x => { x with mhz := x.want })

/-! ### Placement epochs (R119 to R121, R285) -/

/-- PLACEMENT_EPOCH_START: the oldest request starts the next epoch, under the seed and salt that stand (R115, R119). -/
def State.epochMove (s : State) (o : Nat) : Option State :=
  let w := s.owner o
  match w.reseeds with
  | [] => none
  | _ :: rest =>
    onlyIf w.sweep.isNone (s.updOwner o fun w =>
      { w with epoch := w.epoch + 1, keyOld := some w.keyNow, keyNow := w.seedPlace ^^^ (s.func (s.funcOf o)).salt
               sweep := some ⟨1, []⟩, reseeds := rest })

/-- Instances of a class, and sets of one instance, as the sweeper visits them (R120). -/
def sweepInstances (cls : Nat) : Nat := if cls = 3 then 8 else 256
def instanceSets (cls : Nat) : Nat := if cls = 1 then 64 else if cls = 2 then 512 else 32768

/-- The set number of R117 of set `k` of an instance. -/
def setNumber (cls inst k : Nat) : Nat := if cls = 2 then inst % 64 * 512 + k else k

/-- The cores whose accesses an instance serves: one of them. -/
def instCore (cls inst : Nat) : Nat := if cls = 1 then 8 * inst else if cls = 2 then inst / 64 * 512 else 0

/-- Move one line placed under the old epoch to its new set (R120); without a permitted way it is evicted. DESIGN CHOICE
(log 61): the ways of the MSC it may take are those of TC0, the spec naming no traffic class for a sweep. -/
def State.moveCopy (s : State) (w : Owner) (c : Copy) : State :=
  let set := (w.setOf c.cls c.line false).getD 0
  let inst := cacheInst c.cls (instCore c.cls c.inst) set c.line
  if set = c.set then
    { s with copies := s.copies.map fun x => if x == c then { x with epoch := w.epoch } else x }
  else
    let ways := s.waysOf c.owner c.cls 0
    if ways.isEmpty then s.evict c
    else { s with copies := s.copies.filter (· != c) }.allocate c.cls inst set c.line c.owner ways c.dirty

/-- The sweep after a visit: the class's phase ends when every instance has been visited, the sweep with class 3. -/
def Owner.swept (w : Owner) (x : Sweep) : Owner :=
  if (List.range (sweepInstances x.phase)).all fun i => instanceSets x.phase ≤ Store.get 0 i x.next then
    if x.phase = 3 then { w with sweep := none, keyOld := none } else { w with sweep := some ⟨x.phase + 1, []⟩ }
  else { w with sweep := some x }

/-- SWEEP_SET_VISIT: the next set of an instance of the phase's class. DESIGN CHOICE (log 76): in increasing set number, the spec
giving no order (R120). -/
def State.sweepMove (s : State) (o i : Nat) : Option State :=
  let w := s.owner o
  match w.sweep with
  | none => none
  | some x =>
    let k := Store.get 0 i x.next
    if i < sweepInstances x.phase && k < instanceSets x.phase then
      let set := setNumber x.phase i k
      let old := s.copies.filter fun c =>
        c.cls == x.phase && c.inst == i && c.set == set && c.owner == o && c.epoch != w.epoch
      let s := old.foldl (fun s c => s.moveCopy w c) s
      some (s.updOwner o fun w => w.swept { x with next := Store.put i (k + 1) x.next })
    else none

/-! ### The event rows -/

/-- ARBITRATION_SLOT (R124). -/
def execArbitrationSlot (k : BitVec 4) (i : Nat) (s : State) : Outcome := event "ARBITRATION_SLOT" (s.slotMove k.toNat i)
/-- ARB_KEY_UPDATE (R114). -/
def execArbKeyUpdate (k : BitVec 4) (i : Nat) (o : BitVec 8) (s : State) : Outcome :=
  event "ARB_KEY_UPDATE" (s.arbKeyMove k.toNat i o.toNat)
/-- PLACEMENT_EPOCH_START (R119). -/
def execPlacementEpochStart (o : BitVec 8) (s : State) : Outcome := event "PLACEMENT_EPOCH_START" (s.epochMove o.toNat)
/-- SWEEP_SET_VISIT (R120). -/
def execSweepSetVisit (o : BitVec 8) (i : Nat) (s : State) : Outcome := event "SWEEP_SET_VISIT" (s.sweepMove o.toNat i)
/-- THROTTLE_WINDOW_EXPIRE (R126). -/
def execThrottleWindowExpire (o : BitVec 8) (row : Nat) (s : State) : Outcome :=
  event "THROTTLE_WINDOW_EXPIRE" (s.throttleMove o.toNat row)
/-- LIMITER_REFILL (R324). -/
def execLimiterRefill (o : BitVec 8) (k : BitVec 4) (i : Nat) (s : State) : Outcome :=
  event "LIMITER_REFILL" (s.refillMove o.toNat k.toNat i)
/-- HBM_REFRESH (R128). -/
def execHbmRefresh (i : Nat) (s : State) : Outcome := event "HBM_REFRESH" (s.refreshMove i)
/-- LINK_RETRAIN (R128). -/
def execLinkRetrain (k : BitVec 4) (i : Nat) (s : State) : Outcome := event "LINK_RETRAIN" (s.retrainMove k.toNat i)
/-- FREQUENCY_CHANGE (R358). -/
def execFrequencyChange (j : BitVec 6) (mhz : BitVec 16) (s : State) : Outcome :=
  event "FREQUENCY_CHANGE" (s.frequencyMove j.toNat mhz.toNat)
/-- RETRAINING_COMPLETE (R128). -/
def execRetrainingComplete (k : BitVec 4) (i : Nat) (s : State) : Outcome :=
  event "RETRAINING_COMPLETE" (s.retrainedMove k.toNat i)

end Sys2Proof.Machine
end

