-- ==== Sys2Proof/Machine/TransEvents.lean ====
section
/-!
DEFINITION. Fault records and their replies (spec/23_translation_and_tiers.md R311, R312), and the completion of `tinv`
(R316), `icinv.range` (R200) and `keyld` (R283).
-/
namespace Sys2Proof.Machine

/-! ### The fault queue (R312) -/

/-- SRC of R312. -/
def FaultSrc.code : FaultSrc → Nat
  | .fetch _ => 0
  | .data _ => 1
  | .job _ _ _ _ copy => if copy then 3 else 2
  | .agent _ h => if h < 0x81 then 4 else 5
  | .splice .. => 0

/-- The core a record names: the issuing core of a job or an agent. -/
def FaultSrc.core : FaultSrc → Nat
  | .fetch n => n
  | .data n => n
  | .job _ _ _ n _ => n
  | .agent n _ => n
  | .splice n _ _ _ => n

/-- The 64 bytes of a fault record of owner `o`. -/
def FaultRec.record (f : FaultRec) (o : Nat) : Rec :=
  mkRec ([BitVec.ofNat 64 (f.va.toNat % 2 ^ 52 + f.src.code * 2 ^ 52 + b2n f.write * 2 ^ 56 + b2n f.empty * 2 ^ 57),
    BitVec.ofNat 64 (o + f.src.core * 2 ^ 8 + f.tag.toNat * 2 ^ 32)] ++ f.info)

/-- FAULT_RECORD_WRITE: the oldest record not yet written enters the queue, in image B under the module key, when the queue
has room; it raises the owner's fault vector. -/
def State.faultWrite (s : State) (o : Nat) : Option State :=
  let w := s.owner o
  let e := w.entry
  let key := s.moduleKey
  let base := Own.fqBase e
  let tail := s.bRead key (base - 8) 8
  let head := s.bRead key (base - 16) 8
  match w.faults.find? fun f => !f.written with
  | none => none
  | some f =>
    if (tail - head).toNat < 2 ^ Own.fqLog2 e then
      let s := s.bWrite key (f.record o) (base + tail.toNat % 2 ^ Own.fqLog2 e * 64) 64
      let s := s.bWrite key (tail + 1) (base - 8) 8
      let s := s.updOwner o fun w =>
        { w with faults := mapFirst (fun x => !x.written) (fun (x : FaultRec) => { x with written := true }) w.faults }
      some (s.raiseVector (s.funcOf o) (Own.fvec e))
    else none

/-! ### Replies -/

/-- Change the saved engine state of core `n` of owner `o`. -/
def State.updSaved (s : State) (o n : Nat) (f : Saved → Saved) : State :=
  match Store.find (o * 2 ^ 16 + n) s.saved with
  | some x => { s with saved := Store.put (o * 2 ^ 16 + n) (f x) s.saved }
  | none => s

/-- The core waits for a page (R311). -/
def Core.waitsPage (c : Core) : Bool := c.hold == Hold.fault

/-- The faulted job a waiter names, if it still waits (R237: not one that has been cancelled). -/
def State.faultedJob (s : State) (o g e : Nat) (seq : BitVec 32) : Option Job :=
  match (s.cluster g).job e with
  | some j => if j.owner = o && j.faulted && j.state == .suspended && j.seq == seq then some j else none
  | none => none

/-- Agent `h` of core `n` of owner `o`, in its live or saved context, changed by `f`. -/
def State.updAgent (s : State) (o n h : Nat) (f : Agent → Agent) : State :=
  let g (l : Store Agent) : Store Agent := match Store.find h l with | some a => Store.put h (f a) l | none => l
  if s.liveFor o n then s.updCore n fun c => { c with agents := g c.agents }
  else s.updSaved o n fun x => { x with agents := g x.agents }

/-- Release one waiter: it walks again (R311, R312). -/
def State.replayOne (s : State) (o : Nat) : FaultSrc → State
  | .fetch n => if s.liveFor o n && (s.core n).waitsPage then s.updCore n fun c => { c with hold := .none } else s
  | .data n => if s.liveFor o n && (s.core n).waitsPage then s.updCore n fun c => { c with hold := .none } else s
  | .job g e seq _ _ =>
    match s.faultedJob o g e seq with
    | some j => s.setJob g e { j with faulted := false }
    | none => s
  | .agent n h => s.updAgent o n h fun a => { a with faulted := false }
  | .splice .. => s

/-- The splice `r` in slot number `i` of ring `j` of core `n` is still at the head there, with one at every input of the stage, and is
not being applied (R142, R143, R146). -/
def State.stillWaits (s : State) (n j : Nat) (i : BitVec 32) (r : Rec) : Bool :=
  let c := s.core n
  (c.ring j).disp == i && c.headRec j == r && !s.applying n j &&
    (c.stage j).all fun k => (c.ring k).waiting != 0 && recKind (c.headRec k) == 4 && c.spliceHere n k

/-- Reject one waiter: trap 0x04 at a core, at once or when its context runs again; cause 0x04 for a job or an agent;
cause 0x03 of R146 for a splice (R312). -/
def State.rejectOne (s : State) (o : Nat) (x : FaultSrc × Word) : State :=
  let core (n : Nat) : State :=
    if s.liveFor o n then
      if (s.core n).waitsPage then s.raiseTrap n 0x04 x.2 (s.core n).chainStart else s
    else s.updSaved o n fun y => { y with pending := some (y.pending.getD (0x04, x.2)) }
  match x.1 with
  | .fetch n => core n
  | .data n => core n
  | .job g e seq _ _ =>
    match s.faultedJob o g e seq with
    | some j => s.failJob g e j 0x04
    | none => s
  | .agent n h =>
    if s.liveFor o n then
      match Store.find h (s.core n).agents with
      | some a => if a.faulted then s.agentStop n h { a with faulted := false } 0x04 else s
      | none => s
    else
      (s.updAgent o n h fun a => { a with faulted := false, state := .stopped 0x04, buf := [] }).report
        0x0B 0x04 (some o) 0 n 0
  | .splice n j i r =>
    if s.liveFor o n && s.stillWaits n j i r then s.failSplices n ((s.core n).stage j) 3 0 0 else s

/-- A write of the fault reply register of function `f`, which the host has at STATE 4 (R353): a TAG that matches no pending record
is counted (R312, R334). -/
def State.faultReply (s : State) (f slot : Nat) (tag : BitVec 32) (one : Nat → State → FaultSrc × Word → State) : State :=
  if s.boot.state != 4 then s else
  let e := (s.func f).entry
  let o := Vd.own e slot
  let hit (x : FaultRec) : Bool := x.written && x.tag == tag
  match if Vd.svalid e slot then (s.owner o).faults.find? hit else none with
  | some r =>
    let s := s.updOwner o fun w => { w with faults := w.faults.filter fun x => !hit x }
    r.waiters.foldl (one o) s
  | none => s.report 0x0B 0 (if Vd.svalid e slot then some o else none) 0 0 (tag.setWidth 64) (func := some f)

/-! ### Completions -/

/-- The core's instruction completes. -/
def State.holdDone (s : State) (n : Nat) : State :=
  s.updCore n fun c => { c with hold := .none, pc := c.pc + 4, hints := [] }

/-- TINV_COMPLETE (R316). -/
def State.tinvDone (s : State) (n : Nat) : Option State :=
  match (s.core n).hold with
  | .tinv ids o => onlyIf (!s.anyPending ids && !s.anyStale o) (s.holdDone n)
  | _ => none

/-- ICINV_COMPLETE (R200): every line of the range has been dropped. -/
def State.icinvDone (s : State) (n : Nat) : Option State :=
  onlyIf ((s.core n).hold == .icinv && !(s.core n).pend.any fun a => a.op == .range .icinv) (s.holdDone n)

/-- KEYLD_COMPLETE (R283, R346): every controller uses the new key. -/
def State.keyldDone (s : State) (n : Nat) : Option State :=
  match (s.core n).hold with
  | .keyld slot => some ((s.updOwner slot fun w => { w with needKey := false }).holdDone n)
  | _ => none

/-! ### The event rows -/

/-- FAULT_RECORD_WRITE (R312). -/
def execFaultRecordWrite (o : BitVec 8) (s : State) : Outcome := event "FAULT_RECORD_WRITE" (s.faultWrite o.toNat)
/-- FAULT_REPLY_REPLAY (R312). -/
def execFaultReplyReplay (f : BitVec 6) (slot : BitVec 2) (tag : BitVec 32) (s : State) : Outcome :=
  event "FAULT_REPLY_REPLAY" (some (s.faultReply f.toNat slot.toNat tag fun o s x => s.replayOne o x.1))
/-- FAULT_REPLY_REJECT (R312). -/
def execFaultReplyReject (f : BitVec 6) (slot : BitVec 2) (tag : BitVec 32) (s : State) : Outcome :=
  event "FAULT_REPLY_REJECT" (some (s.faultReply f.toNat slot.toNat tag fun o s x => s.rejectOne o x))
/-- TINV_COMPLETE (R316). -/
def execTinvComplete (n : BitVec 11) (s : State) : Outcome := event "TINV_COMPLETE" (s.tinvDone n.toNat)
/-- ICINV_COMPLETE (R200). -/
def execIcinvComplete (n : BitVec 11) (s : State) : Outcome := event "ICINV_COMPLETE" (s.icinvDone n.toNat)
/-- KEYLD_COMPLETE (R283). -/
def execKeyldComplete (n : BitVec 11) (s : State) : Outcome := event "KEYLD_COMPLETE" (s.keyldDone n.toNat)

end Sys2Proof.Machine
end

