-- ==== Sys2Proof/Machine/TableEvents.lean ====
section
/-!
DEFINITION. The tables of the hypervisor: commits of virtual-device and owner entries (spec/24_tenancy_and_preemption.md R319 to
R325), retirement of an owner id (spec/25_errors_and_containment.md R346), and the switch of the schedule (R329, R362).
-/
namespace Sys2Proof.Machine

/-! ### Reading the tables (R320, R345) -/

/-- `n` bytes of a table at physical address `pa`, in image B under the module key. -/
def State.tableRead (s : State) (pa n : Nat) : Nat := joinBytes (s.bByte s.moduleKey) pa n

/-- A virtual-device entry as it stands in memory. -/
def State.vdEntry (s : State) (f : Nat) : BitVec 2048 := BitVec.ofNat 2048 (s.tableRead (s.vdtBase.toNat * 4096 + 256 * f) 256)
/-- An owner entry as it stands in memory. -/
def State.ownerEntry (s : State) (o : Nat) : BitVec 4096 :=
  BitVec.ofNat 4096 (s.tableRead (s.owtBase.toNat * 4096 + 512 * o) 512)

/-- BUSY: a commit is still being applied (R320, R346). -/
def State.busy (s : State) : Bool := s.owners.any fun (_, w) => w.retiring

/-! ### Checks of R321, R323 to R325 -/

/-- The policy codes of one traffic class are valid (R325). -/
def mscPolOk (p : Nat) : Bool := decide (p % 4 ≤ 1) && decide (p / 4 % 4 ≤ 2) && decide (p / 16 ≤ 1)

/-- The fields of a virtual-device entry that have a range, its res0 bits, and the alignments of R307 and R317 (R321). -/
def Vd.wellFormed (e : BitVec 2048) : Bool :=
  field e 36 1 / 32 == 0 && field e 37 1 == 0 && field e 51 1 == 0 && field e 60 4 == 0
    && field e 64 8 / 2 ^ 52 == 0 && field e 64 8 / 16 % 8 == 0 && field e 208 48 == 0
    && decide (1 ≤ Vd.lqLog2 e) && decide (Vd.lqLog2 e ≤ 12) && decide (Vd.lvec e ≤ 2047)
    && field e 80 8 % 2 ^ 21 == 0
    && (List.range 4).all (fun j => field e (104 + 24 * j) 8 / 2 % 2 ^ 11 == 0 && field e (112 + 24 * j) 8 % 2 ^ 12 == 0)
    && (List.range 4).all fun tc => mscPolOk (Vd.mscPol e tc)

/-- The fields of an owner entry that have a range, its res0 bits, those of R47, and the alignment of R307 (R321, R324). -/
def Own.wellFormed (e : BitVec 4096) : Bool :=
  field e 17 1 / 2 == 0 && field e 22 2 == 0 && field e 84 4 == 0 && field e 160 96 == 0
    && decide (Own.fvec e ≤ 2047) && decide (Own.evec e ≤ 2047)
    && decide (4 ≤ Own.fqLog2 e) && decide (Own.fqLog2 e ≤ 16)
    && field e 0 8 % 2 ^ 21 == 0 && field e 152 8 / 2 ^ 11 % 32 == 0 && Own.csBase e % 0x40000 == 0 && Own.asBase e % 0x80000 == 0
    && (List.range 10).all fun k => !(Own.depth e k == 0 && Own.rate e k != 0)

/-- The valid slots of a virtual-device entry. -/
def Vd.slots (e : BitVec 2048) : List Nat := [0, 1, 2, 3].filter fun i => Vd.svalid e i
/-- The owners it names. -/
def Vd.owners (e : BitVec 2048) : List Nat := (Vd.slots e).map fun i => Vd.own e i

/-- R323 for the owner entries `l` of a virtual device with entry `e`: each CMAP within PART, no core in two. -/
def mapsOk (e : BitVec 2048) (l : List (BitVec 4096)) : Bool :=
  (List.range 256).all fun g =>
    (Vd.part e g || l.all fun w => Own.cmap w g == 0) &&
      (List.range 8).all fun k => decide ((l.filter fun w => Own.hasCore w (8 * g + k)).length ≤ 1)

/-- The valid owner entries a virtual-device entry names, with `o`'s replaced by `w`. -/
def State.namedEntries (s : State) (e : BitVec 2048) (o : Option (Nat × BitVec 4096)) : List (BitVec 4096) :=
  ((Vd.owners e).map fun q =>
    match o with
    | some (p, w) => if p = q then w else (s.owner q).entryNext
    | none => (s.owner q).entryNext).filter Own.valid

/-- No owner id is named by two slots of the module (R319). -/
def State.slotsDistinct (s : State) (f : Nat) (e : BitVec 2048) : Bool :=
  let l := Vd.owners e
  decide l.Nodup && !s.funcs.any fun (h, x) => h != f && (Vd.owners x.entryNext).any l.contains

/-! ### Commits -/

/-- The outcome of a commit: ERR, and the entry taken when it is accepted. -/
def State.committed (s : State) (ok : Bool) (take : State → State) : State :=
  if ok then take { s with commitErr := false } else { s with commitErr := true }

/-- COMMIT with KIND 0 (R321): ignored while BUSY; an accepted entry lets the schedule run the device again (R342). In
bring-up the host has none of these registers (R353; log 41). -/
def State.commitVd (s : State) (f : Nat) : State :=
  if s.busy || s.boot.state != 4 then s
  else
    let e := s.vdEntry f
    s.committed (decide (f < 64) && Vd.wellFormed e && s.slotsDistinct f e && mapsOk e (s.namedEntries e none)) fun s =>
      s.updFunc f fun x => { x with entryNext := e, disabled := false }

/-- R323 for a new owner entry, in the virtual device that names the owner. -/
def State.ownerMapsOk (s : State) (o : Nat) (w : BitVec 4096) : Bool :=
  s.funcs.all fun (_, x) =>
    !(Vd.owners x.entryNext).contains o || mapsOk x.entryNext (s.namedEntries x.entryNext (some (o, w)))

/-- COMMIT with KIND 1 (R321, R341, R346); the counters of a new owner are clear (R272). -/
def State.commitOwner (s : State) (o : Nat) : State :=
  if s.busy || s.boot.state != 4 then s
  else
    let e := s.ownerEntry o
    let old := s.owner o
    let fresh := Own.valid e && !Own.valid old.entryNext
    s.committed (Own.wellFormed e && s.ownerMapsOk o e && !(fresh && old.needKey)) fun s =>
      s.updOwner o fun w =>
        { w with
          entryNext := e
          killed := if Own.valid e then false else w.killed
          started := if fresh then false else w.started
          exceed := if fresh then [] else w.exceed
          retiring := Own.valid old.entryNext && !Own.valid e
          needKey := w.needKey || (Own.valid old.entryNext && !Own.valid e) }

/-- COMMIT_PROPAGATE: every point and cache has taken the fields of the first row of R321. -/
def State.propagate (s : State) : State :=
  { s with
    owners := s.owners.map fun ((o, w) : Nat × Owner) => (o, { w with entryPts := w.entryNext })
    funcs := s.funcs.map fun ((f, x) : Nat × Func) => (f, { x with entryPts := x.entryNext }) }

/-- OWNER_RETIREMENT (R346 step 1). -/
def State.retireMove (s : State) (o : Nat) : Option State :=
  let lines := (s.memC.filter fun x => x.2.owner == o).map Prod.fst
  let s' := lines.foldl (fun s l => (s.writeBackLine l).dropLine l) s
  let s' := { s' with
    copies := s'.copies.filter fun c => c.owner != o
    cores := s'.cores.map fun ((n, c) : Nat × Core) =>
      (n, { c with icache := c.icache.filter fun x => x.owner % 256 != o }) }
  onlyIf (s.owner o).retiring ((s'.dropOwnerTlb o).updOwner o fun w => { w with retiring := false })

/-! ### The schedule (R329, R362) -/

/-- The functions of round `k`, as SCHBASE holds them. -/
def State.roundMask (s : State) (k : Nat) : Nat :=
  s.tableRead (s.schBase.toNat * 4096 + 16 * (k % (s.nrm1.toNat + 1))) 8
/-- Function `f` belongs to round `k`. -/
def State.inRound (s : State) (f k : Nat) : Bool := s.roundMask k / 2 ^ f % 2 == 1

/-- Two entries share a cluster. -/
def Vd.overlap (x y : BitVec 2048) : Bool := x.toNat % 2 ^ 256 &&& (y.toNat % 2 ^ 256) != 0

/-- The partitions of a round do not overlap, and its functions are enabled. -/
def State.roundOk (s : State) (k : Nat) : Bool :=
  let l := (List.range 64).filter fun f => s.inRound f k
  l.all (fun f => Vd.enabled (s.func f).entryNext && !(s.func f).disabled) &&
    l.all fun f => l.all fun h => f == h || !Vd.overlap (s.func f).entryNext (s.func h).entryNext

/-- A write of EN = 1: the rounds start anew unless the schedule runs, in which case a stop is cancelled (R362). -/
def State.schedOn (s : State) (n : BitVec 6) : State :=
  let t := { s with nrm1 := n }
  if s.boot.state != 4 then s
  else if (List.range (n.toNat + 1)).all t.roundOk then
    { t with schedEn := true, schedErr := false, stopPending := false, rounds := if s.schedEn then s.rounds else [] }
  else { s with schedErr := true }

/-- Some virtual device is in its slice. -/
def State.anySlice (s : State) : Bool := s.funcs.any fun (_, x) => x.slice != .off

/-- The furthest round a cluster of a partition is in. -/
def State.roundOf (s : State) (e : BitVec 2048) : Nat :=
  ((List.range 256).filter (Vd.part e)).foldl (fun k g => max k (Store.get 0 g s.rounds)) 0

/-- The round after the furthest one that some virtual device is in its slice of, or 0. DESIGN CHOICE (log 35): that one is the
current round. -/
def State.roundNext (s : State) : Nat :=
  s.funcs.foldl (fun k (_, x) => if x.slice = .off then k else max k (s.roundOf x.entry + 1)) 0

/-- A write of EN = 0: it takes effect at the end of the current round (R362), of one without a slice too. -/
def State.schedOff (s : State) : State :=
  if s.schedEn && s.boot.state == 4 then { s with stopPending := true, stopRound := s.roundNext } else s

/-! ### The event rows -/

/-- COMMIT_VD_ENTRY (R321). -/
def execCommitVdEntry (f : BitVec 8) (s : State) : Outcome := .next (s.commitVd f.toNat)
/-- COMMIT_OWNER_ENTRY (R321). -/
def execCommitOwnerEntry (o : BitVec 8) (s : State) : Outcome := .next (s.commitOwner o.toNat)
/-- COMMIT_PROPAGATE (R321). -/
def execCommitPropagate (s : State) : Outcome := .next s.propagate
/-- OWNER_RETIREMENT (R346). -/
def execOwnerRetirement (o : BitVec 8) (s : State) : Outcome := event "OWNER_RETIREMENT" (s.retireMove o.toNat)
/-- SCHEDULE_ENABLE (R329). -/
def execScheduleEnable (nrm1 : BitVec 6) (s : State) : Outcome := .next (s.schedOn nrm1)
/-- SCHEDULE_DISABLE (R362). -/
def execScheduleDisable (s : State) : Outcome := .next s.schedOff

end Sys2Proof.Machine
end

