-- ==== Sys2Proof/Machine/SliceEvents.lean ====
section
/-!
DEFINITION. Time slices (spec/24_tenancy_and_preemption.md R329 to R333, R342, R365; R55, R322) and the launch sequencer
(spec/02_execution_model.md R51, R52; R326, R327).
-/
namespace Sys2Proof.Machine

/-! ### A virtual device and its cores -/

/-- The clusters of a partition. -/
def Vd.clusters (e : BitVec 2048) : List Nat := (List.range 256).filter (Vd.part e)

/-- The cores of an owner entry's CMAP. -/
def Own.cores (e : BitVec 4096) : List Nat := (List.range 2048).filter (Own.hasCore e)

/-- The owners of function `f` in its slice. -/
def State.ownersOf (s : State) (f : Nat) : List Nat := Vd.owners (s.func f).entry

/-- The cores on which a context of function `f` runs. -/
def State.coresIn (s : State) (f : Nat) : List Nat :=
  (s.cores.filter fun (_, c) => match c.ctx with | some o => (s.ownersOf f).contains o | none => false).map Prod.fst

/-- The physical address of the save block of core `n` of owner entry `e` (R331). -/
def saveBlock (e : BitVec 4096) (n : Nat) : Nat := Own.csBase e + n * 0x40000

/-! ### The save block (R331) -/

/-- Control registers a save block holds (R181). -/
def savedCtl : List Nat :=
  [0x004, 0x005, 0x010, 0x011, 0x012, 0x013, 0x014, 0x018, 0x019, 0x01A, 0x01B, 0x01C, 0x01D, 0x020, 0x021, 0x022, 0x023]

/-- The words of a save block from offset 0x2_0000 on that every save writes, but the engine state. -/
def State.blockWords (s : State) (n : Nat) : List (Nat × Word) :=
  let c := s.core n
  let full (b : Nat) : Byte := BitVec.ofNat 8 (((List.range 8).map fun i => b2n (c.fe (4 * (8 * b + i))) * 2 ^ i).sum)
  ((List.range 512).map fun i => (0x20000 + 8 * i, readWord full (8 * i) 8))
    ++ ((List.range 128).map fun i => (0x21000 + 8 * i, (c.ring (i / 8)).word (i % 8)))
    ++ ((List.range 32).flatMap fun t => [(0x21400 + 16 * t, (c.tile t).word0), (0x21408 + 16 * t, (c.tile t).word1)])
    ++ (savedCtl.map fun k => (0x21600 + 8 * k, s.readCtl n k))
    ++ [(0x21B40, BitVec.ofNat 64 (b2n c.blk * 2 ^ 63 + (if c.blk then c.wdc else 0) % 2 ^ 31 * 2 ^ 32 + c.demand)),
        (0x21B48, if c.blk then c.rpc else 0)]

/-- The registers a save with BLK = 1 writes; lanes beyond the grant hold nothing. -/
def Core.regWords (c : Core) : List (Nat × Word) :=
  ((List.range 32).map fun i => (0x21800 + 8 * i, c.sregs.getD i 0))
    ++ ((List.range 64).map fun i => (0x21900 + 8 * i, (c.p (i / 4)).extractLsb' (64 * (i % 4)) 64))
    ++ ((List.range 8).map fun i => (0x21B00 + 8 * i, c.fmt i))
    ++ ((List.range 32).flatMap fun d => (List.range c.lanes).map fun i => (0x22000 + 0x800 * d + 8 * i, c.v d i))

/-- The lines of `n` bytes of a save block from offset `i` pass their points. -/
def State.blockLines (s : State) (o n base i k : Nat) (op : CacheOp) : State :=
  (List.range ((k + 127) / 128)).foldl (fun s j => s.blockLine o n ((base + i) / 128 + j) op) s

/-- Store words of a save block, in image C under the owner's key. -/
def State.saveWords (s : State) (o base : Nat) (l : List (Nat × Word)) : State :=
  l.foldl (fun s x => s.blockWrite o x.2 (base + x.1) 8) s

/-- Store the plate, line by line. -/
def State.savePlate (s : State) (o n base : Nat) : State :=
  let c := s.core n
  (List.range 1024).foldl (fun s i =>
    s.blockWrite o (BitVec.ofNat 1024 (joinBytes c.plateByte (128 * i) 128)) (base + 128 * i) 128) s

/-- The engine state's bytes: their layout is internal, so what a load finds there is a free value (log 30). -/
def State.saveEngine (s : State) (o base : Nat) : State :=
  let k := s.freeCtr
  let s := (List.range 150).foldl (fun s i => s.blockWrite o (Config.freeWord (k + i)) (base + 0x21B50 + 8 * i) 8) s
  { s with freeCtr := k + 150 }

/-- The engine state itself (R331). -/
def Core.engineState (c : Core) : Saved where
  handler := if c.blk then c.handler else none
  faultBox := c.faultBox
  poisonReplies := c.poisonReplies
  reserved := c.resv 0
  agents := c.agents
  spoilt := c.spoilt
  transfer := c.transfer
  failing := c.failing
  hseqWas := c.hseqWas
  pending := c.pending
  readyWait := c.readyWait

/-- The asynchronous loads of core `n` that are still outstanding: access and gather; one performed at issue stands with an
access of its gather's number. -/
def State.outstanding (s : State) (n : Nat) : List (Access × Gather) :=
  let c := s.core n
  (c.pend.filterMap fun a =>
    match a.op with
    | .load gid _ => (c.gathers.find? fun g => g.gid == gid).map fun g => (a, g)
    | _ => none) ++
  ((c.gathers.filter fun g => (c.asyncDone g.gid).isSome).map fun g =>
    ({ s.ownAccess n 0 8 false none with id := g.gid, op := .load g.gid 0 }, g))

/-- Save core `n` of owner `o` (R331): its block, whose lines pass their points on the way to memory, its engine state, and its
loads, whose replies go to the saved inbox. -/
def State.saveCore (s : State) (o n : Nat) : State :=
  let c := s.core n
  let out := s.outstanding n
  let base := saveBlock (s.owner o).entry n
  let words := s.blockWords n
  let s := s.blockLines o n base 0 (if c.blk then 0x32000 else 0x22000) .write
  let s := s.savePlate o n base
  let s := s.saveWords o base words
  let s := if c.blk then s.saveWords o base c.regWords else s
  let s := s.saveEngine o base
  { (s.updCore n fun c => { c with pend := [], gathers := [], lanes := 0, demand := 0, vregs := [] }) with
    saved := Store.put (o * 2 ^ 16 + n) c.engineState s.saved
    lateLoads := s.lateLoads ++ out.map fun x => (n, x.1, x.2) }

/-- An entry with its SEED replaced (R321). -/
def Own.withSeed (e : BitVec 4096) (w : Owner) : BitVec 4096 :=
  let seeds : BitVec 384 := w.seedUser ++ w.seedArb ++ w.seedPlace
  let mask : BitVec 4096 := (BitVec.allOnes 384).setWidth 4096 <<< (8 * 104)
  (e &&& ~~~mask) ||| (seeds.setWidth 4096 <<< (8 * 104))

/-- SEED of an owner entry (R321). -/
def Own.seeds (e : BitVec 4096) : BitVec 384 := e.extractLsb' (8 * 104) 384

/-- The seeds go back to SEED (R322). DESIGN CHOICE (log 30): not when a commit in the slice has set another SEED, which is
then the one the next restore loads. -/
def State.saveSeeds (s : State) (o : Nat) : State :=
  let w := s.owner o
  if Own.seeds w.entryNext != Own.seeds w.entry then s
  else
    let s := s.updOwner o fun w => { w with entry := Own.withSeed w.entry w, entryNext := Own.withSeed w.entryNext w }
    s.bWrite s.moduleKey (w.seedUser ++ w.seedArb ++ w.seedPlace) (s.owtBase.toNat * 4096 + 512 * o + 104) 48

/-! ### Slice end (R330) -/

/-- Change how function `f` stands in its slice. -/
def State.setSlice (s : State) (f : Nat) (x : Slice) : State := s.updFunc f fun h => { h with slice := x }

/-- Dispatch stops, and no launch record is started. -/
def State.beginEnd (s : State) (f : Nat) : State :=
  ((s.coresIn f).foldl (fun s n => s.updCore n fun c => { c with stopped := true }) s).setSlice f (.ending 0)

/-- A core has quiesced, or can be pre-empted where it stands: blocked, or stalled on a page (R55); supervisor code runs to its
`rft` first (R278). -/
def Core.quiet (c : Core) : Bool :=
  match c.hold with
  | .none => c.handler.isNone || c.blk
  | .blocked b => !c.sup && b.done.isNone
  | .fault => !c.sup
  | _ => false

/-- Pre-empt core `n` at its blocked instruction or faulting chain. -/
def State.preempt (s : State) (n : Nat) : State :=
  let c := s.core n
  if c.hold = .none then s
  else
    (s.withdraw n).updCore n fun c =>
      let at_ := c.chainStart
      { c with hold := .none, begun := false, rangeAt := 0, hints := [], pc := at_, blk := true, rpc := at_, pushRec := none
               wdc := match c.handler with | some h => h.count | none => 0 }

/-- A job of owner `o` still makes row or element moves. -/
def State.jobMoving (s : State) (o : Nat) : Bool :=
  s.clusters.any fun (_, c) => c.jobList.any fun (_, j) => j.owner == o && j.state == .running && j.type != 3 && !j.wakeDue

/-- SLICE_QUIESCE: phase 1 ends. -/
def State.quiesceMove (s : State) (f : Nat) : Option State :=
  let ns := s.coresIn f
  onlyIf ((s.func f).slice == .ending 0 && ns.all (fun n => (s.core n).quiet) && (s.ownersOf f).all (fun o => !s.jobMoving o))
    ((ns.foldl State.preempt s).setSlice f (.ending 1))

/-- Every store of core `n` has been acknowledged, and no fence waits (R74, R95). -/
def State.drainedCore (s : State) (n : Nat) : Bool :=
  let c := s.core n
  c.pend.all (fun a => c.asyncPart a.op) && s.usc n == 0 && c.flights.isEmpty && c.commits.isEmpty

/-- SLICE_DRAIN: phase 2 ends. -/
def State.drainMove (s : State) (f : Nat) : Option State :=
  onlyIf ((s.func f).slice == .ending 1 && (s.coresIn f).all s.drainedCore) (s.setSlice f (.ending 2))

/-- SLICE_SAVE: phase 3. -/
def State.saveMove (s : State) (f : Nat) : Option State :=
  let s' := (s.coresIn f).foldl (fun s n => s.saveCore (s.core n).own n) s
  let s' := (s.ownersOf f).foldl (fun s o => if (s.owner o).killed then s else s.saveSeeds o) s'
  onlyIf ((s.func f).slice == .ending 2 && s.boot.state == 4) (s'.setSlice f (.ending 3))

/-- The clusters of a partition enter the round after `k`. -/
def State.passRound (s : State) (e : BitVec 2048) (k : Nat) : State :=
  { s with rounds := (Vd.clusters e).foldl (fun l g => Store.put g (k + 1) l) s.rounds }

/-- SLICE_SWITCH: phase 4. -/
def State.switchMove (s : State) (f : Nat) : Option State :=
  let e := (s.func f).entry
  let s' := (s.coresIn f).foldl (fun s n => s.updCore n Core.cleared) s
  onlyIf ((s.func f).slice == .ending 3) ((s'.passRound e (s.roundOf e)).setSlice f .off)

/-! ### Restore (R329, R333) -/

/-- The owners of function `f` that a restore brings back (R341). -/
def State.restorable (s : State) (f : Nat) : List Nat :=
  (Vd.owners (s.func f).entryNext).filter fun o => Own.valid (s.owner o).entryNext && !(s.owner o).killed

/-- A word of the save block at physical address `base`. -/
def State.blockWord (s : State) (o base i : Nat) : Word := s.cRead (s.keyFor o false) (base + i) 8

/-- The ring descriptor `j` of a save block. -/
def State.blockRing (s : State) (o base j : Nat) : Ring :=
  (List.range 8).foldl (fun (g : Ring) i => g.setWord i (s.blockWord o base (0x21000 + 64 * j + 8 * i))) Ring.free

/-- An agent has work left. -/
def Agent.hasWork (a : Agent) : Bool := a.state == .running

/-- Core `n` of owner `o` has work in its saved context: a record in a ring, or an agent not yet complete (R329). -/
def State.coreWork (s : State) (o n : Nat) : Bool :=
  let base := saveBlock (s.owner o).entryNext n
  (List.range 16).any (fun j => let g := s.blockRing o base j; g.log2n != 0 && g.tail != g.head) ||
    bitOf (s.blockWord o base 0x21B40) 63 ||
    (match Store.find (o * 2 ^ 16 + n) s.saved with
      | some x => !x.faultBox.isEmpty || x.transfer.isSome || x.agents.any fun (_, a) => a.hasWork
      | none => false)

/-- Function `f` has work (R329). -/
def State.hasWork (s : State) (f : Nat) : Bool :=
  let x := s.func f
  x.tail != x.head || x.sending.isSome ||
    (s.restorable f).any fun o =>
      !(s.owner o).faults.isEmpty ||
        s.clusters.any (fun (_, c) => c.jobList.any fun (_, j) => j.owner == o && (j.holds || j.wakeDue)) ||
        (Own.cores (s.owner o).entryNext).any fun n => s.coreWork o n

/-- The tile entry a save block holds. -/
def Tile.ofWords (a b : Word) : Tile where
  state := TileState.ofCode (bitsOf a 63 62)
  prog := a.extractLsb' 42 11
  lenm1 := a.extractLsb' 32 10
  base := a.extractLsb' 7 10
  seq := b.extractLsb' 32 8
  agent := b.extractLsb' 8 8

/-- The core's plate, descriptors, tile table and grant as the save block holds them (R333 steps 3 to 6). -/
def State.blockCore (s : State) (o base : Nat) (c : Core) : Core :=
  let w (i : Nat) : Word := s.blockWord o base i
  let key := s.keyFor o false
  { c.cleared with
    ctx := some o
    plate := (List.range 0x20000).filterMap fun i =>
      let b := s.cByte key (base + i)
      if b = 0 then none else some (i, b)
    full := (List.range 0x8000).filterMap fun i =>
      if bitOf (s.cByte key (base + 0x20000 + i / 8)) (i % 8) then some (i, true) else none
    rings := Vector.ofFn fun (j : Fin 16) => s.blockRing o base j.val
    tiles := Vector.ofFn fun (t : Fin 32) => Tile.ofWords (w (0x21400 + 16 * t.val)) (w (0x21408 + 16 * t.val))
    lanes := min 256 (bitsOf (w (0x21600 + 8 * 5)) 8 0)
    demand := bitsOf (w 0x21B40) 8 0
    depthCur := bitsOf (w (0x21600 + 8 * 0x11)) 7 4 }

/-- The registers of a core that was pre-empted (R333). -/
def State.blockRegs (s : State) (o base : Nat) (c : Core) (x : Saved) : Core :=
  let w (i : Nat) : Word := s.blockWord o base i
  { c with
    sregs := Vector.ofFn fun (i : Fin 32) => w (0x21800 + 8 * i.val)
    pregs := Vector.ofFn fun (i : Fin 16) =>
      w (0x21918 + 32 * i.val) ++ w (0x21910 + 32 * i.val) ++ w (0x21908 + 32 * i.val) ++ w (0x21900 + 32 * i.val)
    fregs := Vector.ofFn fun (i : Fin 8) => w (0x21B00 + 8 * i.val)
    vregs := (List.range 32).flatMap fun d => (List.range c.lanes).filterMap fun i =>
      let v := w (0x22000 + 0x800 * d + 8 * i)
      if v = 0 then none else some (256 * d + i, v)
    pc := w 0x21B48 &&& 0x000FFFFFFFFFFFFC
    handler := x.handler.map fun h => { h with count := bitsOf (w 0x21B40) 62 32 } }

/-- Control registers a restore reads from the block itself; the seeds come from SEED (R322), the grant at step 4. -/
def restoredCtl : List Nat := [0x004, 0x010, 0x011, 0x012, 0x013, 0x014, 0x020, 0x021, 0x022, 0x023]

/-- Restore core `n` of owner `o`; `first` is the owner's first restore (R321, R333). The tile of an agent that a rejected
fault has stopped meanwhile is left as a release leaves it (R245, R312). -/
def State.restoreCore (s : State) (o n : Nat) (first : Bool) : State :=
  let base := saveBlock (s.owner o).entry n
  let blk := bitOf (s.blockWord o base 0x21B40) 63
  let c := s.blockCore o base (s.core n)
  let saved := Store.find (o * 2 ^ 16 + n) s.saved
  let late := (s.lateLoads.filter fun x => x.1 == n && x.2.1.owner == o).map Prod.snd
  let c := match saved with
    | none => c
    | some x =>
      let c := { c with
        faultBox := x.faultBox, poisonReplies := x.poisonReplies, reserved := c.reserved.setIfInBounds 0 x.reserved
        agents := x.agents, transfer := x.transfer, pending := x.pending
        spoilt := x.spoilt, failing := x.failing, hseqWas := x.hseqWas, readyWait := x.readyWait
        pend := (late.filter fun y => !y.2.parts.all fun p => p.val.isSome).map fun y => { y.1 with late := true }
        gathers := late.map Prod.snd }
      if blk then s.blockRegs o base c x else c
  let ctl := restoredCtl.map fun k => (k, s.blockWord o base (0x21600 + 8 * k))
  let s := s.blockLines o n base 0 (if blk then 0x32000 else 0x22000) .read
  let s := { s.setCore n c with
    saved := Store.del (o * 2 ^ 16 + n) s.saved
    lateLoads := s.lateLoads.filter fun x => !(x.1 == n && x.2.1.owner == o) }
  let s := ctl.foldl (fun s x => s.writeCtl n x.1 x.2) s
  let s := (s.core n).agents.foldl (fun s (h, a) => match a.state with
    | .stopped _ => s.abandonTile n h a
    | _ => s) s
  if first then s.writeCtl n 0x023 (Own.faultC (s.owner o).entry) else s

/-- Restore owner `o`: its entry takes effect, its seeds are loaded, its cores are read back, and those pre-empted at a page
fault walk again (R55, R321, R322, R333). -/
def State.restoreOwner (s : State) (o : Nat) : State :=
  let e := (s.owner o).entryNext
  let first := !(s.owner o).started
  let cores := Own.cores e
  let s := s.updOwner o fun w =>
    { w with
      entry := e, started := true
      keyNow := if w.started then w.keyNow else Own.seed e 0 ^^^ (s.func (s.funcOf o)).salt
      seedPlace := Own.seed e 0, seedArb := Own.seed e 1, seedUser := Own.seed e 2
      faults := w.faults.map fun (f : FaultRec) => { f with waiters := f.waiters.filter fun x =>
        match x.1 with
        | .fetch _ => false
        | .data _ => false
        | _ => true } }
  cores.foldl (fun s n => s.restoreCore o n first) s

/-- No function of a round from `lo` to `hi` − 1 uses a cluster of the partition. -/
def State.roundsFree (s : State) (e : BitVec 2048) (hi : Nat) : Bool :=
  (Vd.clusters e).all fun g =>
    let lo := Store.get 0 g s.rounds
    (List.range (hi - lo)).all fun i =>
      (List.range 64).all fun f => !(s.inRound f (lo + i) && Vd.part (s.func f).entryNext g)

/-- The round in which function `f` comes next, when every cluster of its partition has reached it (R329). -/
def State.turn (s : State) (f : Nat) : Option Nat :=
  let e := (s.func f).entryNext
  let m := s.roundOf e
  match (List.range (s.nrm1.toNat + 1)).find? fun i => s.inRound f (m + i) with
  | some i => if s.roundsFree e (m + i) then some (m + i) else none
  | none => none

/-- Function `f` is restored in its round; while a stop is pending, only up to the current one (R362). -/
def State.mayRestore (s : State) (f : Nat) : Bool :=
  let x := s.func f
  x.slice == .off && s.schedEn && !s.fatal && Vd.enabled x.entryNext && !x.disabled
    && s.hasWork f && (s.funcs.all fun (h, y) => h == f || y.slice == .off || !Vd.overlap y.entry x.entryNext)
    && (!s.stopPending || (s.turn f).any fun k => decide (k < s.stopRound))

/-- A stop of the schedule takes effect: no slice is left, and no function of the current round is still to be restored (R362). -/
def State.mayStop (s : State) : Bool :=
  s.stopPending && !s.anySlice && (List.range 64).all fun f => !((s.turn f).isSome && s.mayRestore f)

/-- The schedule stops, where it may (R362). -/
def State.stopIfIdle (s : State) : State :=
  if s.mayStop then { s with schedEn := false, stopPending := false } else s

/-- RESTORE (R333): the entry of an owner that is not restored, for want of VALID or because it has been killed, takes effect too
(R321). -/
def State.restoreMove (s : State) (f : Nat) : Option State :=
  if s.mayRestore f then
    match s.turn f with
    | none => none
    | some k =>
      let e := (s.func f).entryNext
      let os := s.restorable f
      let gone := (Vd.owners e).filter fun o => !os.contains o
      let s := s.updFunc f fun x => { x with entry := e, slice := .running }
      let s := gone.foldl (fun s o => s.updOwner o fun w => { w with entry := w.entryNext }) s
      let s := { s with rounds := (Vd.clusters e).foldl (fun l g => Store.put g k l) s.rounds }
      some (os.foldl State.restoreOwner s)
  else none

/-- ROUND_END: the round's length has passed for a running function, or for one that is skipped (R329, R342). While a stop
is pending, no slice is left and no function of the current round is still to be restored, the stop takes effect (R362). -/
def State.roundEndMove (s : State) (f : Nat) : Option State :=
  let x := s.func f
  if x.slice = .running && s.schedEn then some (s.beginEnd f)
  else if s.mayStop then some s.stopIfIdle
  else if x.slice = .off && s.schedEn && !s.mayRestore f then
    (s.turn f).map fun k => s.passRound x.entryNext k
  else none

/-! ### Saved inboxes (R365) -/

/-- A fault message enters the reserved region of the saved inbox of core `n` of owner `o`, or is lost (R49, R365). -/
def State.savedFault (s : State) (o n : Nat) (x : Saved) (r : Rec) : State :=
  let base := saveBlock (s.owner o).entry n
  let g := s.blockRing o base 0
  match (List.range 64).find? fun k => !x.faultBox.any fun y => y.2 == k with
  | none => s.report 0x0A 0 (some o) 0 n 0 (struct := BitVec.ofNat 64 (0x14 * 2 ^ 24 + n))
  | some k =>
    let a := base + (g.base.toNat * 64 - 4096) + 64 * k
    let s := (List.range 8).foldl (fun s i => s.blockWrite o (wordAt r i) (a + 8 * i) 8) (s.blockLine o n (a / 128) .write)
    s.updSaved o n fun x => { x with faultBox := x.faultBox ++ [(g.tail, k)] }

/-- SAVED_INBOX_ENTRY: the message `i` that waits at the device enters its target's inbox, live or saved, or begins to wait at its
plate port; one for a core no longer in its owner's CMAP is discarded. -/
def State.savedInbox (s : State) (i : Nat) : Option State :=
  match s.devMsgs[i]? with
  | none => none
  | some m =>
    let s' := { s with devMsgs := s.devMsgs.eraseIdx i }
    if (s.devMsgs.take i).any fun x => x.target == m.target && x.owner == m.owner && x.fault == m.fault && x.who == m.who then none
    else if s.target m.owner m.target = .lost then some s'
    else if m.fault then
      if s.liveFor m.owner m.target then some (s'.faultArrive m.target m.r)
      else (Store.find (m.owner * 2 ^ 16 + m.target) s.saved).map fun x => s'.savedFault m.owner m.target x m.r
    else if !s.devReady m then none
    else match s.acceptMsg m.owner m.target m.who m.tag m.r with
      | some (true, t) => some { t with devMsgs := t.devMsgs.eraseIdx i }
      | some (false, t) => some t
      | none => none

/-! ### Stopping a partition (R342) -/

/-- Stop the partition of function `f`: every owner running on it is killed, and the device's copy of ENABLED is cleared. -/
def State.stopPartition (s : State) (f : Nat) : State :=
  let os := (s.ownersOf f).filter fun o => s.cores.any fun (_, c) => c.ctx == some o
  let s := os.foldl State.killOwner s
  let e := (s.func f).entry
  let on := (s.func f).slice != .off
  let s := s.updFunc f fun x => { x with disabled := true, slice := .off }
  if on then s.passRound e (s.roundOf e) else s

/-! ### The launch sequencer -/

namespace Launch
/-- Bytes `i` to `i + n` − 1 of a launch record (R51). -/
def at_ (r : BitVec 1024) (i n : Nat) : Nat := (r.toNat / 2 ^ (8 * i)) % 2 ^ (8 * n)
def entry (r : BitVec 1024) : Nat := at_ r 0 8
def nf (r : BitVec 1024) : Nat := at_ r 8 8 / 2 ^ 45 % 8
def spread (r : BitVec 1024) : Nat := at_ r 8 8 / 2 ^ 42 % 8
def width (r : BitVec 1024) (j : Nat) : Nat := at_ r 8 8 / 2 ^ (7 * j) % 128
/-- Extent of field j, minus 1. -/
def ext (r : BitVec 1024) (j : Nat) : Nat := at_ r (16 + 4 * j) 4
def first (r : BitVec 1024) : Nat := at_ r 40 2
def count (r : BitVec 1024) : Nat := at_ r 42 2
def tag (r : BitVec 1024) : Nat := at_ r 44 4
/-- B_j: the sum of the widths below field j. -/
def bound (r : BitVec 1024) (j : Nat) : Nat := ((List.range j).map (width r)).sum

/-- The limits of R51, but for the core set. -/
def wellFormed (r : BitVec 1024) : Bool :=
  entry r % 16 == 0 && at_ r 8 8 / 2 ^ 48 == 0 && at_ r 48 16 == 0 && at_ r 112 16 == 0
    && decide (1 ≤ nf r ∧ nf r ≤ 6) && decide (spread r ≤ nf r) && decide (bound r 6 ≤ 64)
    && (List.range 6).all (fun j =>
        if j < nf r then decide (1 ≤ width r j) && decide (width r j ≤ 64) && decide (ext r j + 1 ≤ 2 ^ min (width r j) 32)
        else width r j == 0 && ext r j == 0)
    && decide (1 ≤ count r ∧ count r ≤ 2048) && decide (first r + count r ≤ 2048)

/-- The work identifier of field values (R52). -/
def id (r : BitVec 1024) (fs : List Nat) : Nat := ((List.range 6).map fun j => fs.getD j 0 * 2 ^ bound r j).sum

/-- The message of an identifier (R29, R52), and the core it goes to. -/
def message (r : BitVec 1024) (w : Nat) : Rec :=
  mkRec ([BitVec.ofNat 64 (entry r % 2 ^ 52 + 1), BitVec.ofNat 64 w]
    ++ (List.range 6).map fun i => BitVec.ofNat 64 (at_ r (64 + 8 * i) 8))
def target (r : BitVec 1024) (w : Nat) : Nat := first r + w / 2 ^ bound r (spread r) % count r

/-- The next field values in increasing identifier, or none after the last. -/
def succ (r : BitVec 1024) (fs : List Nat) : Option (List Nat) :=
  match (List.range (nf r)).find? fun j => fs.getD j 0 < ext r j with
  | some j => some ((List.range 6).map fun i => if i < j then 0 else if i = j then fs.getD j 0 + 1 else fs.getD i 0)
  | none => none
end Launch

/-- The owner of function `f` whose CMAP holds core FIRST (R321, R327). -/
def State.launchOwner (s : State) (f first : Nat) : Option Nat :=
  (s.ownersOf f).find? fun o => Own.valid (s.owner o).entry && Own.hasCore (s.owner o).entry first

/-- The cores of a launch record lie in the partition and in one owner's CMAP (R51, R327). -/
def State.launchSet (s : State) (f : Nat) (r : BitVec 1024) : Bool :=
  match s.launchOwner f (Launch.first r) with
  | none => false
  | some o => (List.range (Launch.count r)).all fun i =>
      Vd.part (s.func f).entry ((Launch.first r + i) / 8) && Own.hasCore (s.owner o).entry (Launch.first r + i)

/-- A record is finished: HEAD advances and LVEC is raised (R326). -/
def State.launchDone (s : State) (f : Nat) : State :=
  (s.updFunc f fun x => { x with head := x.head + 1, sending := none }).raiseVector f (Vd.lvec (s.func f).entry)

/-- A record is rejected, with its TAG (R51, R334). -/
def State.launchReject (s : State) (f : Nat) (r : BitVec 1024) : State :=
  (s.launchDone f).report 0x09 0 (s.launchOwner f (Launch.first r)) 0 0 (BitVec.ofNat 64 (Launch.tag r)) (func := some f)

/-- The address of the record at HEAD. -/
def Func.recordAt (x : Func) : Nat := Vd.lqBase x.entry + x.head.toNat % 2 ^ Vd.lqLog2 x.entry * 128

/-- The record at HEAD, read in image B under the module key (R345). -/
def State.launchRec (s : State) (f : Nat) : BitVec 1024 :=
  BitVec.ofNat 1024 (s.tableRead (s.func f).recordAt 128)

/-- The sequencer's read of a record passes its points under the owner it launches for, and an error in its line is detected (R124,
R127, R335). -/
def State.launchRead (s : State) (f : Nat) (r : BitVec 1024) : State :=
  let o := (s.launchOwner f (Launch.first r)).getD (Vd.own (s.func f).entry 0)
  let line := (s.func f).recordAt / 128
  (s.detectLine line false o 0 0 0).cross o launchRequester line (linked (placeOfUnit launchRequester) (s.mscPath o line))

/-- TAIL of a launch queue is in range (R326), of the queue that the entry in force describes, or outside a slice the one
that the next restore puts in force (R321). -/
def Func.tailOk (x : Func) (v : BitVec 32) : Bool :=
  decide ((v - x.head).toNat ≤ 2 ^ Vd.lqLog2 (if x.slice = .off then x.entryNext else x.entry))

/-- The bring-up service runs: the host has function 0's launch queue, BOOT registers, error log and MSI-X (R353). -/
def State.serving (s : State) : Bool := s.boot.state == 2 || s.boot.state == 3 || s.boot.state == 15

/-- LAUNCH_TAIL_WRITE (R326). -/
def State.tailWrite (s : State) (f : Nat) (v : BitVec 32) : State :=
  if !(s.boot.state == 4 || (s.serving && f == 0)) then s else
  let ok := (s.func f).tailOk v
  let s := s.updFunc f fun x => { x with tail := v, launchStop := !ok }
  if ok then s else s.report 0x09 0 none 0 0 0 (func := some f)

/-- LAUNCH_RECORD: the sequencer takes the next record, or sends the next message of the one it has taken, which enters the inbox
at a slot of its plate port's lottery or begins to wait there. DESIGN CHOICE (log 78): a record taken is rejected when its
cores no longer lie in one owner's CMAP at a restore. -/
def State.launchMove (s : State) (f : Nat) : Option State :=
  let x := s.func f
  if x.launchStop then none else
  match x.sending with
  | some y =>
    let w := Launch.id y.bytes y.next
    let t := Launch.target y.bytes w
    match s.launchOwner f (Launch.first y.bytes) with
    | none => onlyIf (x.slice == .running) (s.launchReject f y.bytes)
    | some o =>
      if s.liveFor o t then
        (s.acceptMsg o t launchRequester 34 (Launch.message y.bytes w)).map fun (sent, s) =>
          if !sent then s else
          match Launch.succ y.bytes y.next with
          | some fs => s.updFunc f fun x => { x with sending := some ⟨y.bytes, fs⟩ }
          | none => s.launchDone f
      else onlyIf (x.slice == .running && !s.launchSet f y.bytes) (s.launchReject f y.bytes)
  | none =>
    if x.slice = .running && x.tail != x.head then
      let r := s.launchRec f
      let s := s.launchRead f r
      some (if Launch.wellFormed r && s.launchSet f r then
          s.updFunc f fun x => { x with sending := some ⟨r, List.replicate 6 0⟩ }
        else s.launchReject f r)
    else none

/-! ### The event rows -/

/-- ROUND_END (R329). -/
def execRoundEnd (f : BitVec 6) (s : State) : Outcome := event "ROUND_END" (s.roundEndMove f.toNat)
/-- SLICE_QUIESCE (R330). -/
def execSliceQuiesce (f : BitVec 6) (s : State) : Outcome := event "SLICE_QUIESCE" (s.quiesceMove f.toNat)
/-- SLICE_DRAIN (R330). -/
def execSliceDrain (f : BitVec 6) (s : State) : Outcome := event "SLICE_DRAIN" (s.drainMove f.toNat)
/-- SLICE_SAVE (R330). -/
def execSliceSave (f : BitVec 6) (s : State) : Outcome := event "SLICE_SAVE" (s.saveMove f.toNat)
/-- SLICE_SWITCH (R330). -/
def execSliceSwitch (f : BitVec 6) (s : State) : Outcome := event "SLICE_SWITCH" (s.switchMove f.toNat)
/-- RESTORE (R333). -/
def execRestore (f : BitVec 6) (s : State) : Outcome := event "RESTORE" (s.restoreMove f.toNat)
/-- SAVED_INBOX_ENTRY (R365). -/
def execSavedInboxEntry (i : Nat) (s : State) : Outcome := event "SAVED_INBOX_ENTRY" (s.savedInbox i)
/-- LAUNCH_TAIL_WRITE (R326). -/
def execLaunchTailWrite (f : BitVec 6) (v : BitVec 32) (s : State) : Outcome := .next (s.tailWrite f.toNat v)
/-- LAUNCH_RECORD (R52). -/
def execLaunchRecord (f : BitVec 6) (s : State) : Outcome := event "LAUNCH_RECORD" (s.launchMove f.toNat)

end Sys2Proof.Machine
end

