-- ==== Sys2Proof/Machine/LogEvents.lean ====
section
/-!
DEFINITION. Interrupts (spec/24_tenancy_and_preemption.md R328), the error log (spec/25_errors_and_containment.md R336, R337), and
errors that stop more than one access (R334, R340 to R342).
-/
namespace Sys2Proof.Machine

/-! ### MSI-X (R328) -/

/-- A vector of function `f` is masked. -/
def Func.isMasked (x : Func) (v : Nat) : Bool := Store.get true v x.masked

/-- Send a vector, or leave its pending bit when it is masked; its count and timer start again. -/
def Func.sendVector (x : Func) (v : Nat) : Func :=
  let x := { x with events := Store.del v x.events, timer := Store.del v x.timer }
  if x.isMasked v then { x with pba := Store.put v true x.pba } else { x with sent := Store.put v (Store.get 0 v x.sent + 1) x.sent }

/-- INTERRUPT_SEND: COALN events have accumulated. -/
def State.interruptMove (s : State) (f v : Nat) : Option State :=
  let x := s.func f
  onlyIf (decide (max 1 (Vd.coalN x.entryPts) ≤ Store.get 0 v x.events)) (s.updFunc f fun x => x.sendVector v)

/-- COALESCE_TIMEOUT: COALT cycles of the I/O island have passed since the first pending event. -/
def State.coalesceMove (s : State) (f v : Nat) : Option State :=
  let x := s.func f
  let t := Vd.coalT x.entryPts
  onlyIf (t != 0 && Store.get 0 v x.events != 0 && decide (Store.get 0 v x.timer + t ≤ (s.island 44).cycles.toNat))
    (s.updFunc f fun x => x.sendVector v)

/-- VECTOR_UNMASK: a pending vector is sent. -/
def State.unmask (s : State) (f v : Nat) : State :=
  s.updFunc f fun x =>
    let y := { x with masked := Store.put v false x.masked }
    if Store.get false v y.pba then
      { y with pba := Store.del v y.pba, sent := Store.put v (Store.get 0 v y.sent + 1) y.sent }
    else y

/-! ### The error log (R336, R337) -/

/-- A record of R336, about owner `o`, with address `va` and core `n`. -/
def ErrRec.record (e : ErrRec) (o : Option Nat) (va : Word) (n : Nat) (lost : Bool) : LogRec :=
  let flags := b2n e.kill + 2 * b2n e.stop + 4 * b2n lost + 8 * b2n o.isNone
  mkRec [BitVec.ofNat 64 (e.eseq.toNat + e.cls * 2 ^ 32 + e.cause % 256 * 2 ^ 40 + o.getD 0 * 2 ^ 48 + flags * 2 ^ 56),
    va, e.struct ||| BitVec.ofNat 64 (n * 2 ^ 32), e.detail]

/-- Write a record to a function's log: dropped when the log is full, and the next one written says so (R336). -/
def Func.logRecord (x : Func) (r : Bool → LogRec) : Func :=
  if (x.eltail - x.elhead).toNat = 64 then
    { x with ellost := if x.ellost = 0xFFFFFFFF then x.ellost else x.ellost + 1, lostMark := true }
  else { x with log := Store.put (x.eltail.toNat % 64) (r x.lostMark) x.log, eltail := x.eltail + 1, lostMark := false }

/-- Write a record to the log of function `f` and raise a vector, if it was not dropped. -/
def State.logTo (s : State) (f : Nat) (v : Option Nat) (r : Bool → LogRec) : State :=
  let full := decide (((s.func f).eltail - (s.func f).elhead).toNat = 64)
  let s := s.updFunc f fun x => x.logRecord r
  match v with
  | some v => if full then s else s.raiseVector f v
  | none => s

/-- The vector a record for owner `o` raises in the log of function `f` (R336). -/
def State.logVector (s : State) (f o : Nat) : Nat := if f = 0 then 2047 else Own.evec (s.owner o).entry

/-- The next record of a detection (R337): function 0's first, then each owner's in increasing id. Where no owner is known, the
function that raised it has the second one. With the state after it, what is still to be written. -/
def State.logNext (s : State) (e : ErrRec) : State × Option ErrRec :=
  if !e.first then
    let more := !e.owners.isEmpty || e.func.any fun f => f != 0
    (s.logTo 0 (some 2047) fun lost => e.record e.owner e.pa e.core lost, if more then some { e with first := true } else none)
  else match e.owners, e.func with
    | (o, va, n) :: l, _ =>
      let f := s.funcOf o
      (s.logTo f (some (s.logVector f o)) fun lost => e.record (some o) va n lost,
        if l.isEmpty then none else some { e with owners := l })
    | [], some f => (s.logTo f none fun lost => e.record none e.va e.core lost, none)
    | [], none => (s, none)

/-- ERROR_LOG_RECORD: one record; a trap may be taken before the next of its error (R337). -/
def State.logMove (s : State) : Option State :=
  match s.errs with
  | e :: rest =>
    let (t, more) := { s with errs := rest }.logNext e
    some { t with errs := more.toList ++ t.errs }
  | [] => none

/-! ### Flits (R340) -/

/-- The cluster a point serves, for the classes of R340's second row. -/
def servedCluster (k i : Nat) : Option Nat :=
  match k with
  | 0 => some (i / 8)
  | 1 => some (i / 4)
  | 5 => some i
  | 6 => some (if i < 256 then i else (i - 256) / 2)
  | 9 => some (i / 8)
  | _ => none

/-- The ownership bitmap of an arbitration point (R335), in increasing id: every owner with a request in an entry; at a plate
port also the owner of the context on the core. -/
def State.pointBitmap (s : State) (k i : Nat) : List Nat :=
  let here := if k = 9 then (s.core i).ctx.toList else []
  idsOf (s.entryOwners k i ++ here)

/-- The functions a header failure at a point stops (R340): those whose partition holds the served cluster, or that run an
owner of the point's bitmap. -/
def State.struck (s : State) (k i : Nat) : List Nat :=
  let on := (s.funcs.filter fun x => x.2.slice != .off).map Prod.fst
  match servedCluster k i with
  | some g => on.filter fun f => Vd.part (s.func f).entry g
  | none => on.filter fun f => (s.ownersOf f).any (s.pointBitmap k i).contains

/-- Stop the partitions of some functions with one detection (R342): the records go to every owner of each, with STOP (R340)
and, as of a kill, with KILL (R341). -/
def State.stopAll (s : State) (fs : List Nat) (cls : Nat) (o : Option Nat) (struct : Word) : State :=
  let owners := (fs.flatMap s.ownersOf).mergeSort.eraseDups
  let s := fs.foldl State.stopPartition s
  { s with
    eseq := s.eseq + 1
    errs := s.errs ++ [⟨s.eseq, cls, 0, o, true, true, 0, 0, struct, 0, 0, owners.map (fun o => (o, 0, 0)), false, none⟩] }

/-- FLIT_CHECK_FAIL: the header's owner is killed, with a record to every owner of the point's bitmap as it stood at the
detection (R335, R341); or partitions stop. -/
def State.flitMove (s : State) (k i : Nat) (header : Bool) (o n : Nat) : Option State :=
  let struct : Word := BitVec.ofNat 64 (k * 2 ^ 24 + i)
  if !pointExists k i then none
  else if header then some (s.stopAll (s.struck k i) 0x05 none struct)
  else
    let told := (s.pointBitmap k i).foldl (fun l q => insertOwner (q, 0, 0) l) [(o, 0, n)]
    let s := s.killOwner o
    some { s with
      eseq := s.eseq + 1
      errs := s.errs ++ [⟨s.eseq, 0x04, 0, some o, true, false, 0, 0, struct, n, 0, told, false, none⟩] }

/-- MODULE_FATAL: every partition stops, and the module waits for a warm reset (R334, R348). -/
def State.moduleFatalMove (s : State) (code : Nat) : State :=
  let on := (s.funcs.filter fun x => x.2.slice != .off).map Prod.fst
  { s.stopAll on 0x0E none (BitVec.ofNat 64 (code * 2 ^ 24)) with fatal := true }

/-! ### The event rows -/

/-- INTERRUPT_SEND (R328). -/
def execInterruptSend (f : BitVec 6) (v : BitVec 11) (s : State) : Outcome := event "INTERRUPT_SEND" (s.interruptMove f.toNat v.toNat)
/-- COALESCE_TIMEOUT (R328). -/
def execCoalesceTimeout (f : BitVec 6) (v : BitVec 11) (s : State) : Outcome :=
  event "COALESCE_TIMEOUT" (s.coalesceMove f.toNat v.toNat)
/-- VECTOR_UNMASK (R328). -/
def execVectorUnmask (f : BitVec 6) (v : BitVec 11) (s : State) : Outcome :=
  .next (if s.boot.state == 4 || f == 0 then s.unmask f.toNat v.toNat else s)
/-- ERROR_LOG_RECORD (R337). -/
def execErrorLogRecord (s : State) : Outcome := event "ERROR_LOG_RECORD" s.logMove
/-- FLIT_CHECK_FAIL (R340). -/
def execFlitCheckFail (cls : BitVec 4) (inst : Nat) (header : Bool) (o : BitVec 8) (n : BitVec 11) (s : State) : Outcome :=
  event "FLIT_CHECK_FAIL" (s.flitMove cls.toNat inst header o.toNat n.toNat)
/-- MODULE_FATAL (R334). -/
def execModuleFatal (code : BitVec 8) (s : State) : Outcome := .next (s.moduleFatalMove code.toNat)

end Sys2Proof.Machine
end

