-- ==== Sys2Proof/Machine/HostEvents.lean ====
section
/-!
DEFINITION. What the host does through its ports: accesses to device memory (spec/25_errors_and_containment.md R345,
spec/26_boot_and_bring_up.md R353) and writes of BAR 0 registers (R320, R328, R336, R355; R359 to R361).
-/
namespace Sys2Proof.Machine

/-! ### Device memory -/

/-- Memory lies at a physical address as the host sees it now: the bring-up window until STATE 4 (R353, R364). -/
def State.hostSees (s : State) (pa : Nat) : Bool :=
  if s.boot.state = 4 then s.populated pa else decide (pa < 2 ^ 26)

/-- A host access in the bring-up window, which the locked MSC of stack 0 holds (R353). -/
def State.windowAccess (s : State) (write : Bool) (addr : Nat) (v : Word) : State :=
  if write then s.bWrite s.moduleKey v addr 8 else { s with hostData := s.bRead s.moduleKey addr 8 }

/-- A host access at STATE 4 through function `f`: in image C, as a core's loads and stores are (R305), under the key of the
function's slot 0 or the module key (R345), in traffic class TC3 of the MSC (R325). An error of a line is detected as it is
reached (R335). -/
def State.hostAccess (s : State) (f : Nat) (write : Bool) (addr : Nat) (v : Word) : State :=
  let o := Vd.own (s.func f).entry 0
  let sup := f == 0
  let pass (s : State) (line : Nat) : State :=
    let op : CacheOp := if write then .write else .read
    let s := s.detectLine line true o 0 0 0
    (s.cross o hostRequester line (linked (placeOfUnit hostRequester) (s.mscPath o line op 3))).touch 0 o line 2
      (if inHbm (128 * line) then .hbm else .cxl) false op 3
  let s := [addr / 128, (addr + 7) / 128].eraseDups.foldl pass s
  if write then (List.range 8).foldl (fun s i => s.cWrite o sup (byteAt v i) (addr + i) 1) (s.joinOrder (.main .c) o addr 8)
  else { s with hostData := s.cRead (s.keyFor o sup) addr 8 }

/-- An access through function `f` (R345): the bring-up service admits function 0 only, and accesses that arrive while STATE
is 3 are held until its window has been written to HBM4E (R353). -/
def State.hostMove (s : State) (f : Nat) (write : Bool) (addr : Nat) (v : Word) : Option State :=
  if s.boot.state = 4 then some (s.hostAccess f write addr v)
  else if f ≠ 0 || s.boot.state < 2 then none
  else if s.boot.state = 3 && !s.switched then some { s with hostHeld := s.hostHeld ++ [(f, write, addr, v)] }
  else some (s.windowAccess write addr v)

/-- HOST_PORT_ACCESS: eight bytes. -/
def execHostPortAccess (f : BitVec 6) (write : Bool) (addr : Nat) (v : BitVec 64) (s : State) : Outcome :=
  if s.hostSees addr && s.hostSees (addr + 7) then event "HOST_PORT_ACCESS" (s.hostMove f.toNat write addr v)
  else .fault .hostAddressHole

/-! ### BAR 0 -/

/-- A register of BAR 0 as a write finds it. -/
inductive BarReg where
  /-- a write changes nothing -/
  | readOnly
  /-- its writes have rows of their own -/
  | ownRow
  | vdtBase | owtBase | schBase | nonce | attAddr | attCmd | elHead
  /-- the schedule register: a write of EN = 1 has a row of its own -/
  | sched
  /-- word 0 or word 1 of the MSI-X entry of vector `v` (R328) -/
  | msixAddr (v : Nat)
  | msixData (v : Nat)
  /-- nothing is described there: the value is stored -/
  | plain
  deriving DecidableEq, Repr

/-- Registers of every function (R312, R326, R328, R336). -/
def functionReg (off : Nat) : BarReg :=
  if off = 0 ∨ off = 0x1000 then .ownRow
  else if off = 8 ∨ (0x2000 ≤ off ∧ off < 0x3000) ∨ off = 0x3008 ∨ off = 0x3010 then .readOnly
  else if off = 0x3000 then .elHead
  else if 0x10000 ≤ off ∧ off < 0x18000 then
    if off % 16 < 8 then .msixAddr (off / 16 % 2048) else .msixData (off / 16 % 2048)
  else if 0x18000 ≤ off ∧ off < 0x18100 then .readOnly
  else .plain

/-- Registers only the physical function has (R320, R355, R359 to R361). -/
def physicalReg (off : Nat) : Option BarReg :=
  if off = 0x100 then some .vdtBase
  else if off = 0x108 then some .owtBase
  else if off = 0x110 then some .schBase
  else if off = 0x120 then some .sched
  else if off = 0x470 then some .attCmd
  else if off = 0x118 ∨ off = 0x408 ∨ off = 0x4800 ∨ off = 0x4810 then some .ownRow
  else if off = 0x400 ∨ off = 0x410 ∨ off = 0x418 ∨ off = 0x420 ∨ off = 0x4808 then some .readOnly
  else if 0x440 ≤ off ∧ off < 0x470 then some .nonce
  else if off = 0x478 then some .attAddr
  else if 0x5000 ≤ off ∧ off < 0x5300 then some .readOnly
  else if 0x6000 ≤ off ∧ off ≤ 0x60A0 then some .ownRow
  else none

/-- The register a write through function `f` at `off` reaches: a virtual function has none of the physical function's, and
its offsets read as 0 (R320, R355). -/
def barReg (f off : Nat) : BarReg :=
  match physicalReg off with
  | some r => if f = 0 then r else .readOnly
  | none => functionReg off

/-- A register the host has while the bring-up service runs: function 0's launch queue, BOOT registers, error log and MSI-X
(R353); none before it (log 41). -/
def State.hasReg (s : State) (f off : Nat) : Bool :=
  s.boot.state == 4 || (f == 0 && decide (2 ≤ s.boot.state) &&
    (decide (off < 0x10) || decide (0x400 ≤ off ∧ off < 0x480) || decide (0x2000 ≤ off ∧ off < 0x3018)
      || decide (0x10000 ≤ off ∧ off < 0x18100)))

/-- A write of ATTCMD (R355): 1 and 4 start a command; it is ignored while one is carried out, and other values name none
(log 41). -/
def Boot.command (b : Boot) (v : Nat) : Boot :=
  if b.attCmd = 1 || !(v == 1 || v == 4) then b else { b with attCmd := 1, attReq := v }

/-- Mask or unmask a vector. -/
def State.setMask (s : State) (f v : Nat) (masked : Bool) : State :=
  if masked then s.updFunc f fun x => { x with masked := Store.put v true x.masked } else s.unmask f v

/-- REGISTER_WRITE: eight bytes at an aligned offset. -/
def State.registerMove (s : State) (f off : Nat) (v : Word) : Option State :=
  let keep (s : State) : State := { s with bar := Store.put (f * 2 ^ 20 + off) v s.bar }
  if off % 8 ≠ 0 then none
  else match barReg f off with
    | .ownRow => none
    | r => if !s.hasReg f off then some s else match r with
    | .ownRow => none
    | .readOnly => some s
    | .sched => if bitOf v 63 then none else some { s.schedOff with nrm1 := v.extractLsb' 0 6 }
    | .attCmd => some { s with boot := s.boot.command (bitsOf v 2 0) }
    | .vdtBase => some { s with vdtBase := v.extractLsb' 12 40 }
    | .owtBase => some { s with owtBase := v.extractLsb' 12 40 }
    | .schBase => some { s with schBase := v.extractLsb' 12 40 }
    | .nonce =>
      let i := (off - 0x440) / 8
      let word (j : Nat) : Word := if j = i then v else s.boot.nonce.extractLsb' (64 * j) 64
      some { s with boot := { s.boot with nonce := word 5 ++ word 4 ++ word 3 ++ word 2 ++ word 1 ++ word 0 } }
    | .attAddr => some { s with boot := { s.boot with attAddr := v.extractLsb' 12 40 } }
    | .elHead => some (s.updFunc f fun x => { x with elhead := v.extractLsb' 0 32 })
    | .msixAddr _ => some (keep s)
    | .msixData k => some ((keep s).setMask f k (bitOf v 32))
    | .plain => some (keep s)

/-! ### Reading BAR 0 -/

/-- A word of the registers that only the physical function has (R320, R355, R359 to R361). -/
def State.physicalRead (s : State) (off : Nat) : Word :=
  let b := s.boot
  if off = 0x100 then s.vdtBase.setWidth 64 <<< 12
  else if off = 0x108 then s.owtBase.setWidth 64 <<< 12
  else if off = 0x110 then s.schBase.setWidth 64 <<< 12
  else if off = 0x118 then BitVec.ofNat 64 (b2n s.busy * 2 ^ 63 + b2n s.commitErr * 2 ^ 62)
  else if off = 0x120 then BitVec.ofNat 64 (b2n s.schedEn * 2 ^ 63 + b2n s.schedErr * 2 ^ 62 + s.nrm1.toNat)
  else if off = 0x400 then
    BitVec.ofNat 64 (b.state * 2 ^ 60 + b.hbmFail.toNat * 2 ^ 52 + b.svn.toNat * 2 ^ 24 + b.fuseSvn.toNat * 2 ^ 8 + b2n b.slotB)
  else if off = 0x410 then b.rcBase.setWidth 64 <<< 12
  else if off = 0x418 then b.cxlBase.setWidth 64 <<< 30
  else if off = 0x420 then b.cxlGiB.setWidth 64
  else if 0x440 ≤ off ∧ off < 0x470 then b.nonce.extractLsb' (8 * (off - 0x440)) 64
  else if off = 0x470 then BitVec.ofNat 64 b.attCmd
  else if off = 0x478 then b.attAddr.setWidth 64 <<< 12
  else if off = 0x4800 then s.pwrLim.setWidth 64
  else if off = 0x4808 then s.pwrNow.setWidth 64
  else if off = 0x4810 then s.capCnt.setWidth 64
  else if 0x5000 ≤ off ∧ off < 0x5300 then
    let x := s.island ((off - 0x5000) / 16)
    if off % 16 = 0 then BitVec.ofNat 64 (x.mhz.toNat * 2 ^ 32 + x.mv.toNat * 2 ^ 16 + x.temp.toNat) else x.mw.setWidth 64
  else if 0x6000 ≤ off ∧ off ≤ 0x60A0 then Store.get 0 ((off - 0x6000) / 8) s.corrected
  else 0

/-- The 64 pending bits of a function's vectors from `64 * k` on (R328). -/
def Func.pending (x : Func) (k : Nat) : Word :=
  BitVec.ofNat 64 (((List.range 64).map fun i => b2n (Store.get false (64 * k + i) x.pba) * 2 ^ i).sum)

/-- The eight bytes that a read through function `f` at an aligned offset of BAR 0 returns; the read changes nothing. A
virtual function reads 0 where the physical function's registers stand (R320, R355, R359), a write-only register reads as 0
(R312, R355), and the mask bit of a vector is bit 32 of the second word of its entry (R328). -/
def State.barRead (s : State) (f off : Nat) : Word :=
  let x := s.func f
  let kept : Word := Store.get 0 (f * 2 ^ 20 + off) s.bar
  match barReg f off with
  | .msixData v => (kept &&& ~~~(1#64 <<< 32)) ||| BitVec.ofNat 64 (b2n (x.isMasked v) * 2 ^ 32)
  | .msixAddr _ => kept
  | .plain => kept
  | _ =>
    if (physicalReg off).isSome then if f = 0 then s.physicalRead off else 0
    else if off = 0 then x.tail.setWidth 64
    else if off = 8 then x.head.setWidth 64
    else if 0x2000 ≤ off ∧ off < 0x3000 then
      (Store.get 0 ((off - 0x2000) / 64) x.log).extractLsb' (64 * (off / 8 % 8)) 64
    else if off = 0x3000 then x.elhead.setWidth 64
    else if off = 0x3008 then x.eltail.setWidth 64
    else if off = 0x3010 then x.ellost.setWidth 64
    else if 0x18000 ≤ off ∧ off < 0x18100 then x.pending ((off - 0x18000) / 8)
    else 0

/-! ### Power, telemetry and counters (R359 to R361, R363) -/

/-- The clock the firmware wants of island `i`, in MHz. -/
def State.mhz (s : State) (i : Nat) : Nat := (s.island i).want.toNat
/-- Ask for a clock: FREQUENCY_CHANGE makes the change, in one step of the whole island (R358). -/
def State.askMhz (s : State) (i m : Nat) : State := s.updIsland i fun x => { x with want := BitVec.ofNat 16 m }
/-- Set a clock at bring-up (R349, R353). -/
def State.setMhz (s : State) (i m : Nat) : State :=
  s.updIsland i fun x => { x with mhz := BitVec.ofNat 16 m, want := BitVec.ofNat 16 m }

/-- The cluster island with the highest clock, the lower number among equals. -/
def State.fastest (s : State) : Nat := (List.range 32).foldl (fun b i => if s.mhz b < s.mhz i then i else b) 0
/-- The cluster island with the lowest clock. -/
def State.slowest (s : State) : Nat := (List.range 32).foldl (fun b i => if s.mhz i < s.mhz b then i else b) 0
/-- An island has stood above 105 °C for 1 s (R363). -/
def State.hot (s : State) (i : Nat) : Bool := decide (1000 ≤ (s.island i).hotMs)
/-- Every cluster island stands at 1.0 GHz. -/
def State.atFloor (s : State) : Bool := (List.range 32).all fun i => decide ((s.island i).mhz.toNat ≤ 1000)

/-- One step down, to 1.0 GHz at least. -/
def State.slowDown (s : State) (i : Nat) : State := if 1000 < s.mhz i then s.askMhz i (s.mhz i - 100) else s

/-- The floor has been reached with PWRNOW above PWRLIM for 10 ms (R359). -/
def State.floorReached (s : State) : Bool := s.atFloor && decide (10 ≤ s.floorMs)

/-- POWER_CHECK (R359, R363): by the main firmware, at STATE 4. The record is written at the first check that finds the floor
reached. -/
def State.powerMove (s : State) : Option State :=
  let limit := s.pwrLim.toNat * 1000
  let now := s.pwrNow.toNat
  let t :=
    if limit < now then s.slowDown s.fastest
    else if now * 100 < limit * 95 && s.mhz s.slowest < 3000 && !(List.range 48).any s.hot then
      s.askMhz s.slowest (s.mhz s.slowest + 100)
    else s
  let t := { t with
    floorMs := if limit < now then s.floorMs + 1 else 0
    capCnt := if (List.range 32).any (fun i => t.mhz i < 3000) && t.capCnt != 0xFFFFFFFF then t.capCnt + 1 else t.capCnt }
  let u := { t with floorTold := t.floorReached }
  onlyIf (s.boot.state == 4) (if t.floorReached && !s.floorTold then u.report 0x0C 0 none 0 0 0 else u)

/-- A write of PWRLIM (R359). -/
def State.writePwrLim (s : State) (v : Word) : State :=
  if s.boot.state != 4 then s else { s with pwrLim := BitVec.ofNat 16 (max 600 (min 2000 (bitsOf v 15 0))) }

/-- The readings of an island, and how long it has been above 105 °C, which is 840 units of 0.125 °C (R360, R363). -/
def Island.refresh (x : Island) (mv temp : BitVec 16) (mw : BitVec 32) : Island :=
  { x with mv := mv, temp := temp, mw := mw, hotMs := if 840 < temp.toInt then x.hotMs + 1 else 0 }

/-- TELEMETRY_REFRESH (R360): sensor readings, every millisecond (log 24). -/
def State.telemetry (s : State) : State :=
  let n := s.moves
  let s := (List.range 48).foldl (fun s i => s.updIsland i fun x =>
    x.refresh (Config.sensorMv n i) (Config.sensorTemp n i) (Config.sensorMw n i)) s
  { s with pwrNow := Config.sensorPower n }

/-- The cluster islands a hot island slows (R363). -/
def throttled (i : Nat) : List Nat :=
  if i < 32 then [i] else if i < 36 then (List.range 8).map fun j => 8 * (i - 32) + j else List.range 32

/-- THERMAL_THROTTLE. -/
def State.thermalMove (s : State) (i : Nat) : Option State := onlyIf (s.hot i) ((throttled i).foldl State.slowDown s)

/-! ### The event rows -/

/-- REGISTER_WRITE (R320). -/
def execRegisterWrite (f : BitVec 6) (off : BitVec 20) (v : BitVec 64) (s : State) : Outcome :=
  event "REGISTER_WRITE" (s.registerMove f.toNat off.toNat v)
/-- POWER_CHECK (R359). -/
def execPowerCheck (s : State) : Outcome := event "POWER_CHECK" s.powerMove
/-- PWRLIM_WRITE (R359). -/
def execPwrlimWrite (v : BitVec 64) (s : State) : Outcome := .next (s.writePwrLim v)
/-- CAPCNT_CLEAR (R359). -/
def execCapcntClear (s : State) : Outcome := .next (if s.boot.state != 4 then s else { s with capCnt := 0 })
/-- TELEMETRY_REFRESH (R360). -/
def execTelemetryRefresh (s : State) : Outcome := .next s.telemetry
/-- CORRECTED_COUNTER_CLEAR (R361). -/
def execCorrectedCounterClear (code : BitVec 8) (s : State) : Outcome :=
  event "CORRECTED_COUNTER_CLEAR"
    (onlyIf (decide (code.toNat ≤ 0x14)) (if s.boot.state != 4 then s else { s with corrected := Store.put code.toNat 0 s.corrected }))
/-- THERMAL_THROTTLE (R363). -/
def execThermalThrottle (island : BitVec 6) (s : State) : Outcome := event "THERMAL_THROTTLE" (s.thermalMove island.toNat)

end Sys2Proof.Machine
end

