-- ==== Sys2Proof/Machine/BootEvents.lean ====
section
/-!
DEFINITION. Reset, firmware selection, the bring-up service and attestation (spec/26_boot_and_bring_up.md R348 to R356).
-/
namespace Sys2Proof.Machine

/-! ### Firmware images (R350, R351) -/

/-- The rules of R351 for an image, given FUSESVN. -/
def imageOk (im : Nat → Byte) (fuseSvn : BitVec 16) : Bool :=
  let len := imageLength im
  bytesNum (imageBytes im 0 4) == 0x544C4657 && imageVer im / 2 ^ 17 == 0
    && (imageBytes im 1764 2332).all (fun b => b == 0)
    && decide (1 ≤ len) && decide (len ≤ 2 ^ 25 - 4096)
    && Config.sha384 (imageBytes im 1612 152) == Config.fuseKeyHash
    && Config.signaturesOk (imageBytes im 0 4096)
    && (Config.sha384 (imageBytes im 4096 len)).toNat == bytesNum (imageBytes im 16 48)
    && decide (fuseSvn.toNat ≤ (imageSvn im).toNat)

/-- The slot the ROM runs: the preferred one, then the other (R351). -/
def Boot.choose (b : Boot) : Option Bool :=
  [b.prefB, !b.prefB].find? fun slot => imageOk (flashAt b.flash slot) b.fuseSvn

/-! ### Reset (R348, R349, R353) -/

/-- The entry of function 0 while the bring-up service runs: clusters 0 and 1, owner 0 in slot 0 (R353). -/
def bringUpVd : BitVec 2048 :=
  BitVec.ofNat 2048 (3 + (1 + 2 ^ 4) * 2 ^ (8 * 36) + Config.bringUpLq.toNat * 2 ^ (8 * 64))

/-- The entry of owner 0: cores 0.0.k and 0.1.k (R353). -/
def bringUpOwner : BitVec 4096 := BitVec.ofNat 4096 (2 ^ (8 * 17) + 0xFFFF * 2 ^ (8 * 256))

/-- The boot controller as step 1 of R349 begins: STATE 0. -/
def Boot.restart (b : Boot) : Boot :=
  { b with
    state := 0, hbmFail := 0, svn := 0, slotB := false, trained := 0, attempts := [], cxlBase := 0, cxlGiB := 0
    rcBase := 0, nonce := 0, attCmd := 0, attReq := 0, attAddr := 0, reports := 0, report := []
    meas := Vector.replicate 8 0, raise := false, resets := b.resets + 1 }

/-- Steps 2 and 3 of R349: STATE 2 under the first image accepted, whose firmware advances the boot counter (R354); or 14, where no
firmware runs (R351). The ROM extends M0 to M3: without an accepted image, M0 and M3. -/
def Boot.verified (b : Boot) : Boot :=
  match b.choose with
  | none =>
    let fuses := extendMeas 0 (Config.fuseBytes ++ numBytes b.fuseSvn.toNat 2)
    { b with state := 14, meas := (b.meas.setIfInBounds 0 (extendMeas 0 Config.romBytes)).setIfInBounds 3 fuses }
  | some slot =>
    let im := flashAt b.flash slot
    { b with
      state := 2, svn := imageSvn im, slotB := slot, raise := imageRaise im, bootCount := b.bootCount + 1
      meas := measured im b.fuseSvn }

/-- The module after a reset: STATE 0; what R348 keeps is kept, and with it the model's own fields. -/
def State.rebooted (s : State) : State :=
  { State.reset with
    agenda := s.agenda, freeCtr := s.freeCtr, moves := s.moves, choices := s.choices, nextId := s.nextId
    boot := s.boot.restart }

/-- An inbox or ready ring of a core of the bring-up service: of 2 to 1,024 records, above the fault region of an inbox and
within the plate, at a place the spec does not state (log 9). -/
def bringUpRingOf (n j : Nat) : Ring :=
  let k := 1 + (Config.bringUpRing n j).1 % 10
  { Ring.free with log2n := BitVec.ofNat 4 k, base := BitVec.ofNat 11 (64 + (Config.bringUpRing n j).2 % (1985 - 2 ^ k)) }

/-- A core of the bring-up service as it starts. -/
def Core.bringUp (n : Nat) : Core :=
  { Core.reset with
    ctx := some 0
    rings := (Core.reset.rings.setIfInBounds 0 (bringUpRingOf n 0)).setIfInBounds 1 (bringUpRingOf n 1) }

/-- The cores of the bring-up service. -/
def bringUpCores : List Nat := List.range 16

/-- The bring-up service starts, at 1.0 GHz (R353). -/
def State.serviceStarts (s : State) : State :=
  let b := s.boot
  let f : Func := { Func.reset b.resets 0 with
    entryNext := bringUpVd, entry := bringUpVd, entryPts := bringUpVd, slice := .running }
  let w : Owner := { Owner.reset b.resets 0 with
    entryNext := bringUpOwner, entry := bringUpOwner, entryPts := bringUpOwner, started := true }
  { s with cores := bringUpCores.map fun n => (n, Core.bringUp n), funcs := [(0, f)], owners := [(0, w)] }.setMhz 0 1000

/-- The ROM's steps (R349): STATE 0 to 1, and 1 to 2 or 14. -/
def State.romMove (s : State) : Option State :=
  if s.fatal then none
  else if s.boot.state = 0 then some { s with boot := { s.boot with state := 1 } }
  else if s.boot.state = 1 then
    let s := { s with boot := s.boot.verified }
    some (if s.boot.state = 2 then s.serviceStarts else s)
  else none

/-! ### HBM training and the switch-over (R353) -/

/-- Every stack has trained or failed: M4 is extended over HBMFAIL (R354). -/
def Boot.trainingEnds (b : Boot) : Boot :=
  if b.trained ||| b.hbmFail = 0xFF then { b with meas := measureTraining b.meas b.hbmFail } else b

/-- Training of a stack goes on: it has neither trained nor failed. -/
def Boot.training (b : Boot) (k : Nat) : Bool :=
  (b.state == 2 || b.state == 15) && !bitOf b.trained k && !bitOf b.hbmFail k

/-- HBM_TRAINING_DONE: with the last stack, STATE becomes 3 and the sequencer starts no further record. -/
def State.trainedMove (s : State) (k : Nat) : Option State :=
  let b := { s.boot with trained := s.boot.trained ||| BitVec.ofNat 8 (2 ^ k) }
  let s' : State := { s with boot := b.trainingEnds }
  onlyIf (s.boot.training k && !s.fatal)
    (if b.trained = 0xFF then
      (bringUpCores.foldl (fun (s : State) n => s.updCore n fun c => { c with stopped := true })
        { s' with boot := { s'.boot with state := 3 } }).setSlice 0 (.ending 0)
    else s')

/-- HBM_TRAINING_FAIL: an attempt fails; the third sets the stack's bit and STATE 15. -/
def State.trainingFailMove (s : State) (k : Nat) : Option State :=
  let n := Store.get 0 k s.boot.attempts + 1
  let b := { s.boot with attempts := Store.put k n s.boot.attempts }
  let b := if n = 3 then ({ b with hbmFail := b.hbmFail ||| BitVec.ofNat 8 (2 ^ k), state := 15 } : Boot).trainingEnds else b
  onlyIf (s.boot.training k && !s.fatal) { s with boot := b }

/-- Phases 1 and 2 of R330 have run on the service's clusters, and a record half-sent has sent what its inboxes take. -/
def State.serviceQuiet (s : State) : Bool :=
  !((s.func 0).sending.isSome && (s.launchMove 0).isSome)
    && bringUpCores.all fun n => (s.core n).quiet && s.drainedCore n

/-- Launch records queued at the switch-over, oldest first, and not started. -/
def State.queuedRecords (s : State) : List (BitVec 1024) :=
  let x := s.func 0
  let from_ := x.head.toNat + (if x.sending.isSome then 1 else 0)
  (List.range ((x.tail - x.head).toNat - (if x.sending.isSome then 1 else 0))).map fun i =>
    BitVec.ofNat 1024 (s.tableRead (Vd.lqBase x.entry + (from_ + i) % 2 ^ Vd.lqLog2 x.entry * 128) 128)

/-- Steps 2 to 5 of the switch-over (R353): once the clusters are quiet, the window is written to HBM4E, which the MSC of
stack 0 and C keep no line of any more; accesses held are performed; contexts are discarded; and records queued and not
started are rejected, each with a record and LVEC (R326). -/
def State.switchOver (s : State) : Option State :=
  let late := s.queuedRecords
  let t := (s.memC.map Prod.fst).foldl (fun s l => (s.writeBackLine l).dropLine l) s
  let t := { t with
    cores := [], clusters := [], copies := [], fills := [], merges := [], devMsgs := [], saved := [], lateLoads := []
    arrivals := [], breaks := [], traffic := []
    hostHeld := [], switched := true }.setMhz 0 3000
  let t := s.hostHeld.foldl (fun s (_, write, addr, v) => s.windowAccess write addr v) t
  let lvec := Vd.lvec (s.func 0).entry
  let t := late.foldl (fun s r =>
    (s.raiseVector 0 lvec).report 0x09 0 (some 0) 0 0 (BitVec.ofNat 64 (Launch.tag r)) (func := some 0)) t
  let t := t.updFunc 0 fun x => { x with head := x.tail, sending := none, slice := .off }
  onlyIf (s.boot.state == 3 && !s.switched && !s.fatal && s.serviceQuiet) t

/-- LINK_BRINGUP_DONE: after the switch-over, links and CXL are up, and STATE becomes 4 with every block as R356 gives it
(R349, R351, R355). The switch-over ends before: its records are written and its vectors raised. -/
def State.readyMove (s : State) : Option State :=
  let b := { s.boot with
    state := 4, rcBase := 0x7FE0000, cxlBase := cxlWindow.1, cxlGiB := cxlWindow.2
    fuseSvn := if s.boot.raise then s.boot.svn else s.boot.fuseSvn }
  onlyIf (s.boot.state == 3 && s.switched && !s.fatal && s.errs.isEmpty && (s.func 0).events.isEmpty)
    { State.reset with
      agenda := s.agenda, cur := s.cur, waited := s.waited, freeCtr := s.freeCtr, moves := s.moves, choices := s.choices
      nextId := s.nextId, coherence := s.coherence
      memB := s.memB, unitKey := s.unitKey, poisonB := s.poisonB, latent := s.latent, points := s.points
      funcs := [(0, { Func.reset b.resets 0 with sent := (s.func 0).sent })]
      islands := s.islands, pwrLim := s.pwrLim, pwrNow := s.pwrNow, capCnt := s.capCnt, corrected := s.corrected
      hostData := s.hostData, boot := b }

/-! ### Attestation and staging (R351, R354, R355) -/

/-- Bytes 0 to 455 of a report. -/
def Boot.signedBytes (b : Boot) : List Byte :=
  numBytes 0x54525054 4 ++ numBytes b.bootCount 4 ++ numBytes b.nonce.toNat 48
    ++ (b.meas.toList.flatMap fun m => numBytes m.toNat 48)
    ++ numBytes (b.svn.toNat + b.fuseSvn.toNat * 2 ^ 16 + (if b.slotB then 2 ^ 32 else 0) + b.hbmFail.toNat * 2 ^ 40) 8
    ++ numBytes (Config.firstReport + b.reports) 8

/-- ATTCMD = 1 (R354): the firmware writes the 4 KiB report to the host; without firmware, or once the keys are exhausted,
it refuses. -/
def Boot.attest (b : Boot) : Boot :=
  if b.reports < 1024 && b.state != 14 then
    { b with
      report := b.signedBytes ++ (List.range 3640).map fun i => (Config.reportTail b.resets b.signedBytes).getD i 0
      reports := b.reports + 1
      attCmd := 2 }
  else { b with attCmd := 3 }

/-- The image staged in the bring-up window, at physical address 0. -/
def State.staged (s : State) : Nat → Byte := s.bByte s.moduleKey

/-- ATTCMD = 4 (R351): a staged image that verifies is written to the slot PREF does not name, and PREF last. -/
def State.stage (s : State) : State :=
  let b := s.boot
  let im := s.staged
  if (b.state == 2 || b.state == 14 || b.state == 15) && imageOk im b.fuseSvn then
    let base := if b.prefB then 0 else 2 ^ 25
    let flash := (List.range (4096 + imageLength im)).foldl (fun l i => Store.put (base + i) (im i) l) b.flash
    { s with boot := { b with flash := flash, prefB := !b.prefB, attCmd := 2 } }
  else { s with boot := { b with attCmd := 3 } }

/-! ### The event rows -/

/-- COLD_RESET (R348, R349). -/
def execColdReset (s : State) : Outcome := .next s.rebooted
/-- WARM_RESET (R348): a write of RESETREQ; any other value is ignored. -/
def execWarmReset (v : BitVec 32) (s : State) : Outcome := .next (if v = 0x0A5A then s.rebooted else s)
/-- HBM_TRAINING_DONE (R353). -/
def execHbmTrainingDone (stack : BitVec 3) (s : State) : Outcome := event "HBM_TRAINING_DONE" (s.trainedMove stack.toNat)
/-- HBM_TRAINING_FAIL (R353). -/
def execHbmTrainingFail (stack : BitVec 3) (s : State) : Outcome := event "HBM_TRAINING_FAIL" (s.trainingFailMove stack.toNat)
/-- LINK_BRINGUP_DONE (R349). -/
def execLinkBringupDone (s : State) : Outcome := event "LINK_BRINGUP_DONE" s.readyMove
/-- ATTEST_REPORT (R354): the command of a write that ATTCMD reads as busy is carried out. -/
def execAttestReport (s : State) : Outcome :=
  event "ATTEST_REPORT" (onlyIf (s.boot.attCmd == 1 && s.boot.attReq == 1) { s with boot := s.boot.attest })
/-- STAGE_IMAGE (R351): likewise. -/
def execStageImage (s : State) : Outcome :=
  event "STAGE_IMAGE" (onlyIf (s.boot.attCmd == 1 && s.boot.attReq == 4) s.stage)

end Sys2Proof.Machine
end

