-- ==== Sys2Proof/Machine/Dispatch.lean ====
section
/-!
DEFINITION. The dispatch: one arm for each constructor of Instr, each a direct call of its meaning.
-/
namespace Sys2Proof.Machine

/-- What an instruction, or a move no word encodes, does to the module. -/
def exec (i : Instr) (s : State) : Host.Outcome State Fault Refusal :=
  match i with
  | .add64 gd d a b u => Sys2Proof.Machine.execAdd64 gd d a b u s
  | .sub64 gd d a b u => Sys2Proof.Machine.execSub64 gd d a b u s
  | .and64 gd d a b u => Sys2Proof.Machine.execAnd64 gd d a b u s
  | .or64 gd d a b u => Sys2Proof.Machine.execOr64 gd d a b u s
  | .xor64 gd d a b u => Sys2Proof.Machine.execXor64 gd d a b u s
  | .andn64 gd d a b u => Sys2Proof.Machine.execAndn64 gd d a b u s
  | .shl64 gd d a b u => Sys2Proof.Machine.execShl64 gd d a b u s
  | .shr64 gd d a b u => Sys2Proof.Machine.execShr64 gd d a b u s
  | .rotl64 gd d a b u => Sys2Proof.Machine.execRotl64 gd d a b u s
  | .rotr64 gd d a b u => Sys2Proof.Machine.execRotr64 gd d a b u s
  | .min64 gd d a b u => Sys2Proof.Machine.execMin64 gd d a b u s
  | .max64 gd d a b u => Sys2Proof.Machine.execMax64 gd d a b u s
  | .popc64 gd d a u => Sys2Proof.Machine.execPopc64 gd d a u s
  | .clz64 gd d a u => Sys2Proof.Machine.execClz64 gd d a u s
  | .ctz64 gd d a u => Sys2Proof.Machine.execCtz64 gd d a u s
  | .add32 gd d a b u => Sys2Proof.Machine.execAdd32 gd d a b u s
  | .sub32 gd d a b u => Sys2Proof.Machine.execSub32 gd d a b u s
  | .and32 gd d a b u => Sys2Proof.Machine.execAnd32 gd d a b u s
  | .or32 gd d a b u => Sys2Proof.Machine.execOr32 gd d a b u s
  | .xor32 gd d a b u => Sys2Proof.Machine.execXor32 gd d a b u s
  | .andn32 gd d a b u => Sys2Proof.Machine.execAndn32 gd d a b u s
  | .shl32 gd d a b u => Sys2Proof.Machine.execShl32 gd d a b u s
  | .shr32 gd d a b u => Sys2Proof.Machine.execShr32 gd d a b u s
  | .rotl32 gd d a b u => Sys2Proof.Machine.execRotl32 gd d a b u s
  | .rotr32 gd d a b u => Sys2Proof.Machine.execRotr32 gd d a b u s
  | .min32 gd d a b u => Sys2Proof.Machine.execMin32 gd d a b u s
  | .max32 gd d a b u => Sys2Proof.Machine.execMax32 gd d a b u s
  | .popc32 gd d a u => Sys2Proof.Machine.execPopc32 gd d a u s
  | .clz32 gd d a u => Sys2Proof.Machine.execClz32 gd d a u s
  | .ctz32 gd d a u => Sys2Proof.Machine.execCtz32 gd d a u s
  | .mul64 gd d a b u => Sys2Proof.Machine.execMul64 gd d a b u s
  | .mulh64 gd d a b u => Sys2Proof.Machine.execMulh64 gd d a b u s
  | .div64 gd d a b u => Sys2Proof.Machine.execDiv64 gd d a b u s
  | .rem64 gd d a b u => Sys2Proof.Machine.execRem64 gd d a b u s
  | .mul32 gd d a b u => Sys2Proof.Machine.execMul32 gd d a b u s
  | .mulh32 gd d a b u => Sys2Proof.Machine.execMulh32 gd d a b u s
  | .div32 gd d a b u => Sys2Proof.Machine.execDiv32 gd d a b u s
  | .rem32 gd d a b u => Sys2Proof.Machine.execRem32 gd d a b u s
  | .sel gd d a b c => Sys2Proof.Machine.execSel gd d a b c s
  | .addImm gd d a m => Sys2Proof.Machine.execAddImm gd d a m s
  | .shlImm gd d a n => Sys2Proof.Machine.execShlImm gd d a n s
  | .shrN64Imm gd d a n => Sys2Proof.Machine.execShrN64Imm gd d a n s
  | .shrI64Imm gd d a n => Sys2Proof.Machine.execShrI64Imm gd d a n s
  | .rotlImm gd d a n => Sys2Proof.Machine.execRotlImm gd d a n s
  | .andImm gd d a v => Sys2Proof.Machine.execAndImm gd d a v s
  | .orImm gd d a v => Sys2Proof.Machine.execOrImm gd d a v s
  | .xorImm gd d a v => Sys2Proof.Machine.execXorImm gd d a v s
  | .li gd d m => Sys2Proof.Machine.execLi gd d m s
  | .lsi gd d m => Sys2Proof.Machine.execLsi gd d m s
  | .cmp gd d a b u w c => Sys2Proof.Machine.execCmp gd d a b u w c s
  | .cmpImm gd d a c u v => Sys2Proof.Machine.execCmpImm gd d a c u v s
  | .pand gd d a b => Sys2Proof.Machine.execPand gd d a b s
  | .por gd d a b => Sys2Proof.Machine.execPor gd d a b s
  | .pxor gd d a b => Sys2Proof.Machine.execPxor gd d a b s
  | .pandn gd d a b => Sys2Proof.Machine.execPandn gd d a b s
  | .porn gd d a b => Sys2Proof.Machine.execPorn gd d a b s
  | .pnot gd d a => Sys2Proof.Machine.execPnot gd d a s
  | .pset gd d => Sys2Proof.Machine.execPset gd d s
  | .pclr gd d => Sys2Proof.Machine.execPclr gd d s
  | .pins gd d a b => Sys2Proof.Machine.execPins gd d a b s
  | .pext gd d a b => Sys2Proof.Machine.execPext gd d a b s
  | .pcnt gd d a => Sys2Proof.Machine.execPcnt gd d a s
  | .rdctl gd d n => Sys2Proof.Machine.execRdctl gd d n s
  | .wrctl gd d n => Sys2Proof.Machine.execWrctl gd d n s
  | .br gd o => Sys2Proof.Machine.execBr gd o s
  | .jal gd o => Sys2Proof.Machine.execJal gd o s
  | .jalr gd d a m => Sys2Proof.Machine.execJalr gd d a m s
  | .endH gd => Sys2Proof.Machine.execEndH gd s
  | .yieldH gd => Sys2Proof.Machine.execYieldH gd s
  | .ldB gd d b o => Sys2Proof.Machine.execLdB gd d b o s
  | .ldH gd d b o => Sys2Proof.Machine.execLdH gd d b o s
  | .ldW gd d b o => Sys2Proof.Machine.execLdW gd d b o s
  | .ldD gd d b o => Sys2Proof.Machine.execLdD gd d b o s
  | .ldBS gd d b o => Sys2Proof.Machine.execLdBS gd d b o s
  | .ldHS gd d b o => Sys2Proof.Machine.execLdHS gd d b o s
  | .ldWS gd d b o => Sys2Proof.Machine.execLdWS gd d b o s
  | .stB gd d b o => Sys2Proof.Machine.execStB gd d b o s
  | .stH gd d b o => Sys2Proof.Machine.execStH gd d b o s
  | .stW gd d b o => Sys2Proof.Machine.execStW gd d b o s
  | .stD gd d b o => Sys2Proof.Machine.execStD gd d b o s
  | .ldAcq gd d b z k => Sys2Proof.Machine.execLdAcq gd d b z k s
  | .stRel gd d b z k => Sys2Proof.Machine.execStRel gd d b z k s
  | .ldff gd d b z o => Sys2Proof.Machine.execLdff gd d b z o s
  | .ldfe gd d b z o => Sys2Proof.Machine.execLdfe gd d b z o s
  | .fet gd d b z o => Sys2Proof.Machine.execFet gd d b z o s
  | .stef gd d b z o => Sys2Proof.Machine.execStef gd d b z o s
  | .stxf gd d b z o => Sys2Proof.Machine.execStxf gd d b z o s
  | .stxe gd d b z o => Sys2Proof.Machine.execStxe gd d b z o s
  | .aswapD gd d a b => Sys2Proof.Machine.execAswapD gd d a b s
  | .acasD gd d a b => Sys2Proof.Machine.execAcasD gd d a b s
  | .aadd64 gd d a b => Sys2Proof.Machine.execAadd64 gd d a b s
  | .aandD gd d a b => Sys2Proof.Machine.execAandD gd d a b s
  | .aorD gd d a b => Sys2Proof.Machine.execAorD gd d a b s
  | .axorD gd d a b => Sys2Proof.Machine.execAxorD gd d a b s
  | .aminI64 gd d a b => Sys2Proof.Machine.execAminI64 gd d a b s
  | .amaxI64 gd d a b => Sys2Proof.Machine.execAmaxI64 gd d a b s
  | .aminN64 gd d a b => Sys2Proof.Machine.execAminN64 gd d a b s
  | .amaxN64 gd d a b => Sys2Proof.Machine.execAmaxN64 gd d a b s
  | .aadd32 gd d a b => Sys2Proof.Machine.execAadd32 gd d a b s
  | .aswapW gd d a b => Sys2Proof.Machine.execAswapW gd d a b s
  | .acasW gd d a b => Sys2Proof.Machine.execAcasW gd d a b s
  | .adecw gd d a b => Sys2Proof.Machine.execAdecw gd d a b s
  | .aaddF32 gd d a b => Sys2Proof.Machine.execAaddF32 gd d a b s
  | .aaddF64 gd d a b => Sys2Proof.Machine.execAaddF64 gd d a b s
  | .qadd64 gd a b => Sys2Proof.Machine.execQadd64 gd a b s
  | .qandD gd a b => Sys2Proof.Machine.execQandD gd a b s
  | .qorD gd a b => Sys2Proof.Machine.execQorD gd a b s
  | .qxorD gd a b => Sys2Proof.Machine.execQxorD gd a b s
  | .qminI64 gd a b => Sys2Proof.Machine.execQminI64 gd a b s
  | .qmaxI64 gd a b => Sys2Proof.Machine.execQmaxI64 gd a b s
  | .qminN64 gd a b => Sys2Proof.Machine.execQminN64 gd a b s
  | .qmaxN64 gd a b => Sys2Proof.Machine.execQmaxN64 gd a b s
  | .qadd32 gd a b => Sys2Proof.Machine.execQadd32 gd a b s
  | .qdecw gd a b => Sys2Proof.Machine.execQdecw gd a b s
  | .qaddF32 gd a b => Sys2Proof.Machine.execQaddF32 gd a b s
  | .qaddF64 gd a b => Sys2Proof.Machine.execQaddF64 gd a b s
  | .fence gd k => Sys2Proof.Machine.execFence gd k s
  | .fenceAll gd k => Sys2Proof.Machine.execFenceAll gd k s
  | .cleanRange gd a b => Sys2Proof.Machine.execCleanRange gd a b s
  | .invalRange gd a b => Sys2Proof.Machine.execInvalRange gd a b s
  | .flushRange gd a b => Sys2Proof.Machine.execFlushRange gd a b s
  | .icsync gd a b => Sys2Proof.Machine.execIcsync gd a b s
  | .icinvRange gd a b => Sys2Proof.Machine.execIcinvRange gd a b s
  | .send gd a b => Sys2Proof.Machine.execSend gd a b s
  | .rpush gd a b => Sys2Proof.Machine.execRpush gd a b s
  | .rpop gd d a b => Sys2Proof.Machine.execRpop gd d a b s
  | .rpeek gd d b => Sys2Proof.Machine.execRpeek gd d b s
  | .aldD gd a b => Sys2Proof.Machine.execAldD gd a b s
  | .vld gd d a z => Sys2Proof.Machine.execVld gd d a z s
  | .vlds gd d a b z => Sys2Proof.Machine.execVlds gd d a b z s
  | .vldx gd d a b z => Sys2Proof.Machine.execVldx gd d a b z s
  | .vst gd d a z => Sys2Proof.Machine.execVst gd d a z s
  | .vsts gd d a b z => Sys2Proof.Machine.execVsts gd d a b z s
  | .vstx gd d a b z => Sys2Proof.Machine.execVstx gd d a b z s
  | .vaddFp gd d a b f => Sys2Proof.Machine.execVaddFp gd d a b f s
  | .vsubFp gd d a b f => Sys2Proof.Machine.execVsubFp gd d a b f s
  | .vmulFp gd d a b f => Sys2Proof.Machine.execVmulFp gd d a b f s
  | .vdiv gd d a b f => Sys2Proof.Machine.execVdiv gd d a b f s
  | .vminFp gd d a b f => Sys2Proof.Machine.execVminFp gd d a b f s
  | .vmaxFp gd d a b f => Sys2Proof.Machine.execVmaxFp gd d a b f s
  | .vsqrt gd d a f => Sys2Proof.Machine.execVsqrt gd d a f s
  | .vabsFp gd d a f => Sys2Proof.Machine.execVabsFp gd d a f s
  | .vfma gd d a b c => Sys2Proof.Machine.execVfma gd d a b c s
  | .vaddInt gd d a b x => Sys2Proof.Machine.execVaddInt gd d a b x s
  | .vsubInt gd d a b x => Sys2Proof.Machine.execVsubInt gd d a b x s
  | .vmulInt gd d a b x => Sys2Proof.Machine.execVmulInt gd d a b x s
  | .vmulh gd d a b x => Sys2Proof.Machine.execVmulh gd d a b x s
  | .vminInt gd d a b x => Sys2Proof.Machine.execVminInt gd d a b x s
  | .vmaxInt gd d a b x => Sys2Proof.Machine.execVmaxInt gd d a b x s
  | .vand gd d a b x => Sys2Proof.Machine.execVand gd d a b x s
  | .vor gd d a b x => Sys2Proof.Machine.execVor gd d a b x s
  | .vxor gd d a b x => Sys2Proof.Machine.execVxor gd d a b x s
  | .vandn gd d a b x => Sys2Proof.Machine.execVandn gd d a b x s
  | .vshl gd d a b x => Sys2Proof.Machine.execVshl gd d a b x s
  | .vshr gd d a b x => Sys2Proof.Machine.execVshr gd d a b x s
  | .vrotl gd d a b x => Sys2Proof.Machine.execVrotl gd d a b x s
  | .vabsInt gd d a => Sys2Proof.Machine.execVabsInt gd d a s
  | .vadds gd d a b x => Sys2Proof.Machine.execVadds gd d a b x s
  | .vsubs gd d a b x => Sys2Proof.Machine.execVsubs gd d a b x s
  | .vcmp gd d a b x c => Sys2Proof.Machine.execVcmp gd d a b x c s
  | .vcvt gd d a b t => Sys2Proof.Machine.execVcvt gd d a b t s
  | .vcvn gd d a b t => Sys2Proof.Machine.execVcvn gd d a b t s
  | .vrsum gd d a => Sys2Proof.Machine.execVrsum gd d a s
  | .vrmin gd d a => Sys2Proof.Machine.execVrmin gd d a s
  | .vrmax gd d a => Sys2Proof.Machine.execVrmax gd d a s
  | .vrand gd d a => Sys2Proof.Machine.execVrand gd d a s
  | .vror gd d a => Sys2Proof.Machine.execVror gd d a s
  | .vrxor gd d a => Sys2Proof.Machine.execVrxor gd d a s
  | .vssum gd d a => Sys2Proof.Machine.execVssum gd d a s
  | .vsmin gd d a => Sys2Proof.Machine.execVsmin gd d a s
  | .vsmax gd d a => Sys2Proof.Machine.execVsmax gd d a s
  | .vsand gd d a => Sys2Proof.Machine.execVsand gd d a s
  | .vsor gd d a => Sys2Proof.Machine.execVsor gd d a s
  | .vsxor gd d a => Sys2Proof.Machine.execVsxor gd d a s
  | .vbcast gd d a => Sys2Proof.Machine.execVbcast gd d a s
  | .vslideup gd d a b => Sys2Proof.Machine.execVslideup gd d a b s
  | .vslidedn gd d a b => Sys2Proof.Machine.execVslidedn gd d a b s
  | .vperm gd d a b => Sys2Proof.Machine.execVperm gd d a b s
  | .vmov gd d a => Sys2Proof.Machine.execVmov gd d a s
  | .vext gd d a b => Sys2Proof.Machine.execVext gd d a b s
  | .vins gd d a b => Sys2Proof.Machine.execVins gd d a b s
  | .vpack6 gd d a b => Sys2Proof.Machine.execVpack6 gd d a b s
  | .vunp6 gd d a b => Sys2Proof.Machine.execVunp6 gd d a b s
  | .vpack4 gd d a => Sys2Proof.Machine.execVpack4 gd d a s
  | .vunp4 gd d a => Sys2Proof.Machine.execVunp4 gd d a s
  | .vidx gd d => Sys2Proof.Machine.execVidx gd d s
  | .fmtld gd d a => Sys2Proof.Machine.execFmtld gd d a s
  | .fmtrd gd d a => Sys2Proof.Machine.execFmtrd gd d a s
  | .vrcp gd d a f => Sys2Proof.Machine.execVrcp gd d a f s
  | .vrsqrt gd d a f => Sys2Proof.Machine.execVrsqrt gd d a f s
  | .vexp2 gd d a f => Sys2Proof.Machine.execVexp2 gd d a f s
  | .vlog2 gd d a f => Sys2Proof.Machine.execVlog2 gd d a f s
  | .claim gd d a n => Sys2Proof.Machine.execClaim gd d a n s
  | .vrelease gd d a n => Sys2Proof.Machine.execVrelease gd d a n s
  | .mjob gd d a => Sys2Proof.Machine.execMjob gd d a s
  | .cjob gd d a => Sys2Proof.Machine.execCjob gd d a s
  | .coll gd d a => Sys2Proof.Machine.execColl gd d a s
  | .jcancel gd a => Sys2Proof.Machine.execJcancel gd a s
  | .jpoll gd d a => Sys2Proof.Machine.execJpoll gd d a s
  | .jwait gd d a => Sys2Proof.Machine.execJwait gd d a s
  | .subs gd d a => Sys2Proof.Machine.execSubs gd d a s
  | .rack gd d a => Sys2Proof.Machine.execRack gd d a s
  | .unsubs gd a => Sys2Proof.Machine.execUnsubs gd a s
  | .unrack gd a => Sys2Proof.Machine.execUnrack gd a s
  | .aclr gd a => Sys2Proof.Machine.execAclr gd a s
  | .ardr gd d a b => Sys2Proof.Machine.execArdr gd d a b s
  | .awrr gd d a b => Sys2Proof.Machine.execAwrr gd d a b s
  | .wclr gd t a => Sys2Proof.Machine.execWclr gd t a s
  | .wld gd t a b => Sys2Proof.Machine.execWld gd t a b s
  | .wldv gd t a b => Sys2Proof.Machine.execWldv gd t a b s
  | .wset gd t a b => Sys2Proof.Machine.execWset gd t a b s
  | .wadd gd t a b => Sys2Proof.Machine.execWadd gd t a b s
  | .wexp gd t a => Sys2Proof.Machine.execWexp gd t a s
  | .wcut gd t a => Sys2Proof.Machine.execWcut gd t a s
  | .wuncut gd t a => Sys2Proof.Machine.execWuncut gd t a s
  | .wget gd d t b => Sys2Proof.Machine.execWget gd d t b s
  | .wsum gd d t => Sys2Proof.Machine.execWsum gd d t s
  | .wpre gd d t b => Sys2Proof.Machine.execWpre gd d t b s
  | .wfind gd d t b => Sys2Proof.Machine.execWfind gd d t b s
  | .wseq gd d t => Sys2Proof.Machine.execWseq gd d t s
  | .wst gd d t b => Sys2Proof.Machine.execWst gd d t b s
  | .rnd gd d => Sys2Proof.Machine.execRnd gd d s
  | .rndV gd d => Sys2Proof.Machine.execRndV gd d s
  | .pdrop gd d a => Sys2Proof.Machine.execPdrop gd d a s
  | .wdraw gd d t => Sys2Proof.Machine.execWdraw gd d t s
  | .splice gd a b => Sys2Proof.Machine.execSplice gd a b s
  | .rbind gd a b => Sys2Proof.Machine.execRbind gd a b s
  | .runbind gd b => Sys2Proof.Machine.execRunbind gd b s
  | .trap gd n => Sys2Proof.Machine.execTrap gd n s
  | .reseedPlace gd => Sys2Proof.Machine.execReseedPlace gd s
  | .plprobe gd d a b => Sys2Proof.Machine.execPlprobe gd d a b s
  | .excq gd a b => Sys2Proof.Machine.execExcq gd a b s
  | .rft gd => Sys2Proof.Machine.execRft gd s
  | .tinv gd a b => Sys2Proof.Machine.execTinv gd a b s
  | .aspill gd a => Sys2Proof.Machine.execAspill gd a s
  | .atag gd a b => Sys2Proof.Machine.execAtag gd a b s
  | .wspill gd a => Sys2Proof.Machine.execWspill gd a s
  | .wtag gd a b => Sys2Proof.Machine.execWtag gd a b s
  | .keyld gd a b => Sys2Proof.Machine.execKeyld gd a b s
  | .saltld gd a b => Sys2Proof.Machine.execSaltld gd a b s
  | .immx p => Sys2Proof.Machine.execImmx p s
  | .rmode p => Sys2Proof.Machine.execRmode p s
  | .cpol p => Sys2Proof.Machine.execCpol p s
  | .order p => Sys2Proof.Machine.execOrder p s
  | .etype p => Sys2Proof.Machine.execEtype p s
  | .dispatch n => Sys2Proof.Machine.execDispatch n s
  | .issue n => Sys2Proof.Machine.execIssue n s
  | .forward n load store => Sys2Proof.Machine.execForward n load store s
  | .fill g o line => Sys2Proof.Machine.execFill g o line s
  | .performLoad n id => Sys2Proof.Machine.execPerformLoad n id s
  | .performStore n id => Sys2Proof.Machine.execPerformStore n id s
  | .writeBack line => Sys2Proof.Machine.execWriteBack line s
  | .drop line => Sys2Proof.Machine.execDrop line s
  | .fencePerformed n id => Sys2Proof.Machine.execFencePerformed n id s
  | .decrementAndWake n id => Sys2Proof.Machine.execDecrementAndWake n id s
  | .readyPushAccept n => Sys2Proof.Machine.execReadyPushAccept n s
  | .mergeWindowExpire die o line => Sys2Proof.Machine.execMergeWindowExpire die o line s
  | .fillReply die o line => Sys2Proof.Machine.execFillReply die o line s
  | .windowLoadReply n => Sys2Proof.Machine.execWindowLoadReply n s
  | .asyncLoadReply n id => Sys2Proof.Machine.execAsyncLoadReply n id s
  | .watchdog n => Sys2Proof.Machine.execWatchdog n s
  | .clockGate n => Sys2Proof.Machine.execClockGate n s
  | .powerGate n => Sys2Proof.Machine.execPowerGate n s
  | .coreWake n => Sys2Proof.Machine.execCoreWake n s
  | .hangReport n => Sys2Proof.Machine.execHangReport n s
  | .deadlockScan die => Sys2Proof.Machine.execDeadlockScan die s
  | .trapEntry n => Sys2Proof.Machine.execTrapEntry n s
  | .supCycleLimit n => Sys2Proof.Machine.execSupCycleLimit n s
  | .launchTailWrite f v => Sys2Proof.Machine.execLaunchTailWrite f v s
  | .launchRecord f => Sys2Proof.Machine.execLaunchRecord f s
  | .tileReconfigure n t v => Sys2Proof.Machine.execTileReconfigure n t v s
  | .tileRelease n t => Sys2Proof.Machine.execTileRelease n t s
  | .tilePublish n t => Sys2Proof.Machine.execTilePublish n t s
  | .tileCmdNop n t c => Sys2Proof.Machine.execTileCmdNop n t c s
  | .steepFillStart n h => Sys2Proof.Machine.execSteepFillStart n h s
  | .steepUnitComplete n h => Sys2Proof.Machine.execSteepUnitComplete n h s
  | .steepRecordAppend n h => Sys2Proof.Machine.execSteepRecordAppend n h s
  | .rackDrainStart n h => Sys2Proof.Machine.execRackDrainStart n h s
  | .rackUnitComplete n h => Sys2Proof.Machine.execRackUnitComplete n h s
  | .rackRecordWrite n h => Sys2Proof.Machine.execRackRecordWrite n h s
  | .rackAckReread n h => Sys2Proof.Machine.execRackAckReread n h s
  | .ringForward n j => Sys2Proof.Machine.execRingForward n j s
  | .spliceApply n j => Sys2Proof.Machine.execSpliceApply n j s
  | .stateTransferRun n => Sys2Proof.Machine.execStateTransferRun n s
  | .alignmentTimeout n j => Sys2Proof.Machine.execAlignmentTimeout n j s
  | .jobStart g copyUnit => Sys2Proof.Machine.execJobStart g copyUnit s
  | .matrixRowCommit g e => Sys2Proof.Machine.execMatrixRowCommit g e s
  | .copyElement g e => Sys2Proof.Machine.execCopyElement g e s
  | .bankOpElement g e => Sys2Proof.Machine.execBankOpElement g e s
  | .jobSuspend g e => Sys2Proof.Machine.execJobSuspend g e s
  | .jobComplete g e => Sys2Proof.Machine.execJobComplete g e s
  | .wakeMessageDelivery g e => Sys2Proof.Machine.execWakeMessageDelivery g e s
  | .collectiveComplete g e => Sys2Proof.Machine.execCollectiveComplete g e s
  | .collectiveTimeout g e => Sys2Proof.Machine.execCollectiveTimeout g e s
  | .arbitrationSlot cls inst => Sys2Proof.Machine.execArbitrationSlot cls inst s
  | .arbKeyUpdate cls inst o => Sys2Proof.Machine.execArbKeyUpdate cls inst o s
  | .placementEpochStart o => Sys2Proof.Machine.execPlacementEpochStart o s
  | .sweepSetVisit o inst => Sys2Proof.Machine.execSweepSetVisit o inst s
  | .throttleWindowExpire o row => Sys2Proof.Machine.execThrottleWindowExpire o row s
  | .limiterRefill o cls inst => Sys2Proof.Machine.execLimiterRefill o cls inst s
  | .hbmRefresh inst => Sys2Proof.Machine.execHbmRefresh inst s
  | .linkRetrain cls inst => Sys2Proof.Machine.execLinkRetrain cls inst s
  | .frequencyChange island mhz => Sys2Proof.Machine.execFrequencyChange island mhz s
  | .faultRecordWrite o => Sys2Proof.Machine.execFaultRecordWrite o s
  | .faultReplyReplay f slot tag => Sys2Proof.Machine.execFaultReplyReplay f slot tag s
  | .faultReplyReject f slot tag => Sys2Proof.Machine.execFaultReplyReject f slot tag s
  | .tinvComplete n => Sys2Proof.Machine.execTinvComplete n s
  | .icinvComplete n => Sys2Proof.Machine.execIcinvComplete n s
  | .keyldComplete n => Sys2Proof.Machine.execKeyldComplete n s
  | .commitVdEntry f => Sys2Proof.Machine.execCommitVdEntry f s
  | .commitOwnerEntry o => Sys2Proof.Machine.execCommitOwnerEntry o s
  | .commitPropagate => Sys2Proof.Machine.execCommitPropagate s
  | .ownerRetirement o => Sys2Proof.Machine.execOwnerRetirement o s
  | .scheduleEnable nrm1 => Sys2Proof.Machine.execScheduleEnable nrm1 s
  | .scheduleDisable => Sys2Proof.Machine.execScheduleDisable s
  | .roundEnd f => Sys2Proof.Machine.execRoundEnd f s
  | .sliceQuiesce f => Sys2Proof.Machine.execSliceQuiesce f s
  | .sliceDrain f => Sys2Proof.Machine.execSliceDrain f s
  | .sliceSave f => Sys2Proof.Machine.execSliceSave f s
  | .sliceSwitch f => Sys2Proof.Machine.execSliceSwitch f s
  | .restore f => Sys2Proof.Machine.execRestore f s
  | .savedInboxEntry m => Sys2Proof.Machine.execSavedInboxEntry m s
  | .interruptSend f v => Sys2Proof.Machine.execInterruptSend f v s
  | .coalesceTimeout f v => Sys2Proof.Machine.execCoalesceTimeout f v s
  | .errorLogRecord => Sys2Proof.Machine.execErrorLogRecord s
  | .flitCheckFail cls inst header o n => Sys2Proof.Machine.execFlitCheckFail cls inst header o n s
  | .moduleFatal code => Sys2Proof.Machine.execModuleFatal code s
  | .hostPortAccess f write addr v => Sys2Proof.Machine.execHostPortAccess f write addr v s
  | .coldReset => Sys2Proof.Machine.execColdReset s
  | .warmReset v => Sys2Proof.Machine.execWarmReset v s
  | .hbmTrainingDone stack => Sys2Proof.Machine.execHbmTrainingDone stack s
  | .hbmTrainingFail stack => Sys2Proof.Machine.execHbmTrainingFail stack s
  | .linkBringupDone => Sys2Proof.Machine.execLinkBringupDone s
  | .attestReport => Sys2Proof.Machine.execAttestReport s
  | .stageImage => Sys2Proof.Machine.execStageImage s
  | .powerCheck => Sys2Proof.Machine.execPowerCheck s
  | .pwrlimWrite v => Sys2Proof.Machine.execPwrlimWrite v s
  | .capcntClear => Sys2Proof.Machine.execCapcntClear s
  | .telemetryRefresh => Sys2Proof.Machine.execTelemetryRefresh s
  | .correctedCounterClear code => Sys2Proof.Machine.execCorrectedCounterClear code s
  | .thermalThrottle island => Sys2Proof.Machine.execThermalThrottle island s
  | .registerWrite f off v => Sys2Proof.Machine.execRegisterWrite f off v s
  | .collectiveMove g e => Sys2Proof.Machine.execCollectiveMove g e s
  | .vectorUnmask f v => Sys2Proof.Machine.execVectorUnmask f v s
  | .retrainingComplete cls inst => Sys2Proof.Machine.execRetrainingComplete cls inst s

end Sys2Proof.Machine
end

