-- ==== Sys2Proof/Machine/Moves.lean ====
section
/-!
DEFINITION. Which move comes next, and what every step adds to it (log 3, 4): the agenda of moves asked for, the moves made
while it is empty, the passing of cycles (spec/00_scope.md R7; R42, R44, R143, R278), and the placing of an instruction word
for the host (log 2).
-/
namespace Sys2Proof.Machine

/-! ### Cycles -/

/-- Cycles of island `i` that pass at a step: one, and whatever else passes (R7; log 4). -/
def State.delta (s : State) (i : Nat) : Nat := 1 + Config.elapsed s.moves i

/-- Cycles pass at a blocked core: RESID, saturating (R44). -/
def Hold.tick (d : Nat) : Hold → Hold
  | .blocked b => .blocked { b with resid := min (b.resid + d) (2 ^ 43 - 1) }
  | h => h

/-- The cycles count for the watchdog: not while blocked, pre-empted or stalled on a page (R42, R311). -/
def Core.counts (c : Core) : Bool :=
  match c.hold with
  | .blocked _ => false
  | .fault => false
  | _ => !c.blk

/-- Cycles pass at a core: its handler's count, the supervisor's, and HWAIT of halted rings (R42, R143, R278). -/
def Core.tick (d : Nat) (c : Core) : Core :=
  { c with
    hold := c.hold.tick d
    handler := if c.counts && !c.sup then c.handler.map fun h => { h with count := min (h.count + d) (2 ^ 31 - 1) }
      else c.handler
    supCount := if c.counts && c.sup then c.supCount + d else c.supCount
    calm := if c.idles || c.jwaits then c.calm + d else 0
    rings := c.rings.map fun (r : Ring) =>
      if r.halt then { r with hwait := BitVec.ofNat 32 (min (r.hwait.toNat + d) (2 ^ 32 - 1)) } else r }

/-- Structure codes of R336 that name a structure. -/
def structCodes : List Nat := (List.range 0x15).filter fun c => c < 0xA || 0x10 ≤ c

/-- The corrections of a step are counted, saturating (R361; log 24). -/
def State.counted (s : State) : Store Word :=
  structCodes.foldl (fun l c =>
    Store.put c (BitVec.ofNat 64 (min ((Store.get 0 c l).toNat + Config.corrections s.moves c) (2 ^ 64 - 1))) l) s.corrected

/-- The corrections of a step come before the move of the step: a write that clears a counter there loses them (R361). -/
def State.correct (s : State) : State := { s with corrected := s.counted }

/-- Cycles pass on every island. -/
def State.tick (s : State) : State :=
  let s' := (List.range 48).foldl (fun (t : State) i =>
    t.updIsland i fun x => { x with cycles := x.cycles + BitVec.ofNat 64 (s.delta i) }) s
  { s' with
    cores := s'.cores.map fun ((n, c) : Nat × Core) => (n, c.tick (s.delta (islandOf n)))
    moves := s.moves + 1 }

/-- The cycles of a step pass in the state it leads to. -/
def ticked : Outcome → Outcome
  | .next s => .next s.tick
  | o => o

/-! ### The moves asked for -/

/-- Make one move of the agenda: ISSUE runs what stands at the core's pc; a word is no move of its own (log 3). -/
def State.agendaMove (i : Instr) (s : State) : Outcome :=
  if i.hasWord then .refused (.notEnabled "ISSUE") else exec i s

/-! ### The moves made while the agenda is empty (log 3) -/

/-- The first move that a list of candidates offers. -/
def firstMove {α : Type} (l : List α) (f : α → Option State) : Option State := l.findSome? f

/-- The keys of a table. -/
def keysOf {α : Type} (l : Store α) : List Nat := l.map Prod.fst

/-- A trap or report of core `n` that its counts make due, and its gating (R42, R43, R45, R278). -/
def State.dueMove (s : State) (n : Nat) : Option State :=
  s.watchdogMove n <|> s.supLimitMove n <|> s.hangMove n <|> s.gateMove n 1 2 256 <|> s.gateMove n 2 3 65536

/-- Moves of the ordering machine. -/
def State.memoryMoves (s : State) : Option State :=
  firstMove s.cores (fun (n, c) => firstMove c.pend fun a => s.performMove n a.id fun _ => true)
    <|> firstMove s.lateLoads (fun x => s.asyncMove x.1 x.2.1.id)
    <|> firstMove s.merges (fun m => s.fillReply m.die m.owner m.line)
    <|> firstMove (keysOf s.cores) fun n =>
      s.windowReply n <|> s.readyAccept n <|> s.wakeMove n <|> s.tinvDone n <|> s.icinvDone n <|> s.keyldDone n

/-- A slot of a point with a present request. -/
def State.slotIf (s : State) (k i : Nat) : Option State :=
  if ((s.arrive k i).requests k i).any Prod.snd then s.slotMove k i else none

/-- The points that requests on their way are to pass next. -/
def State.pointsAhead (s : State) : List (Nat × Nat) :=
  s.cores.flatMap (fun (_, c) => c.pend.filterMap fun a => a.path.head?)
    ++ (s.lateLoads.filterMap fun x => x.2.1.path.head?) ++ s.traffic.filterMap fun x => x.path.head?

/-- Grants of the lane pools, job queues and plate ports, and of the points on the way of requests. -/
def State.lotteryMoves (s : State) : Option State :=
  firstMove (keysOf s.clusters) (fun g => s.slotIf 5 g <|> s.slotIf 6 g) <|> firstMove (keysOf s.cores) (s.slotIf 9)
    <|> firstMove s.pointsAhead fun p => s.slotIf p.1 p.2

/-- Moves of the dispatchers and the ring engines. -/
def State.dispatchMoves (s : State) : Option State :=
  firstMove (keysOf s.cores) fun n =>
    (if s.canTransfer n then some (s.transferNow n) else none)
      <|> (if s.canDispatch n then some (s.dispatchNow n) else none)
      <|> firstMove (List.range 16) (fun j => s.spliceMove n j <|> s.engineMove n j <|> s.alignNow n j)

/-- Moves of the engines of the clusters. -/
def State.engineMoves (s : State) : Option State :=
  firstMove (keysOf s.clusters) fun g =>
    s.startMove g false <|> s.startMove g true
      <|> firstMove (List.range 32) fun e =>
        s.rowMove g e <|> s.copyMove g e false <|> s.copyMove g e true <|> s.suspendMove g e <|> s.completeMove g e
          <|> s.wakeMsgMove g e <|> s.collMove g e <|> s.collComplete g e

/-- Moves of the steeps and racks; a rack reads its consumer's count again while it is full. -/
def State.agentMoves (s : State) : Option State :=
  firstMove s.cores fun (n, c) => firstMove c.flights (s.flightDone n) <|> firstMove c.agents fun (h, a) =>
    s.steepAppend n h <|> s.fillStart n h <|> s.fillUnit n h <|> s.drainStart n h <|> s.drainUnit n h <|> s.rackWrite n h
      <|> (if a.full then s.rackAck n h else none)

/-- Moves of a virtual device's slice end and of its next restore (R329, R330, R333). -/
def State.sliceMoves (s : State) (f : Nat) : Option State :=
  match (s.func f).slice with
  | .running => none
  | .off => s.restoreMove f
  | .ending 0 => s.quiesceMove f
  | .ending 1 => s.drainMove f
  | .ending 2 => s.saveMove f
  | .ending _ => s.switchMove f

/-- Moves of the services: placement epochs, messages, fault records, logs, interrupts, launches, slices. -/
def State.serviceMoves (s : State) : Option State :=
  firstMove (keysOf s.owners) s.epochMove
    <|> firstMove (List.range s.devMsgs.length) s.savedInbox
    <|> firstMove (keysOf s.owners) s.faultWrite
    <|> s.logMove
    <|> firstMove s.funcs (fun (f, x) => firstMove (keysOf x.events) (s.interruptMove f))
    <|> firstMove (keysOf s.funcs) s.launchMove
    <|> firstMove (keysOf s.funcs) s.sliceMoves
    <|> (if s.mayStop then some s.stopIfIdle else none)

/-- Moves of ROM and firmware: the boot sequence, commands of ATTCMD, changes of clock (R349, R353 to R355, R358). -/
def State.firmwareMoves (s : State) : Option State :=
  s.romMove <|> s.switchOver
    <|> (if s.boot.attCmd = 1 then
      if s.boot.attReq = 1 then some { s with boot := s.boot.attest } else if s.boot.attReq = 4 then some s.stage else none
      else none)
    <|> firstMove (List.range 32) fun j => s.frequencyMove j (s.island j).want.toNat

/-- The next visit of a sweep in progress: the first instance with a set to visit (R120). -/
def State.sweepMoves (s : State) : Option State :=
  firstMove s.owners fun (o, w) =>
    match w.sweep with
    | some x => s.sweepMove o (firstIndex (fun i => decide (Store.get 0 i x.next < instanceSets x.phase)) 256)
    | none => none

/-- The next core after `cur` that may issue becomes the issuing core. -/
def State.rotate (s : State) : Option State :=
  let l := (keysOf s.cores).filter fun n => n != s.cur && s.canIssue n
  match (l.filter fun n => s.cur < n) ++ l with
  | n :: _ => some { s with cur := n }
  | [] => none

/-- The monitors scan for deadlocks while a core is blocked (R46). -/
def State.scanMove (s : State) : Option State :=
  if s.cores.any fun (n, _) => !(s.waitsOn n).isEmpty then s.deadlockMove (s.moves % 4) else none

/-- One move other than an issue; the machine idles when there is none. -/
def State.otherMove (s : State) : State :=
  let turn : Option State :=
    match s.moves / 8 % 8 with
    | 0 => s.rotate
    | 1 => s.scanMove
    | 2 => s.sweepMoves
    | _ => none
  (firstMove (keysOf s.cores) s.dueMove <|> turn <|> s.memoryMoves <|> s.lotteryMoves <|> s.dispatchMoves <|> s.engineMoves
    <|> s.agentMoves <|> s.serviceMoves <|> s.firmwareMoves <|> s.rotate <|> s.sweepMoves <|> s.scanMove).getD s

/-- After an issue another move comes first when the word stalled, and every eighth step. -/
def State.issued (s t : State) : State :=
  let c := s.core s.cur
  let d := t.core s.cur
  { t with waited := (decide (c.pc = d.pc) && decide (c.hints = d.hints)) || s.moves % 8 == 7 }

/-- The state after an issue, marked. -/
def markIssued (s : State) : Outcome → Outcome
  | .next t => .next (s.issued t)
  | o => o

/-- The move made while the agenda is empty. -/
def State.ownMove (s : State) : Outcome :=
  if s.canIssue s.cur && !s.waited then markIssued s s.issueWord
  else .next { s with waited := false }.otherMove

/-- One step of the module: errors are corrected, then comes the first move of the agenda, or the machine's own, and cycles pass. -/
def State.advance (s : State) : Outcome :=
  ticked (match s.agenda with
    | i :: rest => State.agendaMove i { s.correct with agenda := rest }
    | [] => s.correct.ownMove)

/-! ### Placing an instruction (log 2) -/

/-- The leaf of an executable page that maps its virtual page to the frame at `frame`. -/
def placedLeaf (frame : Nat) : Word := BitVec.ofNat 64 (frame + 0x13)

/-- The core that runs a placed word: between chains, in a handler, with nothing outstanding, its pc in main memory. -/
def Core.placed (c : Core) (pc frame : Nat) : Core :=
  { c with
    ctx := some c.own
    handler := some { c.handler.getD ⟨0, 0, 0, 0, 0, false, none, [], 0, 0⟩ with limit := 2 ^ 22, count := 0 }
    supCount := 0, hold := .none, hints := [], pending := none, pend := [], gathers := [], blk := false, icache := []
    ahead := [], pushRec := none, begun := false, rangeAt := 0, ir := 0
    pc := BitVec.ofNat 64 pc
    tlb := ⟨c.own, c.sup, pc / 4096, 12, placedLeaf frame⟩ ::
      c.tlb.filter fun t => !(t.sup == c.sup && t.owner == c.own && pc / 2 ^ t.shift == t.page) }

/-- The pc at which a placed word stands: the core's own, as far as it lies in main memory and names a word. -/
def placedPc (pc : Word) : Nat := pc.toNat % 2 ^ 51 / 4 * 4

/-- `s` with the word `w` where core `cur` issues next, and nothing asked for before it. -/
def State.placeWord (s : State) (w : Code) : State :=
  let c := s.core s.cur
  let pc := placedPc c.pc
  let frame := pc / 4096 % 2 ^ 27 * 4096
  let pa := frame + pc % 4096
  let s := (s.setCore s.cur (c.placed pc frame)).unclaim s.cur
  let s := { s with
    agenda := [], waited := false
    memC := Store.del (pa / 128) s.memC
    poisonB := Store.del (pa / 128) s.poisonB
    latent := s.latent.filter (· != pa / 128) }
  s.bWrite (s.keyFor c.own c.sup) w pa 4

end Sys2Proof.Machine
end

