-- ==== Sys2Proof/Machine/Step.lean ====
section
/-!
DEFINITION. One step of the module, and the state with an instruction placed where the next step runs it.
-/
namespace Sys2Proof.Machine

/-- One step (log 3). -/
def step (s : State) : Host.Outcome State Fault Refusal := s.advance

/-- `s` with the instruction whose word is the low 32 bits of `w` where `step` fetches next (R148; log 2): every
instruction of the part is one 32-bit word. -/
def State.withFetchWord (s : State) (_nbits w : Nat) : State := s.placeWord (BitVec.ofNat 32 w)

end Sys2Proof.Machine
end

