-- ==== Sys2Proof/Safety.lean ====
section
/-!
DEFINITION. What claims call a sound state and a safe run: the canonical form of the byte memories, and the values that
registers of the boot controller and of power management may hold (spec/26_boot_and_bring_up.md R355,
spec/27_fleet_operation.md R359).
-/
namespace Sys2Proof.Machine

/-- Image B is in canonical form. -/
def State.memoryWf (s : State) : Bool := Memory.wf bMem s.memB

/-- The plate of core `n` is in canonical form. -/
def State.plateWf (s : State) (n : Nat) : Bool := Memory.wf zeroMem (s.core n).plate

/-- The accumulator tiles of cluster `g` are in canonical form. -/
def State.accWf (s : State) (g : Nat) : Bool := Memory.wf zeroMem (s.cluster g).acc

/-- BOOT.STATE is one of the values R355 lists, and PWRLIM within its limits (R359). -/
def State.registersLegal (s : State) : Bool :=
  [0, 1, 2, 3, 4, 14, 15].contains s.boot.state && decide (600 ≤ s.pwrLim.toNat) && decide (s.pwrLim.toNat ≤ 2000)

/-- The issuing core goes on at the next word, and its chain is over (R80, R156). -/
def State.nextWord (t : State) (n : Nat) : State := t.updCore n fun c => { c with pc := c.pc + 4, hints := [], begun := false }

/-- The encoded instruction `i` completes with the effect `t`: the core then goes on at the next word. -/
def Completes (i : Instr) (s t : State) : Prop := exec i s = .next (t.nextWord s.cur)

/-- The encoded instruction `i` goes on at `pc` with the effect `t`; the words fetched ahead are discarded (R94). -/
def JumpsTo (i : Instr) (s t : State) (pc : Word) : Prop :=
  exec i s = .next (t.updCore s.cur fun c => { c with pc := pc, hints := [], ahead := [], begun := false })

/-- The encoded instruction `i` takes a trap at the first word of its chain and does nothing else (R156, R277); a slot it was woken
with is given up. -/
def Traps (i : Instr) (s : State) (cause : BitVec 8) (info : Word) : Prop :=
  exec i s = .next ((s.giveUp s.cur).takeTrap s.cur cause info (s.core s.cur).chainStart)

/-- The issuing core. -/
def State.me (s : State) : Core := s.core s.cur

/-- `s` with the registers of the issuing core changed. -/
def State.regs (s : State) (f : Core → Core) : State := s.updCore s.cur f

/-- Nothing older of the issuing core is outstanding: no access, no load, no waiting trap. -/
def State.quiet (s : State) : Prop := s.me.pend = [] ∧ s.me.gathers = [] ∧ s.me.pending = none

/-- A run is safe when no step of it ends in a fault. -/
def safe (o : Host.Outcome State Fault Refusal) : Prop := ∀ r, o ≠ .fault r

end Sys2Proof.Machine
end

