-- ==== Sys2Proof/Certificates/Slice0/Obligations.lean ====
section
/-!
DEFINITION. What is claimed of the model, in the order of the spec's chapters; the forms a claim ranges over are tables
written from the spec's own (namespace Claims).
-/
namespace Sys2Proof.Claims
open Sys2Proof.Machine

/-! ### Integer instructions (R174 to R177) -/

/-- The signed reading of `v` at width `w`. -/
def signed (w v : Nat) : Int := if 2 ^ (w - 1) ≤ v then (v : Int) - 2 ^ w else v

/-- z of R174 for operation `op` at width `w`, from the unsigned readings `x` and `y`. -/
def intResult (w op u x y : Nat) : Nat :=
  let c := y % w
  let less (p q : Nat) : Bool := if u = 1 then decide (p < q) else decide (signed w p < signed w q)
  match op with
  | 0 => (x + y) % 2 ^ w
  | 1 => (x + 2 ^ w - y) % 2 ^ w
  | 2 => x &&& y
  | 3 => x ||| y
  | 4 => x ^^^ y
  | 5 => x &&& (2 ^ w - 1 - y)
  | 6 => x * 2 ^ c % 2 ^ w
  | 7 => if u = 1 then x / 2 ^ c else (signed w x / 2 ^ c % 2 ^ w).toNat
  | 8 => (x * 2 ^ c + x / 2 ^ (w - c)) % 2 ^ w
  | 9 => (x / 2 ^ c + x * 2 ^ (w - c)) % 2 ^ w
  | 10 => if less y x then y else x
  | 11 => if less x y then y else x
  | 12 => ((List.range w).filter x.testBit).length
  | 13 => if x = 0 then w else w - x.log2 - 1
  | _ => ((List.range w).find? x.testBit).getD w

/-- z of R175: `op` 0 mul, 1 mulh, 2 div, 3 rem, from the unsigned readings. -/
def mulDivResult (w op u x y : Nat) : Nat :=
  let p : Int := if u = 1 then x else signed w x
  let q : Int := if u = 1 then y else signed w y
  match op with
  | 0 => (p * q % 2 ^ w).toNat
  | 1 => (p * q / 2 ^ w % 2 ^ w).toNat
  | 2 => if y = 0 then 2 ^ w - 1
         else if u = 0 ∧ p = -2 ^ (w - 1) ∧ q = -1 then 2 ^ (w - 1)
         else (p.tdiv q % 2 ^ w).toNat
  | _ => if y = 0 then x
         else if u = 0 ∧ p = -2 ^ (w - 1) ∧ q = -1 then 0
         else ((p - q * p.tdiv q) % 2 ^ w).toNat

/-- What is written of a `w`-bit result `z` (R174). -/
def widen (w u z : Nat) : Word :=
  if w = 64 then BitVec.ofNat 64 z else if u = 0 then BitVec.ofInt 64 (signed w z) else BitVec.ofNat 64 z

/-- The rows of R174: width, operation, guard, d, a, b and U. -/
def intForm : Instr → Option (Nat × Nat × Guard × BitVec 5 × BitVec 5 × BitVec 5 × BitVec 1)
  | .add64 gd d a b u => some (64, 0, gd, d, a, b, u)
  | .sub64 gd d a b u => some (64, 1, gd, d, a, b, u)
  | .and64 gd d a b u => some (64, 2, gd, d, a, b, u)
  | .or64 gd d a b u => some (64, 3, gd, d, a, b, u)
  | .xor64 gd d a b u => some (64, 4, gd, d, a, b, u)
  | .andn64 gd d a b u => some (64, 5, gd, d, a, b, u)
  | .shl64 gd d a b u => some (64, 6, gd, d, a, b, u)
  | .shr64 gd d a b u => some (64, 7, gd, d, a, b, u)
  | .rotl64 gd d a b u => some (64, 8, gd, d, a, b, u)
  | .rotr64 gd d a b u => some (64, 9, gd, d, a, b, u)
  | .min64 gd d a b u => some (64, 10, gd, d, a, b, u)
  | .max64 gd d a b u => some (64, 11, gd, d, a, b, u)
  | .popc64 gd d a u => some (64, 12, gd, d, a, 0, u)
  | .clz64 gd d a u => some (64, 13, gd, d, a, 0, u)
  | .ctz64 gd d a u => some (64, 14, gd, d, a, 0, u)
  | .add32 gd d a b u => some (32, 0, gd, d, a, b, u)
  | .sub32 gd d a b u => some (32, 1, gd, d, a, b, u)
  | .and32 gd d a b u => some (32, 2, gd, d, a, b, u)
  | .or32 gd d a b u => some (32, 3, gd, d, a, b, u)
  | .xor32 gd d a b u => some (32, 4, gd, d, a, b, u)
  | .andn32 gd d a b u => some (32, 5, gd, d, a, b, u)
  | .shl32 gd d a b u => some (32, 6, gd, d, a, b, u)
  | .shr32 gd d a b u => some (32, 7, gd, d, a, b, u)
  | .rotl32 gd d a b u => some (32, 8, gd, d, a, b, u)
  | .rotr32 gd d a b u => some (32, 9, gd, d, a, b, u)
  | .min32 gd d a b u => some (32, 10, gd, d, a, b, u)
  | .max32 gd d a b u => some (32, 11, gd, d, a, b, u)
  | .popc32 gd d a u => some (32, 12, gd, d, a, 0, u)
  | .clz32 gd d a u => some (32, 13, gd, d, a, 0, u)
  | .ctz32 gd d a u => some (32, 14, gd, d, a, 0, u)
  | _ => none

/-- The rows of R175. -/
def mulDivForm : Instr → Option (Nat × Nat × Guard × BitVec 5 × BitVec 5 × BitVec 5 × BitVec 1)
  | .mul64 gd d a b u => some (64, 0, gd, d, a, b, u)
  | .mulh64 gd d a b u => some (64, 1, gd, d, a, b, u)
  | .div64 gd d a b u => some (64, 2, gd, d, a, b, u)
  | .rem64 gd d a b u => some (64, 3, gd, d, a, b, u)
  | .mul32 gd d a b u => some (32, 0, gd, d, a, b, u)
  | .mulh32 gd d a b u => some (32, 1, gd, d, a, b, u)
  | .div32 gd d a b u => some (32, 2, gd, d, a, b, u)
  | .rem32 gd d a b u => some (32, 3, gd, d, a, b, u)
  | _ => none

/-- The word of `i` in the RRR form: guard, MAJ, d, a, b and fn (R148, R150). -/
def rowWord (i : Instr) (maj : BitVec 6) (gd : Guard) (d a b f : BitVec 5) : Prop :=
  (encodeWord i).extractLsb' 26 6 = guardBits gd ∧ (encodeWord i).extractLsb' 20 6 = maj ∧
    (encodeWord i).extractLsb' 15 5 = d ∧ (encodeWord i).extractLsb' 10 5 = a ∧ (encodeWord i).extractLsb' 5 5 = b ∧
    (encodeWord i).extractLsb' 0 5 = f

/-- An immediate read with `n` bits of its own, extended by the 16 bits of an IMMX hint (R15, R152). -/
def immSigned (c : Core) (n v : Nat) : Int :=
  match c.hint 0 with
  | some p => signed (n + 16) (p.toNat * 2 ^ n + v)
  | none => signed n v

/-- The same immediate, unsigned. -/
def immUnsigned (c : Core) (n v : Nat) : Nat :=
  match c.hint 0 with
  | some p => p.toNat * 2 ^ n + v
  | none => v

/-- R176 and R177: the guard, d and what s[d] becomes. -/
def immForm (c : Core) : Instr → Option (Guard × BitVec 5 × Word)
  | .sel gd d a b k => some (gd, d, if (c.p a.toNat).getLsbD 0 then c.s b else c.s k)
  | .addImm gd d a i => some (gd, d, BitVec.ofInt 64 ((c.s a).toNat + immSigned c 10 i.toNat))
  | .shlImm gd d a n => some (gd, d, BitVec.ofNat 64 ((c.s a).toNat * 2 ^ n.toNat))
  | .shrN64Imm gd d a n => some (gd, d, BitVec.ofNat 64 ((c.s a).toNat / 2 ^ n.toNat))
  | .shrI64Imm gd d a n => some (gd, d, BitVec.ofInt 64 (signed 64 (c.s a).toNat / 2 ^ n.toNat))
  | .rotlImm gd d a n =>
    some (gd, d, BitVec.ofNat 64 ((c.s a).toNat * 2 ^ n.toNat + (c.s a).toNat / 2 ^ (64 - n.toNat)))
  | .andImm gd d a v => some (gd, d, c.s a &&& BitVec.ofInt 64 (immSigned c 6 v.toNat))
  | .orImm gd d a v => some (gd, d, c.s a ||| BitVec.ofInt 64 (immSigned c 6 v.toNat))
  | .xorImm gd d a v => some (gd, d, c.s a ^^^ BitVec.ofInt 64 (immSigned c 6 v.toNat))
  | .li gd d i => some (gd, d, BitVec.ofInt 64 (immSigned c 15 i.toNat))
  | .lsi gd d i =>
    some (gd, d, BitVec.ofNat 64 ((c.s d).toNat * 2 ^ (if (c.hint 0).isSome then 31 else 15) + immUnsigned c 15 i.toNat))
  | _ => none

/-- X cc Y (R179). -/
def holds (cc : Nat) (x y : Int) : Bool :=
  match cc with
  | 0 => decide (x = y)
  | 1 => decide (x ≠ y)
  | 2 => decide (x < y)
  | 3 => decide (x ≤ y)
  | 4 => decide (y < x)
  | _ => decide (y ≤ x)

/-- R179 and R180: the guard, the predicate written and its bit `i`. -/
def predForm (c : Core) : Instr → Option (Guard × BitVec 5 × (Nat → Bool))
  | .cmp gd d a b u w cc =>
    let n := if w = 1 then 32 else 64
    let x : Nat := (c.s a).toNat % 2 ^ n
    let y : Nat := (c.s b).toNat % 2 ^ n
    some (gd, d, fun _ => if u = 1 then holds cc.toNat x y else holds cc.toNat (signed n x) (signed n y))
  | .cmpImm gd d a cc u v =>
    some (gd, d, fun _ =>
      if u = 1 then holds cc.toNat (c.s a).toNat (immUnsigned c 6 v.toNat)
      else holds cc.toNat (signed 64 (c.s a).toNat) (immSigned c 6 v.toNat))
  | .pand gd d a b => some (gd, d, fun i => (c.p a.toNat).getLsbD i && (c.p b.toNat).getLsbD i)
  | .por gd d a b => some (gd, d, fun i => (c.p a.toNat).getLsbD i || (c.p b.toNat).getLsbD i)
  | .pxor gd d a b => some (gd, d, fun i => (c.p a.toNat).getLsbD i != (c.p b.toNat).getLsbD i)
  | .pandn gd d a b => some (gd, d, fun i => (c.p a.toNat).getLsbD i && !(c.p b.toNat).getLsbD i)
  | .porn gd d a b => some (gd, d, fun i => (c.p a.toNat).getLsbD i || !(c.p b.toNat).getLsbD i)
  | .pnot gd d a => some (gd, d, fun i => !(c.p a.toNat).getLsbD i)
  | .pset gd d => some (gd, d, fun _ => true)
  | .pclr gd d => some (gd, d, fun _ => false)
  | .pins gd d a k => some (gd, d, fun i =>
      if 64 * k.toNat ≤ i ∧ i < 64 * k.toNat + 64 then (c.s a).getLsbD (i - 64 * k.toNat) else (c.p d.toNat).getLsbD i)
  | _ => none

/-- R180, fn 9 and 10. -/
def predRead (c : Core) : Instr → Option (Guard × BitVec 5 × Nat)
  | .pext gd d a k => some (gd, d, (c.p a.toNat).toNat / 2 ^ (64 * k.toNat) % 2 ^ 64)
  | .pcnt gd d a => some (gd, d, ((List.range 256).filter (c.p a.toNat).getLsbD).length)
  | _ => none

end Sys2Proof.Claims

open Sys2Proof Sys2Proof.Machine Sys2Proof.Claims

/-! ### Encoding and decoding -/

/-- Decoding the word of a well-formed instruction gives it back (R148 to R171). -/
def Obligations.EncodingRoundTrip : Prop :=
  ∀ i : Instr, i.wf = true → i.hasWord = true → decode (encodeWord i) = .ok i

/-- Each legal word has one reading: encoding what is decoded gives the word back (R151, R171). -/
def Obligations.DecodingLosesNothing : Prop :=
  ∀ (w : Code) (i : Instr), decode w = .ok i → i.wf = true ∧ i.hasWord = true ∧ encodeWord i = w

/-! ### Scalar instructions -/

/-- R174: the result, and where the word holds the operands, U and op. -/
def Obligations.IntegerResults : Prop :=
  ∀ (i : Instr) (w op : Nat) (gd : Guard) (d a b : BitVec 5) (u : BitVec 1),
    intForm i = some (w, op, gd, d, a, b, u) →
      rowWord i (if w = 64 then 1 else 2) gd d a b (BitVec.ofNat 5 (16 * u.toNat + op)) ∧
      ∀ s : State, s.me.on gd = true →
        Completes i s (s.regs fun c => c.setS d
          (widen w u.toNat (intResult w op u.toNat ((c.s a).toNat % 2 ^ w) ((c.s b).toNat % 2 ^ w))))

/-- R175: the result, where the word holds the operands, U, W and op, and the codes that are unassigned. -/
def Obligations.MultiplyDivideResults : Prop :=
  (∀ (i : Instr) (w op : Nat) (gd : Guard) (d a b : BitVec 5) (u : BitVec 1),
    mulDivForm i = some (w, op, gd, d, a, b, u) →
      rowWord i 3 gd d a b (BitVec.ofNat 5 (16 * u.toNat + (if w = 64 then 0 else 8) + op)) ∧
      ∀ s : State, s.me.on gd = true →
        Completes i s (s.regs fun c => c.setS d
          (widen w u.toNat (mulDivResult w op u.toNat ((c.s a).toNat % 2 ^ w) ((c.s b).toNat % 2 ^ w))))) ∧
  (∀ w : Code, fMaj w = 3 → (decodeGuard (fGuard w)).isSome = true → 4 ≤ (fFn w).toNat % 8 → decode w = .error 1)

/-- R176, R177. -/
def Obligations.SelectAndImmediateResults : Prop :=
  ∀ (i : Instr) (gd : Guard) (d : BitVec 5) (v : Word) (s : State),
    immForm s.me i = some (gd, d, v) → s.me.on gd = true → Completes i s (s.regs fun c => c.setS d v)

/-- R179, R180, with the `IMMX` forms of R15 and R152. -/
def Obligations.CompareAndPredicateResults : Prop :=
  (∀ (i : Instr) (gd : Guard) (d : BitVec 5) (f : Nat → Bool) (s : State),
    i.wf = true → predForm s.me i = some (gd, d, f) → s.me.on gd = true →
      ∃ v : Pred, (∀ k, k < 256 → v.getLsbD k = f k) ∧ Completes i s (s.regs fun c => c.setP d.toNat v)) ∧
  (∀ (i : Instr) (gd : Guard) (d : BitVec 5) (v : Nat) (s : State),
    i.wf = true → predRead s.me i = some (gd, d, v) → s.me.on gd = true →
      Completes i s (s.regs fun c => c.setS d (BitVec.ofNat 64 v)))

namespace Sys2Proof.Claims

/-- The privileged instructions (R171 step 6) with their guards. -/
def privileged : Instr → Bool
  | .rft _ => true
  | .tinv _ _ _ => true
  | .aspill _ _ => true
  | .atag _ _ _ => true
  | .wspill _ _ => true
  | .wtag _ _ _ => true
  | .keyld _ _ _ => true
  | .saltld _ _ _ => true
  | .wrctl _ _ k => decide (0x20 ≤ k.toNat ∧ k.toNat ≤ 0x23)
  | _ => false

/-- The word of a hint, 0x03F0_0000 | kind·2^16 | payload (R153). -/
def hintWord : Instr → Option Code
  | .immx p => some (BitVec.ofNat 32 (0x03F00000 + p.toNat))
  | .rmode p => some (BitVec.ofNat 32 (0x03F10000 + p.toNat))
  | .cpol p => some (BitVec.ofNat 32 (0x03F20000 + p.toNat))
  | .order p => some (BitVec.ofNat 32 (0x03F30000 + p.toNat))
  | .etype p => some (BitVec.ofNat 32 (0x03F40000 + p.toNat))
  | _ => none

end Sys2Proof.Claims

/-- R13: a scalar, memory, job or tree instruction whose guard fails does nothing; a privileged one needs SUP = 1 for that
too (R171). R152 to R154: IMMX, RMODE, CPOL, ORDER and ETYPE join the chain of their core as its first or second hint: the
core goes on at the next word, a trap will name the chain's first, and nothing else changes; a third legal hint raises trap
0x01 with reason 6, also behind two of one kind, which is the model's choice (log 66). -/
def Obligations.GuardsAndChains : Prop :=
  (∀ (i : Instr) (gd : Guard) (s : State),
     i.hasWord = true → isHint (encodeWord i) = false → laneGuarded (encodeWord i) = false →
     decodeGuard (fGuard (encodeWord i)) = some gd → s.me.on gd = false → (privileged i = true → s.me.sup = true) →
       Completes i s s) ∧
  (∀ (p : BitVec 16) (i : Instr) (w : Code) (s : State), i ∈ [.immx p, .rmode p, .cpol p, .order p, .etype p] →
     hintWord i = some w →
     (s.me.hints.length < 2 → exec i s = .next (s.regs fun c => { c with
       hints := c.hints ++ [w], pc := c.pc + 4, chainPc := if c.hints = [] then c.pc else c.chainPc })) ∧
     (2 ≤ s.me.hints.length → badPayload (s.me.hints ++ [w]) = none → s.me.pending = none →
       Traps i s 0x01 (BitVec.ofNat 64 (6 * 2 ^ 32 + w.toNat))))

/-- R11: s0 reads as zero and discards what is written; R277: the bank in force decides what s24 to s31 name. -/
def Obligations.RegisterZeroAndBanks : Prop :=
  ∀ (c : Core) (d r : BitVec 5) (v : Word),
    c.s 0 = 0 ∧ c.setS 0 v = c ∧
    (d ≠ 0 → (c.setS d v).s d = v) ∧ (r ≠ d → (c.setS d v).s r = c.s r) ∧
    (24 ≤ d.toNat → (c.setS d v).sregs = (if c.sup then c.sregs else c.sregs.set d.toNat v d.isLt)) ∧
    (d.toNat < 24 → (c.setS d v).supBank = c.supBank)

/-! ### Control registers, branches, ends and traps -/

namespace Sys2Proof.Claims

/-- What a control register holds after `v` is written to it on core `c` (R181 to R183, R100, R42, R45). -/
def ctlStored (c : Core) (k : Nat) (v : Word) : Word :=
  match k with
  | 0x010 => BitVec.ofNat 64 (max 1024 (min (v.toNat % 2 ^ 31) (2 ^ 30)))
  | 0x011 => BitVec.ofNat 64 (c.depthCur % 16 * 16 + v.toNat % 16)
  | 0x012 => BitVec.ofNat 64 (max 17 (v.toNat % 64))
  | 0x013 => if 6 ≤ v.toNat % 8 then 0 else BitVec.ofNat 64 (v.toNat % 8)
  | 0x020 => v &&& 0xFF
  | 0x022 => v &&& 0x000FFFFFFFFFFFFC
  | 0x023 => v &&& 0xFFFFFFFFFFFF07FF
  | _ => v

/-- The control registers as they read, from the fields of their layouts (R74, R114, R121, R182). -/
def ctlPlain (s : State) (n k : Nat) : Option Word :=
  let w := s.owner (s.core n).own
  match k with
  | 0x000 => some (BitVec.ofNat 64 n)
  | 0x001 => (s.ownerSlot (s.core n).own).map fun (f, i) => BitVec.ofNat 64
      ((if (s.core n).sup then 2 ^ 16 else 0) + i % 4 * 2 ^ 14 + f % 64 * 2 ^ 8 + (s.core n).own % 256)
  | 0x006 => some (BitVec.ofNat 64 (s.uscCount n .cl + s.uscCount n .die * 2 ^ 12 + s.uscCount n .mod * 2 ^ 24 +
      s.uscCount n .mem * 2 ^ 36 + s.uscCount n .sys * 2 ^ 48))
  | 0x018 => some (w.seedPlace.extractLsb' 0 64)
  | 0x019 => some (w.seedPlace.extractLsb' 64 64)
  | 0x01A => some (w.seedArb.extractLsb' 0 64)
  | 0x01B => some (w.seedArb.extractLsb' 64 64)
  | 0x01C => some (w.seedUser.extractLsb' 0 64)
  | 0x01D => some (w.seedUser.extractLsb' 64 64)
  | 0x01E => some (match w.sweep with
    | none => BitVec.ofNat 64 (w.epoch.toNat * 2 ^ 32)
    | some x => BitVec.ofNat 64 (w.epoch.toNat * 2 ^ 32 + 2 ^ 31 + x.phase * 2 ^ 29 +
        ((if x.phase = 1 then 256 * 64 else if x.phase = 2 then 256 * 512 else 8 * 32768) - (x.next.map Prod.snd).sum) % 2 ^ 20))
  | 0x002 => some (0x000E000000000000 + BitVec.ofNat 64 n <<< 20)
  | 0x003 => some (s.island (islandOf n)).cycles
  | 0x004 => some (s.core n).work
  | 0x005 => some (BitVec.ofNat 64 (s.core n).lanes)
  | 0x010 => some (BitVec.ofNat 64 (s.core n).watchdog)
  | 0x012 => some (BitVec.ofNat 64 (s.core n).hangExp)
  | 0x013 => some (BitVec.ofNat 64 (s.core n).round)
  | 0x014 => some (s.core n).userIndex
  | 0x020 => some ((s.core n).trapCause.setWidth 64)
  | 0x021 => some (s.core n).trapInfo
  | 0x022 => some (s.core n).trapPc
  | _ => none

/-- Where a branch goes: offset in words, sign-extended from `n` bits (R184). -/
def branchTo (base : Word) (off : Int) : Word := BitVec.ofInt 64 (base.toNat + 4 * off)

end Sys2Proof.Claims

/-- R181 to R183: `rdctl` of every register, with the values of R74, R114, R121 and R182; of `ctl.cycles`, `ctl.usc` and
`ctl.blocked` it does not issue while a fence of the core is pending. -/
def Obligations.ControlRegisterReads : Prop :=
  ∀ (gd : Guard) (d : BitVec 5) (k : BitVec 10) (s : State), s.me.on gd = true →
    if k.toNat ∈ [3, 6, 7] ∧ s.me.fencePending = true then exec (.rdctl gd d k) s = .next s
    else
      ∃ v : Word, Completes (.rdctl gd d k) s (s.regs fun c => c.setS d v) ∧ v = s.readCtl s.cur k.toNat ∧
        (∀ x, ctlPlain s s.cur k.toNat = some x → v = x) ∧
        (k.toNat = 7 → (∀ b, s.me.hold ≠ .blocked b) → v = 0)

/-- R181 to R183: `wrctl` of a writable register stores what R183 says there and leaves every other register as it read; of
a read-only one it takes trap 0x05. -/
def Obligations.ControlRegisterWrites : Prop :=
  ∀ (gd : Guard) (d : BitVec 5) (k : BitVec 10) (s : State), s.me.on gd = true → listedCtl k.toNat = true →
    (k.toNat ∉ [0, 1, 2, 3, 5, 6, 7, 0x1E] → (0x20 ≤ k.toNat → s.me.sup = true) →
      ∃ t : State, Completes (.wrctl gd d k) s t ∧ t.readCtl s.cur k.toNat = ctlStored s.me k.toNat (s.me.s d) ∧
        (∀ j, j ≠ k.toNat → t.readCtl s.cur j = s.readCtl s.cur j) ∧
        t.me.sregs = s.me.sregs ∧ t.me.supBank = s.me.supBank ∧ t.me.pregs = s.me.pregs ∧ t.me.vregs = s.me.vregs ∧
        t.me.plate = s.me.plate ∧ t.memB = s.memB ∧ t.memC = s.memC ∧ (∀ n, n ≠ s.cur → t.core n = s.core n)) ∧
    (k.toNat ∈ [0, 1, 2, 3, 5, 6, 7, 0x1E] → s.me.pending = none → Traps (.wrctl gd d k) s 0x05 (k.setWidth 64))

/-- R171 step 6: in user mode a privileged instruction takes trap 0x02 whatever its guard, with reason 7 and its word. -/
def Obligations.PrivilegedInUserModeTraps : Prop :=
  ∀ (i : Instr) (s : State), privileged i = true → s.me.sup = false → s.me.pending = none →
    Traps i s 0x02 (BitVec.ofNat 64 (7 * 2 ^ 32 + (encodeWord i).toNat))

/-- R184: branches, calls and returns. -/
def Obligations.BranchesAndCalls : Prop :=
  ∀ (gd : Guard) (s : State), s.me.on gd = true →
    (∀ o, JumpsTo (.br gd o) s s (branchTo s.me.pc (immSigned s.me 20 o.toNat))) ∧
    (∀ o, JumpsTo (.jal gd o) s (s.regs fun c => c.setS 30 (c.pc + 4)) (branchTo s.me.pc (immSigned s.me 20 o.toNat))) ∧
    (∀ d a m, (branchTo (s.me.s a) (immSigned s.me 10 m.toNat)).toNat % 4 = 0 →
      JumpsTo (.jalr gd d a m) s (s.regs fun c => c.setS d (c.pc + 4))
        (branchTo (s.me.s a) (immSigned s.me 10 m.toNat))) ∧
    (∀ d a m, (branchTo (s.me.s a) (immSigned s.me 10 m.toNat)).toNat % 4 ≠ 0 → s.me.pending = none →
      Traps (.jalr gd d a m) s 0x03 (branchTo (s.me.s a) (immSigned s.me 10 m.toNat)))

/-- R28: `end` frees the record's slot and leaves the handler; `yield` appends the record again in the slot that its freeing
makes available. R39: `end` and `yield` of an inline child return to its caller: the registers its frame saved, the depth
and `ctl.work` come back, and the caller goes on at the saved address; the wait for s1 to s4 and s31 is R291's. The handler of a
fault message leaves every ring as it stands, and `yield` queues the message in its region again (R49). `end` and `yield` of a
state-transfer handler commit its splice once what the commit releases has been performed (R142, R144, R145). That a codelet's
record is appended with all its bytes is the model's choice (log 56), as is user mode after `end` with SUP = 1 (log 47). -/
def Obligations.HandlerEnds : Prop :=
  (∀ (gd : Guard) (s : State) (h : Handler),
      s.me.on gd = true → s.me.handler = some h → h.frames = [] → h.transfer = none → h.fromFault = false → h.ring < 16 →
        (∃ t, exec (.endH gd) s = .next t ∧ t.me.handler = none ∧ t.me.hold = .none ∧ t.me.sup = false ∧ t.me.hints = [] ∧
          t.me.ring h.ring = { s.me.ring h.ring with head := (s.me.ring h.ring).head + 1 } ∧
          (∀ j, j ≠ h.ring → t.me.ring j = s.me.ring j) ∧ t.me.plate = s.me.plate ∧ t.me.sregs = s.me.sregs ∧
          t.memB = s.memB ∧ t.memC = s.memC ∧ t.cur = s.cur) ∧
        (∃ t, exec (.yieldH gd) s = .next t ∧ t.me.handler = none ∧ t.me.hold = .none ∧ t.me.sup = false ∧
          t.me.ring h.ring = { s.me.ring h.ring with
            head := (s.me.ring h.ring).head + 1, tail := (s.me.ring h.ring).tail + 1 } ∧
          (∀ j, j ≠ h.ring → t.me.ring j = s.me.ring j) ∧
          (∀ i, i < 64 → t.me.plateByte ((s.me.ring h.ring).slotAt (s.me.ring h.ring).tail + i) = s.me.plateByte (h.slot + i)) ∧
          t.memB = s.memB ∧ t.memC = s.memC ∧ t.cur = s.cur)) ∧
  (∀ (gd : Guard) (s : State) (h : Handler) (f : Word) (rest : List Word) (i : Instr),
      (i = .endH gd ∨ i = .yieldH gd) → s.me.on gd = true → s.me.handler = some h → h.frames = f :: rest →
      s.me.frameFree = true →
        let w (o : Nat) := s.me.plateRead (f.toNat - plateBase s.cur + o) 8
        ∃ t, exec i s = .next t ∧ t.me.handler = some { h with frames := rest } ∧ t.me.pc = w 64 ∧ t.me.hints = [] ∧
          t.me.s 1 = w 72 ∧ t.me.s 2 = w 80 ∧ t.me.s 3 = w 88 ∧ t.me.s 4 = w 96 ∧ t.me.s 31 = w 104 ∧ t.me.work = w 112 ∧ t.me.depthCur = s.me.depthCur - 1 ∧ t.me.round = s.me.round ∧
          t.me.plate = s.me.plate ∧ t.me.rings = s.me.rings ∧ t.memB = s.memB ∧ t.memC = s.memC) ∧
  (∀ (gd : Guard) (s : State) (h : Handler),
      s.me.on gd = true → s.me.handler = some h → h.frames = [] → h.transfer = none → h.fromFault = true →
        (∃ t, exec (.endH gd) s = .next t ∧ t.me.handler = none ∧ t.me.rings = s.me.rings ∧ t.me.faultBox = s.me.faultBox ∧
          t.me.plate = s.me.plate ∧ t.memB = s.memB ∧ t.memC = s.memC) ∧
        (∀ k, h.slot = (s.me.ring 0).base.toNat * 64 - 4096 + 64 * k →
          ∃ t, exec (.yieldH gd) s = .next t ∧ t.me.handler = none ∧ t.me.rings = s.me.rings ∧
            t.me.faultBox = s.me.faultBox ++ [((s.me.ring 0).tail, k)] ∧ t.me.plate = s.me.plate ∧ t.memB = s.memB)) ∧
  (∀ (gd : Guard) (s : State) (h : Handler) (x : Transfer) (i : Instr),
      (i = .endH gd ∨ i = .yieldH gd) → s.me.on gd = true → s.me.handler = some h → h.frames = [] → h.transfer = some x →
        (s.mayEnd s.cur = false → exec i s = .next s) ∧
        (s.mayEnd s.cur = true → x.ring < 16 → Splice.op ((s.core x.core).headRec x.ring) ≠ 1 →
          ∃ t, exec i s = .next t ∧ t.me.handler = none ∧ ∀ k ∈ (s.core x.core).stage x.ring,
            let g := (s.core x.core).ring k
            let g' := (t.core x.core).ring k
            g'.sseq = recSseq ((s.core x.core).headRec x.ring) ∧ g'.halt = false ∧
              (g.applied ≠ 0xFFFFFFFF → g'.applied = g.applied + 1) ∧
              (k ∈ x.rings → g'.head = g.head + 1 ∧ g'.disp = g.disp + 1)))

/-- R277: a trap in user mode with a supervisor trap entry set writes the three trap registers, SUP, the supervisor count and
the address, ends what held the core, and changes nothing else. With trap entry 0 and a usable fault core (R48, R49), the
handler is abandoned and one fault message to that core is issued, as a release. R142: a state-transfer handler is abandoned
at its trap, which the supervisor does not see (log 34). R278: a trap while SUP = 1 is a double trap: the context is killed, and
no handler runs on the core; the first cause is that of the trap that entered supervisor code. -/
def Obligations.TrapsTaken : Prop :=
  (∀ (s : State) (n : Nat) (cause : BitVec 8) (info pc : Word),
      (s.core n).sup = false → Vd.trapEnt (s.vdOf n) ≠ 0 → (∀ h, (s.core n).handler = some h → h.transfer = none) →
        s.takeTrap n cause info pc = s.setCore n { s.core n with
          trapCause := cause, trapInfo := info, trapPc := pc &&& 0x000FFFFFFFFFFFFC, sup := true, supCount := 0, supCause := cause
          pc := Vd.trapEnt (s.vdOf n), hints := [], ahead := [], hold := .none, rangeAt := 0, begun := false, pending := none
          pushRec := none }) ∧
  (∀ (s : State) (n : Nat) (cause : BitVec 8) (info pc : Word) (h : Handler) (x : Transfer),
      (s.core n).sup = false → (s.core n).handler = some h → h.transfer = some x → x.rings = [x.ring] → x.ring < 16 → x.core = n →
        let t := s.takeTrap n cause info pc
        (t.core n).handler = none ∧ (t.core n).sup = false ∧ (t.core n).trapCause = cause ∧ (t.core n).pend = (s.core n).pend ∧
          recKind ((t.core n).headRec x.ring) = 5 ∧ (t.owner (s.core n).own).killed = (s.owner (s.core n).own).killed) ∧
  (∀ (s : State) (n : Nat) (cause : BitVec 8) (info pc : Word) (h : Handler),
      (s.core n).sup = false → Vd.trapEnt (s.vdOf n) = 0 → (s.core n).handler = some h → h.transfer = none →
      h.fromFault = false → (s.core n).faultHandler ≠ 0 →
      Own.hasCore (s.owner (s.core n).own).entry (s.core n).faultCore.toNat = true →
        let t := s.takeTrap n cause info pc
        (t.core n).handler = none ∧ (t.core n).trapCause = cause ∧ (t.core n).trapInfo = info ∧ (t.core n).sup = false ∧
        ∃ a : Access, (t.core n).pend = (s.core n).pend ++ [a] ∧ a.dest = .plate (s.core n).faultCore.toNat ∧
          a.rel = some (smallestScope n (s.core n).faultCore.toNat) ∧
          ∃ r, a.op = .faultMsg r ∧ wordAt r 1 = (s.core n).work ∧ wordAt r 3 = (s.core n).work ∧ wordAt r 4 = info ∧
            wordAt r 5 = pc &&& 0x000FFFFFFFFFFFFC) ∧
  (∀ (s : State) (n : Nat) (cause : BitVec 8) (info pc : Word) (o : Nat) (c : Core),
      Store.rising s.cores = true → Store.find n s.cores = some c → c.sup = true → c.ctx = some o →
        let t := s.takeTrap n cause info pc
        (t.owner o).killed = true ∧ (t.core n).ctx = none ∧ (t.core n).handler = none ∧
        ∃ e, t.errs.getLast? = some e ∧ e.owner = some o ∧ e.cls = 0x08 ∧ e.cause = c.supCause.toNat ∧ e.detail = cause.setWidth 64 ∧
          e.kill = true)

/-- R279: `rft` gives SUP and the user's s24 to s31 back and executes the trapped chain again from its first word; after a
watchdog or deadlock trap, or with `ctl.trappc`.ADDR 0, the handler faults with the cause and information of the trap. In
user mode it takes trap 0x02. Nothing it waits for, and nothing else changes: the watchdog count stands as it did. -/
def Obligations.ReturnFromTrap : Prop :=
  ∀ (gd : Guard) (s : State),
    (s.me.on gd = true → s.me.sup = true →
      let back := s.regs fun c => { c with sup := false, hints := [], ahead := [], pc := c.trapPc }
      (∀ r : BitVec 5, back.me.s r = if r = 0 then 0 else s.me.sregs[r.toNat]'r.isLt) ∧
      exec (.rft gd) s = .next
        (if s.me.trapCause = 0x06 ∨ s.me.trapCause = 0x09 ∨ s.me.trapPc &&& 0x000FFFFFFFFFFFFC = 0 then
          back.handlerFault s.cur s.me.trapCause.toNat s.me.trapInfo
        else back)) ∧
    (s.me.sup = false → s.me.pending = none →
      Traps (.rft gd) s 0x02 (BitVec.ofNat 64 (7 * 2 ^ 32 + (encodeWord (.rft gd)).toNat)))

/-! ### Memory instructions -/

namespace Sys2Proof.Claims

/-- The issuing core has nothing outstanding anywhere, no request waits at its plate, and no tile of it is being filled. -/
def calm (s : State) : Prop :=
  s.quiet ∧ (∀ σ, s.pushWaits s.cur σ = false) ∧ s.me.parked = [] ∧ (∀ x ∈ s.me.tiles.toList, x.state ≠ .filling) ∧
    s.cur < 2048

/-- The effective address of a base register and an offset of `n` bits in units of `z` bytes (R189, R192). -/
def eaOf (c : Core) (b : BitVec 5) (n o z : Nat) : Word := BitVec.ofInt 64 ((c.s b).toNat + immSigned c n o * z)

/-- The loads of R189 and R191: guard, d, effective address, bytes, sign extension, acquire. -/
def loadForm (c : Core) : Instr → Option (Guard × BitVec 5 × Word × Nat × Bool × Bool)
  | .ldB gd d b o => some (gd, d, eaOf c b 7 o.toNat 1, 1, false, false)
  | .ldH gd d b o => some (gd, d, eaOf c b 7 o.toNat 2, 2, false, false)
  | .ldW gd d b o => some (gd, d, eaOf c b 7 o.toNat 4, 4, false, false)
  | .ldD gd d b o => some (gd, d, eaOf c b 7 o.toNat 8, 8, false, false)
  | .ldBS gd d b o => some (gd, d, eaOf c b 7 o.toNat 1, 1, true, false)
  | .ldHS gd d b o => some (gd, d, eaOf c b 7 o.toNat 2, 2, true, false)
  | .ldWS gd d b o => some (gd, d, eaOf c b 7 o.toNat 4, 4, true, false)
  | .ldAcq gd d b z _ => some (gd, d, c.s b, 2 ^ z.toNat, false, true)
  | _ => none

/-- The stores of R189 and R191: guard, d, effective address, bytes, scope of a release. -/
def storeForm (c : Core) : Instr → Option (Guard × BitVec 5 × Word × Nat × Option Nat)
  | .stB gd d b o => some (gd, d, eaOf c b 7 o.toNat 1, 1, none)
  | .stH gd d b o => some (gd, d, eaOf c b 7 o.toNat 2, 2, none)
  | .stW gd d b o => some (gd, d, eaOf c b 7 o.toNat 4, 4, none)
  | .stD gd d b o => some (gd, d, eaOf c b 7 o.toNat 8, 8, none)
  | .stRel gd d b z σ => some (gd, d, c.s b, 2 ^ z.toNat, some σ.toNat)
  | _ => none

/-- `z` bytes from `a`, little-endian (R5). -/
def littleEndian (f : Nat → Byte) (a z : Nat) : Nat := ((List.range z).map fun j => (f (a + j)).toNat * 256 ^ j).sum

/-- A loaded value as it is written (R189). -/
def loaded (z v : Nat) (sg : Bool) : Word := if sg then BitVec.ofInt 64 (signed (8 * z) v) else BitVec.ofNat 64 v

/-- The address of plate byte `off` of core `n` (R59). -/
def plateVa (n off : Nat) : Word := BitVec.ofNat 64 (0x000E000000000000 + n * 2 ^ 20 + off)

/-- A translation that the issuing core holds for `ea` lets `z` bytes there be accessed, and its tier has memory where it
leads (R309, R310, R364). -/
def mapped (s : State) (ea : Word) (z : Nat) (r w : Bool) (t : Trans) : Prop :=
  ea.toNat < 0x000E000000000000 ∧ s.cached (.core s.cur) s.me.own s.me.sup ea.toNat = some t ∧
    leafAllows t.leaf r w false = true ∧ s.paOk t.leaf t.shift ea.toNat = true ∧ Leaf.cow t.leaf = false ∧ ea.toNat % 2 ^ t.shift + z ≤ 2 ^ t.shift ∧
    (w = true → ∀ b ∈ s.breaks, b.owner = s.me.own → b.sup = s.me.sup → ea.toNat / 2 ^ b.shift ≠ b.page)

/-- The physical address a translation gives (R307). -/
def physical (t : Trans) (ea : Word) : Nat := Leaf.frame t.leaf + ea.toNat % 2 ^ t.shift

/-- The full/empty forms of R192. -/
def feForm : Instr → Option (FeOp × Guard × BitVec 5 × BitVec 5 × BitVec 1 × BitVec 6)
  | .ldff gd d b z o => some (.ldff, gd, d, b, z, o)
  | .ldfe gd d b z o => some (.ldfe, gd, d, b, z, o)
  | .fet gd d b z o => some (.fet, gd, d, b, z, o)
  | .stef gd d b z o => some (.stef, gd, d, b, z, o)
  | .stxf gd d b z o => some (.stxf, gd, d, b, z, o)
  | .stxe gd d b z o => some (.stxe, gd, d, b, z, o)
  | _ => none

/-- The atomics of R194: operation, bytes, guard, destination of a form with return, a and b. -/
def atomForm : Instr → Option (AtomOp × Nat × Guard × Option (BitVec 5) × BitVec 5 × BitVec 5)
  | .aswapD gd d a b => some (.swap, 8, gd, some d, a, b)
  | .acasD gd d a b => some (.cas, 8, gd, some d, a, b)
  | .aadd64 gd d a b => some (.add, 8, gd, some d, a, b)
  | .aandD gd d a b => some (.and, 8, gd, some d, a, b)
  | .aorD gd d a b => some (.or, 8, gd, some d, a, b)
  | .axorD gd d a b => some (.xor, 8, gd, some d, a, b)
  | .aminI64 gd d a b => some (.minS, 8, gd, some d, a, b)
  | .amaxI64 gd d a b => some (.maxS, 8, gd, some d, a, b)
  | .aminN64 gd d a b => some (.minU, 8, gd, some d, a, b)
  | .amaxN64 gd d a b => some (.maxU, 8, gd, some d, a, b)
  | .aadd32 gd d a b => some (.add, 4, gd, some d, a, b)
  | .aswapW gd d a b => some (.swap, 4, gd, some d, a, b)
  | .acasW gd d a b => some (.cas, 4, gd, some d, a, b)
  | .aaddF32 gd d a b => some (.fadd, 4, gd, some d, a, b)
  | .aaddF64 gd d a b => some (.fadd, 8, gd, some d, a, b)
  | .qadd64 gd a b => some (.add, 8, gd, none, a, b)
  | .qandD gd a b => some (.and, 8, gd, none, a, b)
  | .qorD gd a b => some (.or, 8, gd, none, a, b)
  | .qxorD gd a b => some (.xor, 8, gd, none, a, b)
  | .qminI64 gd a b => some (.minS, 8, gd, none, a, b)
  | .qmaxI64 gd a b => some (.maxS, 8, gd, none, a, b)
  | .qminN64 gd a b => some (.minU, 8, gd, none, a, b)
  | .qmaxN64 gd a b => some (.maxU, 8, gd, none, a, b)
  | .qadd32 gd a b => some (.add, 4, gd, none, a, b)
  | .qaddF32 gd a b => some (.fadd, 4, gd, none, a, b)
  | .qaddF64 gd a b => some (.fadd, 8, gd, none, a, b)
  | _ => none

/-- The new contents of a `z`-byte location under an atomic (R194), from the old contents, the operand and the expected
value, all read modulo 2^(8z). -/
def atomResult (op : AtomOp) (z old x e : Nat) : Nat :=
  let sg (v : Nat) : Int := signed (8 * z) v
  match op with
  | .swap => x
  | .cas => if old = e then x else old
  | .add => (old + x) % 2 ^ (8 * z)
  | .and => old &&& x
  | .or => old ||| x
  | .xor => old ^^^ x
  | .minS => if sg x < sg old then x else old
  | .maxS => if sg old < sg x then x else old
  | .minU => if x < old then x else old
  | .maxU => if old < x then x else old
  | .fadd => fAdd (if z = 4 then f32 else f64) .rne old x

end Sys2Proof.Claims

/-- R189, R191, R79: a load from the own plate writes the bytes there, extended, to s[d]; nothing else changes but the
model's numbering of accesses. -/
def Obligations.OwnPlateLoads : Prop :=
  ∀ (i : Instr) (gd : Guard) (d : BitVec 5) (z off : Nat) (sg acq : Bool) (s : State),
    loadForm s.me i = some (gd, d, plateVa s.cur off, z, sg, acq) → s.me.on gd = true → calm s →
    off < 0x20000 → off % z = 0 →
      ∃ k, Completes i s
        { s.regs (fun c => c.setS d (loaded z (littleEndian s.me.plateByte off z) sg)) with nextId := k }

/-- R189, R191, R62: a store to the own plate writes the low bytes of s[d] there, joins the coherence order of its location
(R78, R80), and changes nothing else. -/
def Obligations.OwnPlateStores : Prop :=
  ∀ (i : Instr) (gd : Guard) (d : BitVec 5) (z off : Nat) (rel : Option Nat) (s : State),
    storeForm s.me i = some (gd, d, plateVa s.cur off, z, rel) → s.me.on gd = true → calm s →
    off < 0x20000 → off % z = 0 →
      ∃ p, Completes i s { s.regs (fun c => { c with plate := p }) with
          coherence := s.coherence ++ [⟨.plate s.cur, off, z, s.me.own⟩] } ∧
        ∀ x, ({ s.me with plate := p } : Core).plateByte x =
          if off ≤ x ∧ x < off + z then byteAt (s.me.s d) (x - off) else s.me.plateByte x

/-- R188: a load or store to the own plate window that is not aligned takes trap 0x03; one beyond the populated offsets
takes trap 0x07; an address where no space lies takes trap 0x05. -/
def Obligations.AddressChecksTrap : Prop :=
  ∀ (i : Instr) (gd : Guard) (ea : Word) (z : Nat) (s : State),
    ((∃ d sg acq, loadForm s.me i = some (gd, d, ea, z, sg, acq)) ∨ (∃ d rel, storeForm s.me i = some (gd, d, ea, z, rel))) →
    s.me.on gd = true → s.me.pending = none → s.cur < 2048 →
      (∀ off, ea = plateVa s.cur off → off < 0x20000 → off % z ≠ 0 → Traps i s 0x03 ea) ∧
      (∀ off, ea = plateVa s.cur off → 0x21200 ≤ off → off < 2 ^ 20 → off % z = 0 → Traps i s 0x07 ea) ∧
      (placeOf ea = none → Traps i s 0x05 ea)

/-- R80, R189, R194, R195: a load, a store and an atomic on a mapped page of main memory join the accesses of their core,
with the data and ordering they read at issue, and change no byte yet; a location not naturally aligned is accessed as
single bytes (R79). -/
def Obligations.MainMemoryAccessesIssue : Prop :=
  (∀ (i : Instr) (gd : Guard) (d : BitVec 5) (ea : Word) (z : Nat) (sg acq : Bool) (t : Trans) (s : State),
      loadForm s.me i = some (gd, d, ea, z, sg, acq) → s.me.on gd = true → calm s → mapped s ea z true false t →
      (acq = true → ea.toNat % z = 0) →
        ∃ u g, Completes i s u ∧ u.me.gathers = [g] ∧ g.dest = .sreg (s.me.sreg d) z sg ∧ g.poison = none ∧
          g.parts.all (fun p => p.val.isNone && p.lane == 0) = true ∧
          u.me.pend.map (fun a => (a.op, a.dest, a.addr, a.size, a.acq)) =
            (if physical t ea % z = 0 then [(.load g.gid 0, .main (Leaf.image t.leaf), physical t ea, z, acq)]
             else (List.range z).map fun j => (.load g.gid j, .main (Leaf.image t.leaf), physical t ea + j, 1, acq)) ∧
          u.me.sregs = s.me.sregs ∧ u.me.plate = s.me.plate ∧ u.memB = s.memB ∧ u.memC = s.memC) ∧
  (∀ (i : Instr) (gd : Guard) (d : BitVec 5) (ea : Word) (z : Nat) (rel : Option Nat) (t : Trans) (s : State),
      storeForm s.me i = some (gd, d, ea, z, rel) → s.me.on gd = true → calm s → mapped s ea z false true t →
      (rel.isSome = true → ea.toNat % z = 0) → s.uscCount s.cur (if Leaf.tierOf t.leaf = .cxl then .sys else .mem) + 8 ≤ 4095 →
        ∃ u, Completes i s u ∧
          u.me.pend.map (fun a => (a.op, a.dest, a.addr, a.size, a.rel)) =
            (if physical t ea % z = 0 then [(.store (s.me.s d), .main (Leaf.image t.leaf), physical t ea, z, rel)]
             else (List.range z).map fun j =>
               (.store (s.me.s d >>> (8 * j)), .main (Leaf.image t.leaf), physical t ea + j, 1, rel)) ∧
          u.me.sregs = s.me.sregs ∧ u.me.plate = s.me.plate ∧ u.memB = s.memB ∧ u.memC = s.memC) ∧
  (∀ (i : Instr) (op : AtomOp) (z : Nat) (gd : Guard) (ret : Option (BitVec 5)) (a b : BitVec 5) (t : Trans) (s : State),
      atomForm i = some (op, z, gd, ret, a, b) → s.me.on gd = true → calm s → mapped s (s.me.s a) z true true t →
      (s.me.s a).toNat % z = 0 → ¬(Leaf.image t.leaf = .b ∧ Leaf.tierOf t.leaf = .cxl) →
      s.uscCount s.cur (if Leaf.tierOf t.leaf = .cxl then .sys else .mem) + 1 ≤ 4095 →
        ∃ u x, Completes i s u ∧ u.me.pend = [x] ∧
          x.op = .atom op (s.me.s b) (s.me.s (ret.getD 0)) (ret.map s.me.sreg) ∧ x.dest = .main (Leaf.image t.leaf) ∧
          x.addr = physical t (s.me.s a) ∧ x.size = z ∧ x.acq = (ret.isSome && s.me.ordAcq) ∧ x.rel = s.me.ordRel ∧
          u.me.sregs = s.me.sregs ∧ u.memB = s.memB ∧ u.memC = s.memC)

/-- R192, R62: a full/empty access to the own plate whose condition holds: what it returns, stores and does to the bits of
its words; other bytes, words and registers keep theirs. One whose condition does not hold parks at the port and blocks
its core, with cause 1 for a load and 2 for `stef`, and changes no byte and no bit (R43, R63). -/
def Obligations.FullEmptyAccesses : Prop :=
  ∀ (i : Instr) (op : FeOp) (gd : Guard) (d b : BitVec 5) (z : BitVec 1) (o : BitVec 6) (off : Nat) (s : State),
    feForm i = some (op, gd, d, b, z, o) → s.me.on gd = true → calm s →
    let w := if z = 1 then 8 else 4
    let bits := (List.range (w / 4)).map fun k => s.me.fe (off + 4 * k)
    eaOf s.me b 6 o.toNat w = plateVa s.cur off → off < 0x20000 → off % w = 0 →
    if ((op = .ldff ∨ op = .ldfe) ∧ bits.all id = false) ∨ (op = .stef ∧ bits.any id = true) then
      ∃ t e, exec i s = .next t ∧ t.me.hold = .blocked e ∧ e.cause = (if op = .stef then 2 else 1) ∧ e.resid = 0 ∧
        (∃ q, t.me.parked = [q] ∧ q.issuer = s.cur ∧ q.op = op ∧ q.addr = off ∧ q.size = w) ∧
        t.me.pc = s.me.pc ∧ t.me.plate = s.me.plate ∧ t.me.full = s.me.full ∧ t.me.sregs = s.me.sregs
    else
      ∃ t, Completes i s t ∧
        (∀ r : BitVec 5, t.me.s r =
          if r = 0 ∨ r ≠ d then s.me.s r
          else match op with
            | .ldff | .ldfe => BitVec.ofNat 64 (littleEndian s.me.plateByte off w)
            | .fet => BitVec.ofNat 64 (((List.range (w / 4)).map fun k => b2n (bits.getD k false) * 2 ^ k).sum)
            | _ => s.me.s r) ∧
        (∀ x, t.me.plateByte x =
          if (op = .stef ∨ op = .stxf ∨ op = .stxe) ∧ off ≤ x ∧ x < off + w then byteAt (s.me.s d) (x - off)
          else s.me.plateByte x) ∧
        (∀ x, t.me.fe x =
          if off / 4 ≤ x / 4 ∧ x / 4 < (off + w) / 4 then
            match op with
            | .ldff | .fet => s.me.fe x
            | .ldfe | .stxe => false
            | .stef | .stxf => true
          else s.me.fe x) ∧
        t.me.pregs = s.me.pregs ∧ t.me.vregs = s.me.vregs ∧ t.me.rings = s.me.rings ∧ t.memB = s.memB ∧ t.memC = s.memC

/-- R194, R78: an atomic on the own plate is one indivisible read and write at issue; a form with return gives the old value, and
the write joins the coherence order of its location, unless a compare-and-swap fails. -/
def Obligations.OwnPlateAtomics : Prop :=
  ∀ (i : Instr) (op : AtomOp) (z : Nat) (gd : Guard) (ret : Option (BitVec 5)) (a b : BitVec 5) (off : Nat) (s : State),
    atomForm i = some (op, z, gd, ret, a, b) → s.me.on gd = true → calm s →
    s.me.s a = plateVa s.cur off → off < 0x20000 → off % z = 0 →
      let old := littleEndian s.me.plateByte off z
      let new := atomResult op z old ((s.me.s b).toNat % 2 ^ (8 * z)) ((s.me.s (ret.getD 0)).toNat % 2 ^ (8 * z))
      ∃ p, (∀ x, ({ s.me with plate := p } : Core).plateByte x =
          if off ≤ x ∧ x < off + z then BitVec.ofNat 8 (new / 256 ^ (x - off)) else s.me.plateByte x) ∧
        Completes i s { s.regs (fun c =>
          let c := { c with plate := p }
          match ret with
          | some d => c.setS d (BitVec.ofNat 64 old)
          | none => c) with
          coherence := if op = .cas ∧ old ≠ (s.me.s (ret.getD 0)).toNat % 2 ^ (8 * z) then s.coherence
            else s.coherence ++ [⟨.plate s.cur, off, z, s.me.own⟩] }

/-- R34, R35, R197: a decrement-and-wake of a codelet in the own plate: the counter falls to no less than 0, and the
decrement that brings it to 0 appends the codelet to the ready ring, with its work identifier, its core in bytes 16 and 17 and
0 in the rest of the record. -/
def Obligations.DecrementAndWake : Prop :=
  ∀ (gd : Guard) (d a b : BitVec 5) (off : Nat) (s : State),
    s.me.on gd = true → calm s → s.me.s a = plateVa s.cur off → off < 0x20000 → off % 16 = 0 → s.me.readyWait = [] →
    s.me.hasRoom 1 = true →
      let old := littleEndian s.me.plateByte (off + 8) 4
      let new := old - min (s.me.s b).toNat (2 ^ 32 - 1)
      let r := s.me.ring 1
      let woken := old ≠ 0 ∧ new = 0
      ∀ ret : Bool, ∃ t, Completes (if ret then .adecw gd d a b else .qdecw gd a b) s t ∧
        (t.me.s d = if ret = true ∧ d ≠ 0 then BitVec.ofNat 64 old else s.me.s d) ∧
        t.me.ring 1 = (if woken then { r with tail := r.tail + 1 } else r) ∧
        (woken → t.me.plateRead (r.slotAt r.tail) 8 = plateVa s.cur off ∧
          t.me.plateRead (r.slotAt r.tail + 8) 8 = s.me.work ∧
          littleEndian t.me.plateByte (r.slotAt r.tail + 16) 2 = s.cur ∧
          ∀ k, 18 ≤ k → k < 64 → t.me.plateByte (r.slotAt r.tail + k) = 0) ∧
        (woken → (off + 12 ≤ r.slotAt r.tail ∨ r.slotAt r.tail + 64 ≤ off + 8) → littleEndian t.me.plateByte (off + 8) 4 = 0) ∧
        (¬ woken → littleEndian t.me.plateByte (off + 8) 4 = new) ∧ t.memB = s.memB ∧ t.memC = s.memC

/-- R80, R198: a fence joins the pending accesses of its core; nothing else changes but the model's numbering. -/
def Obligations.FencesIssue : Prop :=
  ∀ (gd : Guard) (σ : BitVec 5) (all : Bool) (s : State), s.me.on gd = true →
    ∃ f : Access, f.op = .fence all σ.toNat ∧ f.id = s.nextId ∧
      Completes (if all then .fenceAll gd σ else .fence gd σ) s
        { s.regs (fun c => { c with pend := c.pend ++ [f] }) with nextId := s.nextId + 1 }

/-- R199, R200: a range operation on bytes of one line of a mapped page queues one access of that line; `icinv.range` then
holds its core until every cache has dropped the line, and `icsync` drops it from the core's own cache at once. A range of
0 bytes does nothing. -/
def Obligations.RangeOperationsIssue : Prop :=
  ∀ (gd : Guard) (a b : BitVec 5) (t : Trans) (s : State),
    s.me.on gd = true → s.me.rangeAt = 0 →
    ((s.me.s b = 0 →
      Completes (.cleanRange gd a b) s (s.regs fun c => c) ∧ Completes (.invalRange gd a b) s (s.regs fun c => c) ∧
      Completes (.flushRange gd a b) s (s.regs fun c => c))) ∧
    (let line := (s.me.s a).toNat / 128
     0 < (s.me.s b).toNat → (s.me.s a).toNat % 128 + (s.me.s b).toNat ≤ 128 →
     mapped s (BitVec.ofNat 64 (128 * line)) 128 true true t →
     s.flashFrom (128 * line) tableLevels (s.rootOf s.me.own s.me.sup) = false → s.uscCount s.cur .mem < 4095 →
     let queued (op : RangeOp) (u : State) : Prop := ∃ x, u.me.pend = s.me.pend ++ [x] ∧ x.op = .range op ∧
       x.dest = .main (Leaf.image t.leaf) ∧ x.addr = physical t (BitVec.ofNat 64 (128 * line)) ∧ x.kind = .rc ∧
       u.memB = s.memB ∧ u.memC = s.memC ∧ u.me.sregs = s.me.sregs
     (∃ u, Completes (.cleanRange gd a b) s u ∧ queued .clean u) ∧
     (∃ u, Completes (.invalRange gd a b) s u ∧ queued .inval u) ∧
     (∃ u, Completes (.flushRange gd a b) s u ∧ queued .flush u) ∧
     (∃ u, exec (.icinvRange gd a b) s = .next u ∧ queued .icinv u ∧ u.me.hold = .icinv) ∧
     (∃ u, Completes (.icsync gd a b) s u ∧ u.me.pend = s.me.pend ∧
       (u.me.icache = s.me.icache.filter fun x => x.line / 2 != line) ∧ u.me.ahead = [] ∧
       u.me.sregs = s.me.sregs ∧ u.me.plate = s.me.plate ∧ u.memB = s.memB ∧ u.memC = s.memC))

/-! ### Messages, rings and asynchronous loads -/

namespace Sys2Proof.Claims

/-- The record of a message (R29, R30, R201): HADDR and F, the work identifier, and s10 to s15. -/
def isMessage (c : Core) (a : BitVec 5) (r : Rec) : Prop :=
  wordAt r 0 = c.s a &&& 0x000FFFFFFFFFFFF4 ∧ wordAt r 1 = c.work ∧
    ∀ k, k < 6 → wordAt r (2 + k) = c.s (BitVec.ofNat 5 (10 + k))

/-- A record goes from the issuing core into ring `j` of core `t`, whose slot is free: it is appended at once at the own
plate, and leaves as a release with its slot reserved at another (R135, R201, R202). -/
def delivers (s u : State) (t j : Nat) (p : Rec → Prop) : Prop :=
  if t = s.cur then
    u.me.ring j = { s.me.ring j with tail := (s.me.ring j).tail + 1 } ∧ u.me.resv j = s.me.resv j ∧
      p (u.me.plateRec ((s.me.ring j).slotAt (s.me.ring j).tail))
  else
    (u.core t).resv j = (s.core t).resv j + 1 ∧ (u.core t).ring j = (s.core t).ring j ∧
      ∃ x r, u.me.pend = s.me.pend ++ [x] ∧ x.dest = .plate t ∧ x.rel = some (smallestScope s.cur t) ∧ p r ∧
        (x.op = .push j r ∨ (j = 0 ∧ x.op = .msg r))

/-- The plate port of core `t` draws slots: it is not paused by a swap of its entry, nor by a change of its clock (R128, R358). -/
def draws (s : State) (t : Nat) : Prop := (s.point 9 t).paused = false ∧ s.changing 9 t = false

/-- The plate port of core `t` draws slots, no other request stands or waits there, and the limiter of owner `o` admits one (R124,
R127, R324). -/
def portIdle (s : State) (o t : Nat) : Prop :=
  draws s t ∧ (s.core t).portWait = [] ∧ s.portRequests t = [] ∧ s.limited o 9 t = false

/-- Ring `j` of core `t` has a slot to give, no other request stands at its port, and the port admits the core's request and
draws (R201, R202). -/
def roomAt (s : State) (t j : Nat) : Prop :=
  (s.core t).hasRoom j = true ∧ s.windowRoom s.cur t = true ∧ portIdle s s.me.own t

end Sys2Proof.Claims

/-- R29, R30, R32, R43, R201: `send` to the own core or to one of the same owner, whose inbox has room, delivers the message;
to a core whose inbox is full, it waits at the port and blocks with cause 5, also at the own core with I = 0 or at the depth
limit (R38). R38, R39: `send` to the own full inbox with I = 1 below the depth limit calls the handler inline: the frame is
saved at s31 - 128, s1, s2 and s31 are set, and the child goes on at HADDR. -/
def Obligations.MessagesAreSent : Prop :=
  (∀ (gd : Guard) (a b : BitVec 5) (t : Nat) (s : State),
     s.me.on gd = true → calm s → (s.me.s b).toNat = t → t < 2048 → (t = s.cur ∨ s.mayPlate s.cur t = true) →
     (roomAt s t 0 → s.devBefore s.cur t = false →
       ∃ u, Completes (.send gd a b) s u ∧ delivers s u t 0 (isMessage s.me a) ∧ u.me.sregs = s.me.sregs ∧
         u.memB = s.memB ∧ u.memC = s.memC) ∧
     ((s.core t).hasRoom 0 = false → (s.core t).portWait = [] → s.windowRoom s.cur t = true →
       ¬(t = s.cur ∧ bitOf (s.me.s a) 2 = true ∧ s.me.depthCur < s.me.depthLimit) →
       ∃ u e, exec (.send gd a b) s = .next u ∧ u.me.hold = .blocked e ∧ e.cause = 5 ∧ e.core = t ∧
         (∃ q, (u.core t).portWait = [q] ∧ q.issuer = s.cur ∧ q.ring = 0 ∧ q.granted = false) ∧ u.me.pc = s.me.pc ∧
         u.me.sregs = s.me.sregs ∧ u.me.pend = [])) ∧
  (∀ (gd : Guard) (a b : BitVec 5) (s : State) (off : Nat) (h : Handler),
     s.me.on gd = true → calm s → s.me.sup = false → (s.me.s b).toNat = s.cur → s.me.hasRoom 0 = false →
     bitOf (s.me.s a) 2 = true → s.me.depthCur < s.me.depthLimit → s.me.handler = some h →
     s.me.s 31 = plateVa s.cur (off + 128) → off % 64 = 0 → off + 128 ≤ 0x20000 →
       ∃ u, JumpsTo (.send gd a b) s u (s.me.s a &&& 0x000FFFFFFFFFFFF0) ∧
         isMessage s.me a (u.me.plateRec off) ∧
         u.me.plateWords (off + 64) 8 =
           [s.me.pc + 4, s.me.s 1, s.me.s 2, s.me.s 3, s.me.s 4, s.me.s 31, s.me.work, 0] ∧
         u.me.s 31 = plateVa s.cur off ∧ u.me.s 1 = plateVa s.cur off ∧ u.me.s 2 = s.me.work ∧ u.me.s 3 = 0 ∧
         u.me.s 4 = 0 ∧ u.me.work = s.me.work ∧ u.me.depthCur = s.me.depthCur + 1 ∧
         u.me.handler = some { h with frames := plateVa s.cur off :: h.frames } ∧
         (∀ x, (x < off ∨ off + 128 ≤ x) → u.me.plateByte x = s.me.plateByte x) ∧ u.me.rings = s.me.rings)

/-- R137, R202: `rpush` of a record of kind 2 or 3 in the own plate to a program ring with a free slot; the header names
the kind and the pushing core. R203, R43: `rpop` of a queue-mode ring that holds a record copies it to the own plate, gives
its header and frees its slot; of an empty one it blocks with cause 3. `rpeek` gives the header of the next record, 0 when
there is none, and takes nothing. -/
def Obligations.RingsAreUsed : Prop :=
  (∀ (gd : Guard) (a b : BitVec 5) (t j off : Nat) (s : State),
     s.me.on gd = true → calm s → s.me.pushRec = none → s.pushTarget s.cur (s.me.s a) = some (.ring t j) →
     s.me.s b = plateVa s.cur off → off % 64 = 0 → off ≤ 0x1FFC0 →
     (recKind (s.me.plateRec off) = 2 ∨ recKind (s.me.plateRec off) = 3) → roomAt s t j →
       ∃ u, Completes (.rpush gd a b) s u ∧
         delivers s u t j (fun r =>
           wordAt r 0 = BitVec.ofNat 64 (recKind (s.me.plateRec off) + s.cur * 2 ^ 13) ∧
           ∀ k, 1 ≤ k → k < 8 → wordAt r k = wordAt (s.me.plateRec off) k) ∧
         u.me.sregs = s.me.sregs ∧ u.memB = s.memB ∧ u.memC = s.memC) ∧
  (∀ (gd : Guard) (d a b : BitVec 5) (j off : Nat) (s : State),
     s.me.on gd = true → calm s → s.me.queueRing (s.me.s b) = some j →
     let g := s.me.ring j
     Completes (.rpeek gd d b) s (s.regs fun c => c.setS d
       (if g.waiting = 0 then 0 else c.plateRead (g.slotAt g.disp) 8)) ∧
     (s.me.s a = plateVa s.cur off → off % 64 = 0 → off ≤ 0x1FFC0 →
       if g.waiting = 0 then
         ∃ e, e.cause = 3 ∧ e.ring = j ∧ e.gate = 1 ∧ e.resid = 0 ∧
           exec (.rpop gd d a b) s = .next (s.regs fun c => { c with hold := .blocked e })
       else
         ∃ u, Completes (.rpop gd d a b) s u ∧
           (∀ x, u.me.plateByte x =
             if off ≤ x ∧ x < off + 64 then s.me.plateByte (g.slotAt g.disp + (x - off)) else s.me.plateByte x) ∧
           u.me.ring j = { g with disp := g.disp + 1, head := g.head + 1 } ∧
           (∀ k, k ≠ j → u.me.ring k = s.me.ring k) ∧
           (∀ r : BitVec 5, u.me.s r = if r = 0 ∨ r ≠ d then s.me.s r else s.me.plateRead (g.slotAt g.disp) 8) ∧
           u.memB = s.memB ∧ u.memC = s.memC))

/-- R205: `ald.d` of a doubleword in the own plate: the reply message enters the inbox with the value read, its address, and
the four low bits of the reply word. -/
def Obligations.AsyncLoadReplies : Prop :=
  ∀ (gd : Guard) (a b : BitVec 5) (off : Nat) (s : State),
    s.me.on gd = true → calm s → s.me.s a = plateVa s.cur off → off < 0x20000 → off % 8 = 0 →
    bitsOf (s.me.s b) 63 52 = 0 → roomAt s s.cur 0 → s.devBefore s.cur s.cur = false →
      let g := s.me.ring 0
      ∃ u, Completes (.aldD gd a b) s u ∧ u.me.ring 0 = { g with tail := g.tail + 1 } ∧
        u.me.resv 0 = s.me.resv 0 ∧
        u.me.plateWords (g.slotAt g.tail) 8 =
          [s.me.s b &&& 0x000FFFFFFFFFFFF0, s.me.work, BitVec.ofNat 64 (littleEndian s.me.plateByte off 8), s.me.s a,
            s.me.s b &&& 0xF, 0, 0, 0] ∧
        u.me.sregs = s.me.sregs ∧ u.memB = s.memB ∧ u.memC = s.memC

/-! ### Vector instructions -/

namespace Sys2Proof.Claims

/-- In `u` the lanes of the registers `ds` hold what `f` gives, where the guard lets a granted lane execute and `f` gives
something; every other lane, every other register and memory are those of `s` (R13, R207). -/
def lanesTake (s u : State) (gd : Guard) (ds : List (BitVec 5)) (f : BitVec 5 → Nat → Option Word) : Prop :=
  (∀ (r : BitVec 5) (i : Nat), i < 256 →
    u.me.v r.toNat i =
      if r ∈ ds ∧ i < s.me.lanes ∧ s.me.lane gd i = true then (f r i).getD (s.me.v r.toNat i) else s.me.v r.toNat i) ∧
  u.me.sregs = s.me.sregs ∧ u.me.supBank = s.me.supBank ∧ u.me.pregs = s.me.pregs ∧ u.me.fregs = s.me.fregs ∧
  u.me.lanes = s.me.lanes ∧ u.me.plate = s.me.plate ∧ u.me.rings = s.me.rings ∧ u.memB = s.memB ∧ u.memC = s.memC

/-- `ctl.user.index` advances by 1 when an instruction that rounds ran some lane in mode SR (R101). -/
def indexAfter (s u : State) (gd : Guard) (rounds : Bool) : Prop :=
  u.me.userIndex =
    if rounds = true ∧ s.me.modeCode = 5 ∧ s.me.execLanes gd ≠ [] then s.me.userIndex + 1 else s.me.userIndex

/-- Element `i` of v[r] in a format. -/
def el (c : Core) (r : BitVec 5) (t : FFmt) (i : Nat) : Nat := (c.v r.toNat i).toNat % 2 ^ t.width

/-- The float forms of R213, R214 and R223: guard, d, whether it rounds, the format, and the element from its operands. -/
def floatForm (c : Core) : Instr → Option (Guard × BitVec 5 × Bool × FFmt × (RMode → Nat → Nat))
  | .vaddFp gd d a b f => some (gd, d, true, fmtOf f, fun md i => fAdd (fmtOf f) md (el c a (fmtOf f) i) (el c b (fmtOf f) i))
  | .vsubFp gd d a b f => some (gd, d, true, fmtOf f, fun md i => fSub (fmtOf f) md (el c a (fmtOf f) i) (el c b (fmtOf f) i))
  | .vmulFp gd d a b f => some (gd, d, true, fmtOf f, fun md i => fMul (fmtOf f) md (el c a (fmtOf f) i) (el c b (fmtOf f) i))
  | .vdiv gd d a b f => some (gd, d, true, fmtOf f, fun md i => fDiv (fmtOf f) md (el c a (fmtOf f) i) (el c b (fmtOf f) i))
  | .vminFp gd d a b f => some (gd, d, false, fmtOf f, fun _ i => fMin (fmtOf f) (el c a (fmtOf f) i) (el c b (fmtOf f) i))
  | .vmaxFp gd d a b f => some (gd, d, false, fmtOf f, fun _ i => fMax (fmtOf f) (el c a (fmtOf f) i) (el c b (fmtOf f) i))
  | .vsqrt gd d a f => some (gd, d, true, fmtOf f, fun md i => fSqrt (fmtOf f) md (el c a (fmtOf f) i))
  | .vabsFp gd d a f => some (gd, d, false, fmtOf f, fun _ i => fAbs (fmtOf f) (el c a (fmtOf f) i))
  | .vfma gd d a b k =>
    let f := fmtOfCode (c.typeCode 9)
    some (gd, d, true, f, fun md i => fFma f md (2 ≤ c.negation) (c.negation % 2 == 1) (el c a f i) (el c b f i)
      (el c k f i))
  | .vrcp gd d a f => some (gd, d, false, fmtOf f, fun _ i => fRcp (fmtOf f) (el c a (fmtOf f) i))
  | .vrsqrt gd d a f => some (gd, d, false, fmtOf f, fun _ i => fRsqrt (fmtOf f) (el c a (fmtOf f) i))
  | .vexp2 gd d a f => some (gd, d, false, fmtOf f, fun _ i => fExp2 (fmtOf f) (el c a (fmtOf f) i))
  | .vlog2 gd d a f => some (gd, d, false, fmtOf f, fun _ i => fLog2 (fmtOf f) (el c a (fmtOf f) i))
  | _ => none

/-- What R215 computes at width `w`, from the unsigned readings of the two elements; 0 to 9 as in R174, then 10 to 15 min,
max, multiply, high multiply, saturating add and subtract, 16 absolute value. -/
def laneInt (w op u x y : Nat) : Nat :=
  let p : Int := if u = 1 then x else signed w x
  let q : Int := if u = 1 then y else signed w y
  let lo : Int := if u = 1 then 0 else -2 ^ (w - 1)
  let hi : Int := if u = 1 then 2 ^ w - 1 else 2 ^ (w - 1) - 1
  let clamp (e : Int) : Nat := (max lo (min hi e) % 2 ^ w).toNat
  match op with
  | 10 => if q < p then y else x
  | 11 => if p < q then y else x
  | 12 => x * y % 2 ^ w
  | 13 => mulDivResult w 1 u x y
  | 14 => clamp (p + q)
  | 15 => clamp (p - q)
  | 16 => (p.natAbs : Int) % 2 ^ w |>.toNat
  | _ => intResult w op u x y

/-- The integer forms of R215: operation, guard, d, a, b and B. -/
def laneIntForm : Instr → Option (Nat × Guard × BitVec 5 × BitVec 5 × BitVec 5 × BitVec 1)
  | .vaddInt gd d a b x => some (0, gd, d, a, b, x)
  | .vsubInt gd d a b x => some (1, gd, d, a, b, x)
  | .vand gd d a b x => some (2, gd, d, a, b, x)
  | .vor gd d a b x => some (3, gd, d, a, b, x)
  | .vxor gd d a b x => some (4, gd, d, a, b, x)
  | .vandn gd d a b x => some (5, gd, d, a, b, x)
  | .vshl gd d a b x => some (6, gd, d, a, b, x)
  | .vshr gd d a b x => some (7, gd, d, a, b, x)
  | .vrotl gd d a b x => some (8, gd, d, a, b, x)
  | .vminInt gd d a b x => some (10, gd, d, a, b, x)
  | .vmaxInt gd d a b x => some (11, gd, d, a, b, x)
  | .vmulInt gd d a b x => some (12, gd, d, a, b, x)
  | .vmulh gd d a b x => some (13, gd, d, a, b, x)
  | .vadds gd d a b x => some (14, gd, d, a, b, x)
  | .vsubs gd d a b x => some (15, gd, d, a, b, x)
  | .vabsInt gd d a => some (16, gd, d, a, 0, 0)
  | _ => none

/-- Lane `i` of a register in a move between lanes: 0 from the grant on (R219, R221). -/
def laneOr0 (c : Core) (r : BitVec 5) (i : Nat) : Nat := if i < c.lanes then (c.v r.toNat i).toNat else 0

/-- The moves of R219 and R221: guard, registers written, and the new element of register `r`, lane `i`. -/
def moveForm (c : Core) : Instr → Option (Guard × List (BitVec 5) × (BitVec 5 → Nat → Option Nat))
  | .vbcast gd d a => some (gd, [d], fun _ _ => some ((c.s a).toNat % 2 ^ c.moveWidth))
  | .vslideup gd d a b => some (gd, [d], fun _ i =>
      if (c.s b).toNat ≤ i then some (laneOr0 c a (i - (c.s b).toNat) % 2 ^ c.moveWidth) else none)
  | .vslidedn gd d a b => some (gd, [d], fun _ i => some (laneOr0 c a (i + (c.s b).toNat) % 2 ^ c.moveWidth))
  | .vperm gd d a b => some (gd, [d], fun _ i =>
      some (laneOr0 c a ((c.v b.toNat i).toNat % 2 ^ c.moveWidth) % 2 ^ c.moveWidth))
  | .vmov gd d a => some (gd, [d], fun _ i => some ((c.v a.toNat i).toNat % 2 ^ c.moveWidth))
  | .vins gd d a b => some (gd, [d], fun _ i =>
      if i = (c.s b).toNat then some ((c.s a).toNat % 2 ^ c.moveWidth) else none)
  | .vidx gd d => some (gd, [d], fun _ i => some (i % 2 ^ c.moveWidth))
  | .vpack4 gd d a => some (gd, [d], fun _ q =>
      some ((List.range 16).map fun t => laneOr0 c a (16 * q + t) % 16 * 16 ^ t).sum)
  | .vunp4 gd d a => some (gd, [d], fun _ i => some (laneOr0 c a (i / 16) / 16 ^ (i % 16) % 16))
  | .vpack6 gd d a b => some (gd, [d, b], fun r q =>
      if r = b then some ((List.range 32).map fun t => laneOr0 c a (32 * q + t) % 4 * 4 ^ t).sum
      else some ((List.range 16).map fun t => laneOr0 c a (16 * q + t) / 4 % 16 * 16 ^ t).sum)
  | .vunp6 gd d a b => some (gd, [d], fun _ i =>
      some (laneOr0 c a (i / 16) / 16 ^ (i % 16) % 16 * 4 + laneOr0 c b (i / 32) / 4 ^ (i % 32) % 4))
  | _ => none

/-- The reductions (false) and scans (true) of R220. -/
def reduceForm : Instr → Option (Bool × RedOp × Guard × BitVec 5 × BitVec 5)
  | .vrsum gd d a => some (false, .add, gd, d, a)
  | .vrmin gd d a => some (false, .min, gd, d, a)
  | .vrmax gd d a => some (false, .max, gd, d, a)
  | .vrand gd d a => some (false, .and, gd, d, a)
  | .vror gd d a => some (false, .or, gd, d, a)
  | .vrxor gd d a => some (false, .xor, gd, d, a)
  | .vssum gd d a => some (true, .add, gd, d, a)
  | .vsmin gd d a => some (true, .min, gd, d, a)
  | .vsmax gd d a => some (true, .max, gd, d, a)
  | .vsand gd d a => some (true, .and, gd, d, a)
  | .vsor gd d a => some (true, .or, gd, d, a)
  | .vsxor gd d a => some (true, .xor, gd, d, a)
  | _ => none

/-- Two integer elements combined at width `w` (R220). -/
def reduceInt (op : RedOp) (w u x y : Nat) : Nat :=
  match op with
  | .add => (x + y) % 2 ^ w
  | .min => laneInt w 10 u x y
  | .max => laneInt w 11 u x y
  | .and => x &&& y
  | .or => x ||| y
  | .xor => x ^^^ y

/-- The vector loads and stores of R211: store or load, guard, d, bytes and the address of lane `i`. -/
def laneAccessForm (c : Core) : Instr → Option (Bool × Guard × BitVec 5 × Nat × (Nat → Word))
  | .vld gd d a z => some (false, gd, d, 2 ^ z.toNat, fun i => BitVec.ofNat 64 ((c.s a).toNat + i * 2 ^ z.toNat))
  | .vlds gd d a b z => some (false, gd, d, 2 ^ z.toNat, fun i => BitVec.ofNat 64 ((c.s a).toNat + i * (c.s b).toNat))
  | .vldx gd d a b z => some (false, gd, d, 2 ^ z.toNat, fun i => c.s a + c.v b.toNat i)
  | .vst gd d a z => some (true, gd, d, 2 ^ z.toNat, fun i => BitVec.ofNat 64 ((c.s a).toNat + i * 2 ^ z.toNat))
  | .vsts gd d a b z => some (true, gd, d, 2 ^ z.toNat, fun i => BitVec.ofNat 64 ((c.s a).toNat + i * (c.s b).toNat))
  | .vstx gd d a b z => some (true, gd, d, 2 ^ z.toNat, fun i => c.s a + c.v b.toNat i)
  | _ => none

end Sys2Proof.Claims

/-- R213, R214, R223, R101, R207: lane-wise float instructions; the mode of a lane is that of R100 and R101. -/
def Obligations.FloatLaneResults : Prop :=
  ∀ (i : Instr) (gd : Guard) (d : BitVec 5) (rounds : Bool) (t : FFmt) (f : RMode → Nat → Nat) (s : State),
    s.me.lanes ≤ 256 → floatForm s.me i = some (gd, d, rounds, t, f) →
      ∃ u, Completes i s u ∧ indexAfter s u gd rounds ∧
        lanesTake s u gd [d] fun _ k => some (BitVec.ofNat 64 (f (s.modeAt s.cur k) k % 2 ^ t.width))

/-- R215, R207, R153: lane-wise integer instructions at the width of their type, 32 bits without a hint. -/
def Obligations.IntegerLaneResults : Prop :=
  ∀ (i : Instr) (op : Nat) (gd : Guard) (d a b : BitVec 5) (x : BitVec 1) (s : State),
    s.me.lanes ≤ 256 → laneIntForm i = some (op, gd, d, a, b, x) → s.me.typeCode 2 < 8 →
      let w := codeWidth (s.me.typeCode 2)
      let u := if 4 ≤ s.me.typeCode 2 then 1 else 0
      ∃ t, Completes i s t ∧ indexAfter s t gd false ∧
        lanesTake s t gd [d] fun _ k => some (BitVec.ofNat 64 (laneInt w op u ((s.me.v a.toNat k).toNat % 2 ^ w)
          ((if x = 1 then s.me.s b else s.me.v b.toNat k).toNat % 2 ^ w)))

/-- R219, R221: broadcasts, slides, permutes, moves, insertions, packs and unpacks. -/
def Obligations.LaneMoveResults : Prop :=
  ∀ (i : Instr) (gd : Guard) (ds : List (BitVec 5)) (f : BitVec 5 → Nat → Option Nat) (s : State),
    s.me.lanes ≤ 256 → i.wf = true → moveForm s.me i = some (gd, ds, f) →
      ∃ u, Completes i s u ∧ indexAfter s u gd false ∧
        lanesTake s u gd ds fun r k => (f r k).map (BitVec.ofNat 64)

/-- R216 to R218: `vcmp` writes the bits of the executing lanes, keeps those of the other granted lanes and clears the rest; a
NaN operand makes only `ne` hold. Conversions of each executing lane, scaled by the low byte of s[b] in `vcvt`, with the
residual in v[b] in `vcvn` (R109). What a residual rounds to, and that one of zero is +0, is the model's choice (log 65). -/
def Obligations.VectorComparesAndConversions : Prop :=
  (∀ (gd : Guard) (d a b : BitVec 5) (x : BitVec 1) (cc : BitVec 3) (t : EType) (s : State),
      s.me.lanes ≤ 256 → d.toNat < 16 → etypeOf (s.me.typeCode 9) (s.me.fmt s.me.typeFmt) = some t →
        ∃ p : Pred, Completes (.vcmp gd d a b x cc) s (s.regs fun c => c.setP d.toNat p) ∧
          ∀ k, k < 256 → p.getLsbD k =
            if s.me.lanes ≤ k then false
            else if s.me.lane gd k = false then (s.me.p d.toNat).getLsbD k
            else condHolds cc ((t.val 0 ((s.me.v a.toNat k).toNat % 2 ^ t.width)).cmp
              (t.val 0 ((if x = 1 then s.me.s b else s.me.v b.toNat k).toNat % 2 ^ t.width)))) ∧
  (∀ (gd : Guard) (d a b : BitVec 5) (code : BitVec 4) (src dst : EType) (s : State),
      s.me.lanes ≤ 256 → etypeOf code.toNat (s.me.fmt s.me.destFmt) = some dst →
        (etypeOf (s.me.typeCode 9) (s.me.fmt s.me.typeFmt) = some src →
          ∃ u, Completes (.vcvt gd d a b code) s u ∧ indexAfter s u gd true ∧
            lanesTake s u gd [d] fun _ k => some (BitVec.ofNat 64
              ((convert src dst ((s.me.s b).setWidth 8).toInt (s.modeAt s.cur k) ((s.me.v a.toNat k).toNat % 2 ^ src.width)).bits
                % 2 ^ dst.width))) ∧
        (∀ f, dst = .flt f → d ≠ b →
          let g := fmtOfCode (s.me.typeCode 9)
          let r (k : Nat) := convert (.flt g) dst 0 (s.modeAt s.cur k) ((s.me.v a.toNat k).toNat % 2 ^ g.width)
          ∃ u, Completes (.vcvn gd d a b code) s u ∧ indexAfter s u gd true ∧
            lanesTake s u gd [d, b] fun q k => some (BitVec.ofNat 64
              (if q = d then (r k).bits % 2 ^ f.width
               else residual g f ((s.me.v a.toNat k).toNat % 2 ^ g.width) (r k) % 2 ^ g.width))))

/-- R220, R108, R101: an integer reduction combines the executing lanes, in any order, into s[d], and a scan gives every
executing lane the combination of the executing lanes up to it. A float reduction combines the lanes below the grant in
the pairwise tree, a guarded-off lane counting as the identity, and a scan takes the steps of R220. With no executing lane
nothing is written. -/
def Obligations.ReductionsAndScans : Prop :=
  ∀ (i : Instr) (scan : Bool) (op : RedOp) (gd : Guard) (d a : BitVec 5) (s : State),
    s.me.lanes ≤ 256 → reduceForm i = some (scan, op, gd, d, a) →
    (s.me.typeCode 9 < 8 →
      let w := codeWidth (s.me.typeCode 9)
      let u := if 4 ≤ s.me.typeCode 9 then 1 else 0
      let upTo (k : Nat) := ((s.me.execLanes gd).filter (· ≤ k)).map fun j => (s.me.v a.toNat j).toNat % 2 ^ w
      let all (k : Nat) := (upTo k).tail.foldl (reduceInt op w u) ((upTo k).headD 0)
      ∃ t, Completes i s t ∧ indexAfter s t gd false ∧
        if scan then lanesTake s t gd [d] fun _ k => some (BitVec.ofNat 64 (all k))
        else lanesTake (s.regs fun c => c.setS d (if s.me.execLanes gd = [] then c.s d else widen w u (all 255))) t gd []
          fun _ _ => none) ∧
    (∀ t : FFmt, etypeOf (s.me.typeCode 9) (s.me.fmt 0) = some (.flt t) → 8 ≤ s.me.typeCode 9 →
      let l := (List.range s.me.lanes).map fun k =>
        if s.me.lane gd k then (s.me.v a.toNat k).toNat % 2 ^ t.width else op.identity (.flt t)
      let step (j x y : Nat) := op.combine (.flt t) (s.modeAt s.cur j) x y
      ∃ u, Completes i s u ∧ indexAfter s u gd (decide (op = .add ∧ 2 ≤ l.length)) ∧
        if scan then
          lanesTake s u gd [d] fun _ k => some (BitVec.ofNat 64 ((scanSteps step 8 1 l).getD k 0 % 2 ^ t.width))
        else
          u.me.s d = (if d = 0 then 0 else if s.me.execLanes gd = [] then s.me.s d
            else BitVec.ofNat 64 ((treeReduce step 8 1 l).headD 0)) ∧
            (∀ r, r ≠ d → u.me.s r = s.me.s r) ∧ u.me.vregs = s.me.vregs ∧ u.memB = s.memB ∧ u.memC = s.memC)

/-- R221, R222: `vext` reads one lane into s[d], 0 from the grant on; `fmtld` and `fmtrd` move the fmt registers. -/
def Obligations.ExtractAndFormatRegisters : Prop :=
  ∀ (gd : Guard) (d a b : BitVec 5) (s : State), s.me.on gd = true →
    Completes (.vext gd d a b) s (s.regs fun c => c.setS d
      (let w := c.moveWidth
       let v := laneOr0 c a (c.s b).toNat % 2 ^ w
       if c.typeCode 6 < 4 then BitVec.ofInt 64 (signed w v) else BitVec.ofNat 64 v)) ∧
    (a.toNat < 8 → Completes (.fmtrd gd d a) s (s.regs fun c => c.setS d (c.fregs.getD a.toNat 0))) ∧
    (d.toNat < 8 → ∃ u, Completes (.fmtld gd d a) s u ∧ u.me.fmt d.toNat = s.me.s a ∧
      (∀ k, k ≠ d.toNat → u.me.fmt k = s.me.fmt k) ∧ u.me.sregs = s.me.sregs ∧ u.me.vregs = s.me.vregs)

/-- R209, R208: a `claim` asks for a slot of the pool's lottery and waits; once a slot has granted it lanes
(SlotsAndPlacement) it gives s[d] the lanes held. `vrelease` gives lanes up; lanes held before and after keep their
contents. That a lane given up holds nothing, so that it reads 0, is the model's choice (log 5). A count that is no multiple of 16 or above 256 takes trap 0x0D. -/
def Obligations.LaneClaims : Prop :=
  ∀ (gd : Guard) (d a : BitVec 5) (k : BitVec 9) (s : State), s.me.on gd = true →
    let want := if a = 0 then k.toNat else (s.me.s a).toNat
    (want % 16 ≠ 0 ∨ 256 < want → s.me.pending = none → Traps (.claim gd d a k) s 0x0D (BitVec.ofNat 64 want) ∧
      Traps (.vrelease gd d a k) s 0x0D (BitVec.ofNat 64 want)) ∧
    (want % 16 = 0 → want ≤ 256 → s.me.lanes ≤ 256 →
      let after (i : Instr) (g q : Nat) : Prop := ∃ u, Completes i s u ∧ u.me.lanes = g ∧ u.me.demand = q ∧
        u.me.s d = (if d = 0 then 0 else BitVec.ofNat 64 g) ∧ (∀ r, r ≠ d → u.me.s r = s.me.s r) ∧
        (∀ (r : BitVec 5) i, i < s.me.lanes → i < g → u.me.v r.toNat i = s.me.v r.toNat i) ∧
        (∀ (r : BitVec 5) i, g ≤ i → i < 256 → i < s.me.lanes → u.me.v r.toNat i = 0) ∧
        u.me.plate = s.me.plate ∧ u.memB = s.memB ∧ u.memC = s.memC
      let q := s.cluster (clusterOf s.cur)
      (q.claimGrants.contains s.cur = true →
        Completes (.claim gd d a k) s
          ((s.setCluster (clusterOf s.cur) { q with claimGrants := q.claimGrants.filter (· != s.cur) }).regs fun c =>
            c.setS d (BitVec.ofNat 64 c.lanes))) ∧
      (q.claimGrants.contains s.cur = false → (∀ x ∈ q.claims, x.1 ≠ s.cur) → s.limited s.me.own 5 (clusterOf s.cur) = false →
        mayQueue 5 s.me.own (s.entryOwners 5 (clusterOf s.cur)) = true →
          ∃ t, exec (.claim gd d a k) s = .next t ∧ t.me = s.me ∧
            (t.cluster (clusterOf s.cur)).claims = q.claims ++ [(s.cur, want)] ∧ t.memB = s.memB ∧ t.memC = s.memC) ∧
      after (.vrelease gd d a k) (s.me.lanes - min want s.me.lanes) 0)

/-- R211, R212: vector loads and stores whose executing lanes all lie in the own plate, aligned: every executing lane takes
the bytes at its address; stores are made, and join the coherence order (R78), in increasing lane order. -/
def Obligations.OwnPlateVectorAccesses : Prop :=
  ∀ (i : Instr) (store : Bool) (gd : Guard) (d : BitVec 5) (z : Nat) (ea : Nat → Word) (off : Nat → Nat) (s : State),
    s.me.lanes ≤ 256 → laneAccessForm s.me i = some (store, gd, d, z, ea) → calm s →
    (∀ k, k ∈ s.me.execLanes gd → ea k = plateVa s.cur (off k) ∧ off k < 0x20000 ∧ off k % z = 0) →
      if store then
        ∃ p, Completes i s (if s.me.execLanes gd = [] then s else { s.regs (fun c => { c with plate := p }) with
            coherence := s.coherence ++ (s.me.execLanes gd).map fun k => ⟨.plate s.cur, off k, z, s.me.own⟩ }) ∧
          ∀ x, ({ s.me with plate := p } : Core).plateByte x =
            (s.me.execLanes gd).foldl (fun v k =>
              if off k ≤ x ∧ x < off k + z then byteAt (s.me.v d.toNat k) (x - off k) else v) (s.me.plateByte x)
      else
        ∃ u, Completes i s u ∧
          lanesTake s u gd [d] fun _ k => some (BitVec.ofNat 64 (littleEndian s.me.plateByte (off k) z))

/-! ### Jobs, agents and accumulator tiles -/

namespace Sys2Proof.Claims

/-- The job instructions of R228, R240 and R246: guard, d, a, bytes of the card, and the checks of R234 on its words. -/
def jobForm (s : State) : Instr →
    Option (Guard × BitVec 5 × BitVec 5 × Nat × (List Word → Except (BitVec 8 × Word) Spec))
  | .mjob gd d a => some (gd, d, a, 64, s.matrixCard s.cur)
  | .cjob gd d a => some (gd, d, a, 192, s.copyCard s.cur)
  | .coll gd d a => some (gd, d, a, 64, s.collCard s.cur)
  | _ => none

/-- An element of a store to the accumulator window: its offset and data. -/
def accStore (g off : Nat) (x : Word) (a : Access) : Prop :=
  a.dest = .cluster g ∧ a.addr = off ∧ a.size = 4 ∧ a.op = .store x ∧ a.rel = none

end Sys2Proof.Claims

/-- R226, R234: a job instruction whose card passes its checks takes the lowest-numbered free entry of its cluster's queue
once the lottery of class 6 has granted one, with the next SEQ, and s[d] names it; before the grant it asks for one and
waits. R227, R236, R237: `jpoll` gives a job's status and `jwait` waits for it to end; a failure that they return frees its
entry, `jwait` by trap 0x0E; `jcancel` cancels a queued or suspended job at once, asks a running one to end, fails a
collective at its other participants with cause 0x08 (R248), and does nothing to one that has ended. -/
def Obligations.JobInstructions : Prop :=
  (∀ (i : Instr) (gd : Guard) (d a : BitVec 5) (len off : Nat) (card : List Word → Except (BitVec 8 × Word) Spec) (p : Spec)
     (s : State),
     jobForm s i = some (gd, d, a, len, card) → s.me.on gd = true → ownBlock s.cur (s.me.s a) len = .ok off →
     card (s.me.plateWords off (len / 8)) = .ok p →
       let g := clusterOf s.cur
       let q := s.cluster g
       (q.admitGrants.contains s.cur = true → s.rcReady s.cur = true → ∀ e, e < 32 → entryFree (q.job e) = true →
         (∀ k, k < e → entryFree (q.job k) = false) →
         ∃ t j, Completes i s t ∧ (t.cluster g).job e = some j ∧ j.state = .queued ∧ j.seq = q.jobSeq + 1 ∧ j.type = p.type ∧
           j.owner = s.me.own ∧ j.sup = s.me.sup ∧ j.issuer = s.cur ∧ j.work = s.me.work ∧ j.card = p.card ∧ j.prog = 0 ∧
           j.cause = 0 ∧ (t.cluster g).jobSeq = q.jobSeq + 1 ∧
           (∀ k, k ≠ e → (t.cluster g).job k = q.job k) ∧
           t.me.s d = (if d = 0 then 0
             else BitVec.ofNat 64 (g * 2 ^ 40 + (q.jobSeq + 1).toNat * 2 ^ 8 + p.type * 2 ^ 6 + e)) ∧
           (∀ r, r ≠ d → t.me.s r = s.me.s r) ∧ t.me.plate = s.me.plate ∧ t.memB = s.memB ∧ t.memC = s.memC) ∧
       (q.admitGrants.contains s.cur = false → q.admits.contains s.cur = false → s.limited s.me.own 6 g = false →
         ∃ t, exec i s = .next t ∧ t.me = s.me ∧ (t.cluster g).admits = q.admits ++ [s.cur] ∧
           (t.cluster g).jobs = q.jobs)) ∧
  (∀ (gd : Guard) (d a : BitVec 5) (e : Nat) (j : Job) (s : State), s.me.on gd = true →
     let g := clusterOf s.cur
     (s.findJob s.cur (s.me.s a) = .bad → s.me.pending = none →
       Traps (.jpoll gd d a) s 0x05 (s.me.s a) ∧ Traps (.jwait gd d a) s 0x05 (s.me.s a) ∧
       Traps (.jcancel gd a) s 0x05 (s.me.s a)) ∧
     (s.findJob s.cur (s.me.s a) = .gone →
       Completes (.jpoll gd d a) s (s.regs fun c => c.setS d 0) ∧
       Completes (.jwait gd d a) s (s.regs fun c => c.setS d 0) ∧ Completes (.jcancel gd a) s s) ∧
     (s.findJob s.cur (s.me.s a) = .live e j →
       let status := BitVec.ofNat 64 (j.cause * 2 ^ 56 + j.state.code * 2 ^ 52 + if j.type = 3 then 0 else j.prog % 2 ^ 48)
       (∃ t, Completes (.jpoll gd d a) s t ∧ (∀ r, t.me.s r = (s.me.setS d status).s r) ∧
         (j.state ≠ .failed ∨ j.wakeDue = false → t.me = s.me.setS d status) ∧
         (j.state = .failed → (t.cluster g).job e = none) ∧
         (∀ k, (k ≠ e ∨ j.state ≠ .failed) → (t.cluster g).job k = (s.cluster g).job k)) ∧
       (j.state = .done ∨ j.state = .cancelled → Completes (.jwait gd d a) s (s.regs fun c => c.setS d status)) ∧
       (j.state = .queued ∨ j.state = .running ∨ j.state = .suspended →
         exec (.jwait gd d a) s = .next (s.regs fun c => { c with jwaitAt := some c.pc })) ∧
       (j.state = .failed → s.me.pending = none →
         exec (.jwait gd d a) s =
           .next (((s.freeJob g e).giveUp s.cur).takeTrap s.cur 0x0E status s.me.chainStart)) ∧
       (j.state = .queued ∨ j.state = .suspended → j.type ≠ 3 →
         ∃ t, Completes (.jcancel gd a) s t ∧
           (t.cluster g).job e = some { j with state := .cancelled, wakeDue := false, faulted := false } ∧
           (∀ k, k ≠ e → (t.cluster g).job k = (s.cluster g).job k) ∧ (j.wakeDue = false → t.cores = s.cores) ∧ t.memB = s.memB) ∧
       (j.state = .queued ∨ j.state = .suspended ∨ j.state = .running → j.type = 3 →
         ∃ t, Completes (.jcancel gd a) s t ∧
           (t.cluster g).job e = some { j with state := .cancelled, wakeDue := false, faulted := false } ∧
           (∀ h k x, (0, h) ∈ s.members j.owner j.card → (h ≠ g ∨ k ≠ e) → k < 32 → (s.cluster h).job k = some x →
             Store.find h s.clusters = some (s.cluster h) → x.partOf j.card = true → x.drained = false →
             s.groupTable x.owner = s.groupTable j.owner →
               ∃ y, (t.cluster h).job k = some y ∧ y.state = .failed ∧ y.cause = 8) ∧
           (j.wakeDue = false → t.cores = s.cores) ∧ t.memB = s.memB) ∧
       (j.state = .done ∨ j.state = .cancelled → Completes (.jcancel gd a) s s) ∧
       (j.state = .failed → Completes (.jcancel gd a) s (s.freeJob g e)) ∧
       (j.state = .running → j.type ≠ 3 →
         ∃ t, Completes (.jcancel gd a) s t ∧ (t.cluster g).job e = some { j with cancel := true } ∧
           (∀ k, k ≠ e → (t.cluster g).job k = (s.cluster g).job k) ∧ t.cores = s.cores ∧ t.memB = s.memB)))

/-- R243: `subs` starts an agent in the lowest free of the eight steep slots, `rack` in the lowest free rack slot, once the
core's older accesses let it read the descriptor; s[d] and, for a tile kind, the tile's AGENT take the handle; a descriptor that
fails a check takes trap 0x0E with the cause. `unsubs` and `unrack` stop the agent whose handle is in s[a]: its slot is
freed, its tile's AGENT becomes 0, and a fill or drain in progress ends as a release does; `unrack` first waits for the
records accepted to be written, and takes trap 0x0E with cause 0x0B while a ring names the rack as its link. A handle of the
other set, or not in use, takes trap 0x05. -/
def Obligations.AgentsStartAndStop : Prop :=
  (∀ (gd : Guard) (d a : BitVec 5) (off h : Nat) (s : State),
    s.me.on gd = true → ownBlock s.cur (s.me.s a) 192 = .ok off → s.rcReady s.cur = true →
      let w := s.me.plateWords off 24
      let starts (i : Instr) (first : Nat) : Prop :=
        first ≤ h ∧ h < first + 8 ∧ Store.find h s.me.agents = none ∧
        (∀ k, first ≤ k → k < h → (Store.find k s.me.agents).isSome = true) ∧
        ∃ t x, Completes i s t ∧ Store.find h t.me.agents = some x ∧
          x.desc = w ∧ x.state = .running ∧ x.elem = 0 ∧ x.count = 0 ∧ x.owner = s.me.own ∧
          (∀ k, k ≠ h → Store.find k t.me.agents = Store.find k s.me.agents) ∧
          (ADesc.tiled w = true → (t.me.tile (ADesc.tile w)).agent.toNat = h) ∧
          (∀ k, (ADesc.tiled w = false ∨ k ≠ ADesc.tile w) → t.me.tile k = s.me.tile k) ∧
          t.me.s d = (if d = 0 then 0 else BitVec.ofNat 64 h) ∧ (∀ r, r ≠ d → t.me.s r = s.me.s r) ∧
          t.me.plate = s.me.plate ∧ t.me.rings = s.me.rings ∧ t.memB = s.memB ∧ t.memC = s.memC
      (s.agentCard s.cur false w = .ok h → starts (.subs gd d a) 1) ∧
      (s.agentCard s.cur true w = .ok h → starts (.rack gd d a) 0x81) ∧
      (∀ cause, s.me.pending = none →
        (s.agentCard s.cur false w = .error cause → Traps (.subs gd d a) s 0x0E (BitVec.ofNat 64 cause)) ∧
        (s.agentCard s.cur true w = .error cause → Traps (.rack gd d a) s 0x0E (BitVec.ofNat 64 cause)))) ∧
  (∀ (gd : Guard) (a : BitVec 5) (s : State), s.me.on gd = true →
      let h := (s.me.s a).toNat
      let linked : Prop := ∃ r ∈ s.me.rings.toList, r.lv = true ∧ r.lr = true ∧ r.lrack.toNat = h
      (∀ x, Store.find h s.me.agents = some x →
        let k := ADesc.tile x.desc
        let stops (i : Instr) : Prop := ∃ t, Completes i s t ∧ Store.find h t.me.agents = none ∧
          (∀ q, q ≠ h → Store.find q t.me.agents = Store.find q s.me.agents) ∧
          (ADesc.tiled x.desc = true → (s.me.tile k).agent.toNat = h →
            (t.me.tile k).agent = 0 ∧
            (t.me.tile k).state =
              if (s.me.tile k).state = .filling ∨ (s.me.tile k).state = .draining then .empty else (s.me.tile k).state) ∧
          (ADesc.tiled x.desc = false ∨ (s.me.tile k).agent.toNat ≠ h ∨ (s.me.tile k).state ≠ .filling →
            t.me.plate = s.me.plate) ∧
          t.me.sregs = s.me.sregs ∧ t.me.rings = s.me.rings ∧ t.memB = s.memB ∧ t.memC = s.memC
        (1 ≤ h → h ≤ 8 → stops (.unsubs gd a)) ∧
        (0x81 ≤ h → h ≤ 0x88 → ¬linked → (x.state = .running → x.buf = []) → stops (.unrack gd a)) ∧
        (0x81 ≤ h → h ≤ 0x88 → linked → s.me.pending = none → Traps (.unrack gd a) s 0x0E 0x0B)) ∧
      (s.me.pending = none →
        (¬(1 ≤ h ∧ h ≤ 8) ∨ Store.find h s.me.agents = none → Traps (.unsubs gd a) s 0x05 (s.me.s a)) ∧
        (¬(0x81 ≤ h ∧ h ≤ 0x88) ∨ Store.find h s.me.agents = none → Traps (.unrack gd a) s 0x05 (s.me.s a))))

/-- R239: `aclr` stores +0 to the 1,024 elements of a tile the core may use; `awrr` stores the elements of the executing
lanes below 32 to a row, and `ardr` reads a row into the executing lanes, 0 from lane 32 on; with no executing lane they do
nothing, which is the model's reading (log 54). A tile number above 127, or a row above 31, takes trap 0x05. -/
def Obligations.AccumulatorInstructions : Prop :=
  ∀ (gd : Guard) (d a b : BitVec 5) (s : State), s.me.lanes ≤ 256 →
    let g := clusterOf s.cur
    let t := (s.me.s a).toNat
    let r := (s.me.s b).toNat
    let l := (s.me.execLanes gd).filter (· < 32)
    (s.me.execLanes gd = [] → Completes (.ardr gd d a b) s s ∧ Completes (.awrr gd d a b) s s) ∧
    (127 < t → s.me.pending = none →
      (s.me.on gd = true → Traps (.aclr gd a) s 0x05 (s.me.s a)) ∧
      (s.me.execLanes gd ≠ [] → Traps (.ardr gd d a b) s 0x05 (s.me.s a) ∧ Traps (.awrr gd d a b) s 0x05 (s.me.s a))) ∧
    (t ≤ 127 → 31 < r → s.me.pending = none → s.me.execLanes gd ≠ [] →
      Traps (.ardr gd d a b) s 0x05 (s.me.s b) ∧ Traps (.awrr gd d a b) s 0x05 (s.me.s b)) ∧
    (t ≤ 127 → s.accUse s.cur g t = none → calm s → s.uscCount s.cur .cl + 1024 ≤ 4095 →
      (s.me.on gd = true → ∃ u, Completes (.aclr gd a) s u ∧ u.me.pend.length = 1024 ∧
        (∀ k, k < 1024 → ∃ x, u.me.pend[k]? = some x ∧ accStore g (4096 * t + 4 * k) 0 x) ∧
        u.me.sregs = s.me.sregs ∧ u.me.vregs = s.me.vregs ∧ u.memB = s.memB) ∧
      (r ≤ 31 → s.me.execLanes gd ≠ [] →
        (∃ u, Completes (.awrr gd d a b) s u ∧ u.me.pend.length = l.length ∧
          (∀ k (h : k < l.length), ∃ x, u.me.pend[k]? = some x ∧
            accStore g (4096 * t + 128 * r + 4 * l[k]) (s.me.v d.toNat l[k]) x) ∧
          u.me.sregs = s.me.sregs ∧ u.me.vregs = s.me.vregs ∧ u.memB = s.memB) ∧
        (∃ u, exec (.ardr gd d a b) s = .next u ∧ u.me.hold = .reply ∧ u.me.pc = s.me.pc + 4 ∧
          lanesTake s u gd [d] fun _ k => some (BitVec.ofNat 64
            (if k < 32 then littleEndian (s.cluster g).accByte (4096 * t + 128 * r + 4 * k) 4 else 0)))))

/-! ### Trees, draws, rings and system instructions -/

namespace Sys2Proof.Claims

/-- A tree after an update: leaves, EXP, LIMIT, and SEQ one higher; it belongs to the owner (R249, R250). -/
def treeIs (x y : Tree) (o : Nat) (raw : Nat → Nat) (e : BitVec 8) (limit : Nat) : Prop :=
  (∀ k, k < 256 → (y.rawAt k).toNat = raw k) ∧ y.exp = e ∧ y.limit = limit ∧ y.seq = x.seq + 1 ∧ y.tag = some o

/-- The updates of R255 to R259 with the operands they accept: guard, tree, the leaves, EXP and LIMIT after, and whether the
update rounds. -/
def treeUpdateForm (s : State) (x : Tree) : Instr → Option (Guard × BitVec 5 × (Nat → Nat) × BitVec 8 × Nat × Bool)
  | .wclr gd t a =>
    if -128 ≤ (s.me.s a).toInt ∧ (s.me.s a).toInt ≤ 127 then
      some (gd, t, fun _ => 0, (s.me.s a).setWidth 8, 256, false) else none
  | .wset gd t a b =>
    if (s.me.s a).toNat < 256 then
      some (gd, t, fun k => if k = (s.me.s a).toNat then min (s.me.s b).toNat (2 ^ 32 - 1) else (x.rawAt k).toNat, x.exp,
        x.limit, false)
    else none
  | .wadd gd t a b =>
    if (s.me.s a).toNat < 256 then
      some (gd, t, fun k =>
        if k = (s.me.s a).toNat then (max 0 (min ((x.rawAt k).toNat + (s.me.s b).toInt) (2 ^ 32 - 1))).toNat
        else (x.rawAt k).toNat, x.exp, x.limit, false)
    else none
  | .wldv gd t a b =>
    if (s.me.s b).toNat < 256 then
      some (gd, t, fun k =>
        let f := (s.me.s b).toNat
        if f ≤ k ∧ k < f + min s.me.lanes (256 - f) then
          roundMass x.exp.toInt (f32.val ((s.me.v a.toNat (k - f)).toNat % 2 ^ 32)) (s.modeAt s.cur (k - f))
        else (x.rawAt k).toNat, x.exp, x.limit, s.me.lanes != 0)
    else none
  | .wexp gd t a =>
    if -128 ≤ (s.me.s a).toInt ∧ (s.me.s a).toInt ≤ 127 then
      some (gd, t, fun k => roundMass (s.me.s a).toInt (.fin ⟨false, (x.rawAt k).toNat, x.exp.toInt, false⟩) (s.modeAt s.cur k),
        (s.me.s a).setWidth 8, x.limit, true)
    else none
  | .wcut gd t a =>
    if (s.me.s a).toNat < 2 ^ 32 then
      some (gd, t, fun k => (x.rawAt k).toNat, x.exp,
        (if x.root = 0 then x.limit else
          1 + firstIndex (fun i => decide (max 1 (((s.me.s a).toNat * x.root + 2 ^ 32 - 1) / 2 ^ 32) ≤ x.prefixSum (i + 1)))
            (x.limit - 1)), false)
    else none
  | .wuncut gd t a => some (gd, t, fun k => (x.rawAt k).toNat, x.exp, if a = 0 then 256 else min (s.me.s a).toNat 256, false)
  | _ => none

/-- The queries of R260 to R262: guard, d, tree, and the value of s[d]; s[d+1] takes SEQ. -/
def treeQueryForm (s : State) (x : Tree) : Instr → Option (Guard × BitVec 5 × BitVec 5 × Nat)
  | .wget gd d t b =>
    if (s.me.s b).toNat < 256 then
      some (gd, d, t, if (s.me.s b).toNat < x.limit then (x.rawAt (s.me.s b).toNat).toNat else 0) else none
  | .wsum gd d t => some (gd, d, t, x.prefixSum 256)
  | .wpre gd d t b => if (s.me.s b).toNat ≤ 256 then some (gd, d, t, x.prefixSum (s.me.s b).toNat) else none
  | .wfind gd d t b =>
    some (gd, d, t, if x.prefixSum 256 = 0 then 256 else
      x.findLeaf ((s.me.s b).toNat % 2 ^ 32 * x.prefixSum 256 / 2 ^ 32))
  | .wdraw gd d t =>
    some (gd, d, t, if x.prefixSum 256 = 0 then 256 else
      x.findLeaf ((s.userDraw s.cur 0 0x13).x0.toNat * x.prefixSum 256 / 2 ^ 32))
  | _ => none

end Sys2Proof.Claims

/-- R249, R255 to R259: the updates of a sum tree that the core may use. -/
def Obligations.TreeUpdates : Prop :=
  ∀ (i : Instr) (gd : Guard) (t : BitVec 5) (raw : Nat → Nat) (e : BitVec 8) (limit : Nat) (rounds : Bool) (s : State),
    let g := clusterOf s.cur
    ∀ x, x = (s.cluster g).tree t.toNat → treeUpdateForm s x i = some (gd, t, raw, e, limit, rounds) →
    s.me.on gd = true → t.toNat < 8 → s.treeUse s.cur t.toNat = none → s.rcReady s.cur = true →
      ∃ u, Completes i s u ∧ treeIs x ((u.cluster g).tree t.toNat) (x.tag.getD s.me.own) raw e limit ∧
        (∀ k, k ≠ t.toNat → (u.cluster g).tree k = (s.cluster g).tree k) ∧
        u.me.userIndex = (if rounds && s.me.modeCode == 5 then s.me.userIndex + 1 else s.me.userIndex) ∧
        u.me.sregs = s.me.sregs ∧ u.me.vregs = s.me.vregs ∧ u.me.plate = s.me.plate ∧ u.memB = s.memB ∧ u.memC = s.memC

/-- R256, R260 to R262, R268, R269: `wld` and `wst` with the own plate; the queries of a tree, `wseq`, and `wdraw`, which
finds a leaf for a draw of the user streams. -/
def Obligations.TreeLoadsAndQueries : Prop :=
  ∀ (gd : Guard) (d t a b : BitVec 5) (s : State),
    let g := clusterOf s.cur
    let x := (s.cluster g).tree t.toNat
    s.me.on gd = true → t.toNat < 8 → s.treeUse s.cur t.toNat = none → calm s →
      (∀ i v, treeQueryForm s x i = some (gd, d, t, v) → i.wf = true →
        ∃ u, Completes i s u ∧ u.me.s d = BitVec.ofNat 64 v ∧ u.me.s (d + 1) = x.seq.setWidth 64 ∧
          (∀ r, r ≠ d → r ≠ d + 1 → u.me.s r = s.me.s r) ∧
          (u.cluster g).tree t.toNat = { x with tag := some (x.tag.getD s.me.own) } ∧
          u.me.userIndex = (match i with | .wdraw _ _ _ => s.me.userIndex + 1 | _ => s.me.userIndex) ∧
          u.me.plate = s.me.plate ∧ u.memB = s.memB ∧ u.memC = s.memC) ∧
      (∃ u, Completes (.wseq gd d t) s u ∧ u.me.s d = (if d = 0 then 0 else x.seq.setWidth 64) ∧
        (∀ r, r ≠ d → u.me.s r = s.me.s r) ∧ u.memB = s.memB) ∧
      (∀ n off, (s.me.s b).toNat = n → n ≤ 256 → s.me.s a = plateVa s.cur off → off % 4 = 0 → off + 4 * n ≤ 0x20000 →
        ∃ u, Completes (.wld gd t a b) s u ∧
          treeIs x ((u.cluster g).tree t.toNat) (x.tag.getD s.me.own)
            (fun k => if k < n then littleEndian s.me.plateByte (off + 4 * k) 4 else 0) x.exp 256 ∧
          u.me.sregs = s.me.sregs ∧ u.me.plate = s.me.plate ∧ u.memB = s.memB) ∧
      (∀ off, s.me.s b = plateVa s.cur off → off % 4 = 0 → off + 1024 ≤ 0x20000 →
        ∃ u, Completes (.wst gd d t b) s u ∧ u.me.s d = (if d = 0 then 0 else x.seq.setWidth 64) ∧
          (∀ k, k < 256 → littleEndian u.me.plateByte (off + 4 * k) 4 =
            if k < x.limit then (x.rawAt k).toNat else 0) ∧
          (∀ y, (y < off ∨ off + 1024 ≤ y) → u.me.plateByte y = s.me.plateByte y) ∧ u.memB = s.memB)

/-- R266 to R268: `rnd` writes the next 64 bits of the owner's user streams, and advances `ctl.user.index`; the vector form
gives every executing lane its own; `pdrop` sets the bit of each executing lane whose draw lies below s[a], clears the
others' and the bits from the grant on. -/
def Obligations.RandomDraws : Prop :=
  ∀ (gd : Guard) (d a : BitVec 5) (s : State), s.me.lanes ≤ 256 →
    (s.me.on gd = true → Completes (.rnd gd d) s (s.regs fun c =>
      { c.setS d (s.userDraw s.cur 0 0x10).lo with userIndex := c.userIndex + 1 })) ∧
    (∃ u, Completes (.rndV gd d) s u ∧
      u.me.userIndex = (if s.me.execLanes gd = [] then s.me.userIndex else s.me.userIndex + 1) ∧
      lanesTake s u gd [d] fun _ k =>
        some (if k % 2 = 0 then (s.userDraw s.cur (k / 2) 0x10).lo else (s.userDraw s.cur (k / 2) 0x10).hi)) ∧
    (d.toNat < 16 → ∃ p : Pred,
      Completes (.pdrop gd d a) s (s.regs fun c => { c.setP d.toNat p with
        userIndex := if s.me.execLanes gd = [] then c.userIndex else c.userIndex + 1 }) ∧
      ∀ k, k < 256 → p.getLsbD k =
        if s.me.lanes ≤ k then false
        else if s.me.lane gd k = false then (s.me.p d.toNat).getLsbD k
        else decide (((s.userDraw s.cur (k / 4) 0x12).word k).toNat < min (s.me.s a).toNat (2 ^ 32)))

/-- R273 to R275, R134: `splice` pushes a record of kind 4 with its SSEQ to a program ring with a free slot; `rbind` puts
the words of a record that passes its checks into a free descriptor; `runbind` frees one whose ring is empty. -/
def Obligations.SplicesAndRingBinding : Prop :=
  (∀ (gd : Guard) (a b : BitVec 5) (t j off : Nat) (s : State),
    s.me.on gd = true → calm s → s.me.pushRec = none → s.pushTarget s.cur (s.me.s a) = some (.ring t j) →
    s.me.s b = plateVa s.cur off →
    off % 64 = 0 → off ≤ 0x1FFC0 → roomAt s t j →
      let r0 := s.me.plateRec off
      ∃ u, Completes (.splice gd a b) s u ∧
        delivers s u t j (fun r =>
          (wordAt r 0).toNat = 4 + s.cur * 2 ^ 13 + (wordAt r0 0).toNat / 2 ^ 32 * 2 ^ 32 ∧
          ∀ k, 1 ≤ k → k < 8 → wordAt r k = wordAt r0 k) ∧ u.me.sregs = s.me.sregs ∧ u.memB = s.memB) ∧
  (∀ (gd : Guard) (a b : BitVec 5) (off : Nat) (s : State),
    s.me.on gd = true → calm s → s.me.s b = plateVa s.cur off → off % 64 = 0 → off ≤ 0x1FFC0 →
    s.bindCheck s.cur (s.me.s a) (s.me.plateWords off 8) (bindRing (s.me.plateWords off 8)) = none →
      ∃ u, Completes (.rbind gd a b) s u ∧ (s.me.ring (s.me.s a).toNat).log2n = 0 ∧
        (∀ k, k < 8 → (u.me.ring (s.me.s a).toNat).word k = s.me.plateRead (off + 8 * k) 8) ∧
        (∀ j, j ≠ (s.me.s a).toNat → u.me.ring j = s.me.ring j) ∧ u.me.plate = s.me.plate ∧ u.me.sregs = s.me.sregs) ∧
  (∀ (gd : Guard) (b : BitVec 5) (j : Nat) (s : State),
    s.me.on gd = true → calm s → (s.me.s b).toNat = j → 2 ≤ j → j ≤ 15 → (s.me.ring j).log2n ≠ 0 →
    (s.me.ring j).tail = (s.me.ring j).head → (s.me.ring j).halt = false →
      ∃ u, Completes (.runbind gd b) s u ∧ (∀ k, (u.me.ring j).word k = 0) ∧
        (∀ k, k ≠ j → u.me.ring k = s.me.ring k) ∧ u.me.plate = s.me.plate ∧ u.me.sregs = s.me.sregs)

/-- R276, R270, R271, R272: `trap` takes the trap of cause 0x20 + n; `reseed.place` enters a placement request, and waits
while fifteen stand; `plprobe` gives the set of a mapped address, and the old epoch's during a sweep, once the epochs its
core asked for have begun; `excq` stores its ten reports to the own plate, or queues them for main memory, and with s[b] = 1
clears the counters in the same step. A class that is not 1 to 3, or an s[b] above 1, takes trap 0x05. -/
def Obligations.SystemInstructions : Prop :=
  ∀ (gd : Guard) (s : State), s.me.on gd = true →
    (∀ n : BitVec 5, s.me.pending = none →
      Traps (.trap gd n) s (BitVec.ofNat 8 (0x20 + n.toNat)) (BitVec.ofNat 64 n.toNat)) ∧
    ((s.owner s.me.own).reseeds.length < 15 →
      ∃ u, Completes (.reseedPlace gd) s u ∧
        (u.owner s.me.own).reseeds = (s.owner s.me.own).reseeds ++ [some s.cur] ∧ u.cores = s.cores ∧ u.memB = s.memB) ∧
    (15 ≤ (s.owner s.me.own).reseeds.length → exec (.reseedPlace gd) s = .next s) ∧
    (∀ (d a b : BitVec 5),
      (¬(1 ≤ (s.me.s b).toNat ∧ (s.me.s b).toNat ≤ 3) → s.me.pending = none → Traps (.plprobe gd d a b) s 0x05 (s.me.s b)) ∧
      (∀ (t : Trans) (w : Owner), w = s.owner s.me.own → 1 ≤ (s.me.s b).toNat → (s.me.s b).toNat ≤ 3 →
        mapped s (s.me.s a) 1 true false t →
          if some s.cur ∈ w.reseeds then exec (.plprobe gd d a b) s = .next s
          else
            let set (old : Bool) := (w.setOf (s.me.s b).toNat (physical t (s.me.s a) / 128) old).getD 0
            ∃ v, Completes (.plprobe gd d a b) s (s.regs fun c => c.setS d v) ∧
              (w.sweep = none → v.toNat = (set false + set false * 2 ^ 16) % 2 ^ 64) ∧
              (w.sweep.isSome = true → w.keyOld.isSome = true →
                v.toNat = (set false + 2 ^ 15 + set true * 2 ^ 16) % 2 ^ 64))) ∧
    (∀ (a b : BitVec 5),
      (1 < (s.me.s b).toNat → s.me.pending = none → Traps (.excq gd a b) s 0x05 (s.me.s b)) ∧
      (calm s → (s.me.s b).toNat ≤ 1 →
        let report (k i : Nat) := (s.report10 s.cur k).getD i 0
        let cleared (u : State) : Prop :=
          (u.owner s.me.own).exceed = (if (s.me.s b).toNat = 1 then [] else (s.owner s.me.own).exceed) ∧
          u.me.sregs = s.me.sregs ∧ u.memB = s.memB ∧ u.memC = s.memC
        (∀ off, s.me.s a = plateVa s.cur off → off % 128 = 0 → off + 1280 ≤ 0x20000 →
          ∃ u, Completes (.excq gd a b) s u ∧
            (∀ k i, k < 10 → i < 16 → u.me.plateRead (off + 128 * k + 8 * i) 8 = report k i) ∧
            (∀ x, (x < off ∨ off + 1280 ≤ x) → u.me.plateByte x = s.me.plateByte x) ∧ cleared u) ∧
        (∀ t, (s.me.s a).toNat % 128 = 0 → (∀ j, j < 160 → mapped s (s.me.s a + BitVec.ofNat 64 (8 * j)) 8 false true t) →
          s.uscCount s.cur (if Leaf.tierOf t.leaf = .cxl then .sys else .mem) + 160 ≤ 4095 →
            ∃ u, Completes (.excq gd a b) s u ∧
              u.me.pend.map (fun y => (y.op, y.dest, y.addr, y.size)) = (List.range 160).map (fun j =>
                (.store (report (j / 16) (j % 16)), .main (Leaf.image t.leaf), physical t (s.me.s a + BitVec.ofNat 64 (8 * j)), 8)) ∧
              u.me.plate = s.me.plate ∧ cleared u)))

/-- R281 to R283, R332, R346: the privileged instructions in supervisor mode. `tinv` drops an owner's translations, all of
them or those that meet a page, and waits;
`aspill` and `wspill` queue the contents of a tagged tile or tree for its slot, whose area is aligned (R321, R332), and untag
it; `atag` and `wtag` tag one without loading, or queue the loads of its slot; `keyld` takes the key of an owner that is neither valid nor retiring and waits; `saltld` takes
the salt of a function. -/
def Obligations.PrivilegedInstructions : Prop :=
  ∀ (gd : Guard) (a b : BitVec 5) (s : State), s.me.on gd = true → s.me.sup = true →
    let g := clusterOf s.cur
    let v := (s.me.s a).toNat
    let x := s.me.s b
    let o := x.toNat % 256
    (let drops (gone : Trans → Prop) : Prop := ∃ u ids, exec (.tinv gd a b) s = .next u ∧ u.me.hold = .tinv ids o ∧
        (∀ t ∈ u.allTrans, ¬gone t) ∧ (∀ t ∈ s.allTrans, ¬gone t → t ∈ u.allTrans) ∧
        u.me.sregs = s.me.sregs ∧ u.me.pc = s.me.pc ∧ u.memB = s.memB ∧ u.memC = s.memC
     x.toNat < 2 ^ 12 →
     (bitOf x 8 = true → drops fun t => t.owner = o) ∧
     (∀ k, bitOf x 8 = false → [12, 16, 21, 29, 34][x.toNat / 2 ^ 9]? = some k →
       drops fun t => t.owner = o ∧ t.page * 2 ^ t.shift < v / 2 ^ k * 2 ^ k + 2 ^ k ∧
         v / 2 ^ k * 2 ^ k < t.page * 2 ^ t.shift + 2 ^ t.shift)) ∧
    (∀ q, v ≤ 119 → (s.cluster g).tag v = .owner q → (s.cluster g).held g v q = false → s.uscCount s.cur .mem + 512 ≤ 4095 →
      s.slotAddr q g v false % 8 = 0 →
      ∃ u, Completes (.aspill gd a) s u ∧ (u.cluster g).tag v = .none ∧
        u.me.pend.map (fun y => (y.op, y.addr, y.size)) = s.me.pend.map (fun y => (y.op, y.addr, y.size)) ++
          (List.range 512).map fun k => (.store ((s.cluster g).accRead (v * 4096 + 8 * k) 8), s.slotAddr q g v false + 8 * k, 8)) ∧
    (∀ q, v ≤ 7 → ((s.cluster g).tree v).tag = some q → s.uscCount s.cur .mem + 256 ≤ 4095 →
      s.slotAddr q g v true % 8 = 0 →
      ∃ u, Completes (.wspill gd a) s u ∧ ((u.cluster g).tree v).tag = none ∧
        u.me.pend.map (fun y => (y.op, y.addr, y.size)) = s.me.pend.map (fun y => (y.op, y.addr, y.size)) ++
          (List.range 256).map fun k =>
            (.store (((s.cluster g).tree v).slotWords.getD k 0), s.slotAddr q g v true + 8 * k, 8)) ∧
    (x.toNat < 2 ^ 8 → Own.valid (s.owner o).entryNext = true →
      (v ≤ 119 → ∃ u, Completes (.atag gd a b) s u ∧ (u.cluster g).tag v = .owner o ∧ (u.cluster g).acc = (s.cluster g).acc ∧
        (∀ k, k ≠ v → (u.cluster g).tag k = (s.cluster g).tag k) ∧ u.cores = s.cores) ∧
      (v ≤ 7 → ∃ u, Completes (.wtag gd a b) s u ∧
        (u.cluster g).tree v = { (s.cluster g).tree v with tag := some o } ∧ u.cores = s.cores)) ∧
    (let loads (i : Instr) (n slot : Nat) : Prop := ∃ u gid, exec i s = .next u ∧ u.me.hold = .gather gid ∧
        u.me.pc = s.me.pc ∧ u.cluster g = s.cluster g ∧ u.me.sregs = s.me.sregs ∧ u.memB = s.memB ∧ u.memC = s.memC ∧
        u.me.pend.map (fun y => (y.op, y.addr, y.size)) = s.me.pend.map (fun y => (y.op, y.addr, y.size)) ++
          (List.range n).map fun k => (.load gid k, slot + 8 * k, 8)
     x.toNat / 2 ^ 8 = 1 → Own.valid (s.owner o).entryNext = true →
       (v ≤ 119 → s.slotAddr o g v false % 8 = 0 → loads (.atag gd a b) 512 (s.slotAddr o g v false)) ∧
       (v ≤ 7 → s.slotAddr o g v true % 8 = 0 → loads (.wtag gd a b) 256 (s.slotAddr o g v true))) ∧
    (x.toNat < 2 ^ 8 → Own.valid (s.owner o).entryNext = false → (s.owner o).retiring = false → calm s →
      ∀ off, s.me.s a = plateVa s.cur off → off % 64 = 0 → off + 64 ≤ 0x20000 →
        ∃ u, exec (.keyld gd a b) s = .next u ∧ u.me.hold = .keyld o ∧ (u.owner o).key = .loaded (s.me.plateRec off) ∧
          (∀ q, q ≠ o → u.owner q = s.owner q) ∧ u.me.pc = s.me.pc ∧ u.memB = s.memB) ∧
    (x.toNat < 64 → calm s → ∀ off, s.me.s a = plateVa s.cur off → off % 16 = 0 → off + 16 ≤ 0x20000 →
        ∃ u, Completes (.saltld gd a b) s u ∧
          (u.func x.toNat).salt = s.me.plateRead (off + 8) 8 ++ s.me.plateRead off 8 ∧
          (∀ f, f ≠ x.toNat → u.func f = s.func f) ∧ u.cores = s.cores ∧ u.memB = s.memB)


/-! ### Moves of memory and of cores -/

namespace Sys2Proof.Claims

/-- Access `id` of core `n` is `a` and may be performed (R80, R81). -/
def ready (s : State) (n id : Nat) (a : Access) : Prop := (s.core n).access id = some a ∧ s.performable n a = true

/-- `a` is the one part of a load of `z` bytes into scalar register `d` (R189). -/
def soleLoad (s : State) (n : Nat) (a : Access) (d : SReg) (z : Nat) (sg : Bool) : Prop :=
  ∃ g, a.op = .load g.gid 0 ∧ (s.core n).gathers = [g] ∧ g.dest = .sreg d z sg ∧ g.parts = [⟨0, 0, z, none⟩] ∧
    g.poison = none ∧ a.size = z ∧ (z = 1 ∨ z = 2 ∨ z = 4 ∨ z = 8)

/-- `a` goes to image B of main memory past the caches, at a line with no error (R70, R78, R338). -/
def plainB (s : State) (a : Access) : Prop :=
  a.dest = .main .b ∧ a.cache = 3 ∧ a.detected = false ∧ s.latent = [] ∧ Store.find (a.addr / 128) s.poisonB = none ∧
    a.size ≤ 8

/-- A line of image C that an access meets, in an empty cache directory with no error and no window open (R69, R72, R78). -/
def plainC (s : State) (a : Access) (l : CLine) : Prop :=
  a.dest = .main .c ∧ a.detected = false ∧ s.latent = [] ∧ s.copies = [] ∧ s.merges = [] ∧
    Store.find (a.addr / 128) s.memC = some l ∧ l.poison = none

/-- No dirty-sector range of owner `o`'s virtual device is enabled (R317). -/
def unmarked (s : State) (o : Nat) : Prop := ∀ j, j < 4 → (Vd.ds (s.func (s.funcOf o)).entry j).1 % 2 = 0

/-- The queue of core `n` without access `id`. -/
def without (s : State) (n id : Nat) : List Access := (s.core n).pend.filter fun b => b.id != id

end Sys2Proof.Claims

/-- R80, R81: a load that may be performed writes the bytes of its place to its register; one whose bytes an older store of
the core holds may return them instead; a store that may be performed changes the bytes of its place and no other; a fence
leaves the queue once what it orders has been performed; a decrement-and-wake acts at its plate, writes the record of R35 where it
wakes the codelet, and returns the old counter where it has a destination (R34). Shown for image B past the caches, for a line
present in image C, and for plates, where no compare-and-swap of the core stands that would fail. -/
def Obligations.AccessesArePerformed : Prop :=
  ∀ (n : BitVec 11) (id : Nat) (a : Access) (s : State), ready s n.toNat id a →
    (∀ d z sg, soleLoad s n.toNat a d z sg → plainB s a →
      ∃ t, exec (.performLoad n id) s = .next t ∧
        t.core n.toNat = ({ s.core n.toNat with pend := without s n.toNat id, gathers := [] } : Core).setSReg d
          (loaded z (littleEndian (s.bByte (s.keyFor a.owner a.sup)) a.addr z) sg) ∧
        t.memB = s.memB ∧ t.memC = s.memC) ∧
    (∀ d z sg l, soleLoad s n.toNat a d z sg → plainC s a l →
      ∃ t, exec (.performLoad n id) s = .next t ∧
        t.core n.toNat = ({ s.core n.toNat with pend := without s n.toNat id, gathers := [] } : Core).setSReg d
          (loaded z (littleEndian (s.cByte (s.keyFor a.owner a.sup)) a.addr z) sg) ∧
        t.memB = s.memB ∧ t.memC = s.memC) ∧
    (∀ x l, a.op = .store x → plainC s a l →
      ∃ t m, exec (.performStore n id) s = .next t ∧ (t.core n.toNat).pend = without s n.toNat id ∧
        Store.find (a.addr / 128) t.memC = some m ∧ m.dirty = true ∧ m.owner = a.owner ∧ m.sup = a.sup ∧
        (∀ i, i < 128 → m.data.getD i 0 =
          if a.addr ≤ a.addr / 128 * 128 + i ∧ a.addr / 128 * 128 + i < a.addr + a.size
          then byteAt x (a.addr / 128 * 128 + i - a.addr) else s.cByte (s.keyFor a.owner a.sup) (a.addr / 128 * 128 + i)) ∧
        (∀ k, k ≠ a.addr / 128 → Store.find k t.memC = Store.find k s.memC) ∧ t.memB = s.memB ∧
        (t.core n.toNat).sregs = (s.core n.toNat).sregs) ∧
    (∀ x, a.op = .store x → plainB s a → unmarked s a.owner →
      ∃ t, exec (.performStore n id) s = .next t ∧ (t.core n.toNat).pend = without s n.toNat id ∧
        (∀ pa, t.bByte (s.keyFor a.owner a.sup) pa =
          if a.addr ≤ pa ∧ pa < a.addr + a.size then byteAt x (pa - a.addr) else s.bByte (s.keyFor a.owner a.sup) pa) ∧
        t.memC = s.memC ∧ (t.core n.toNat).sregs = (s.core n.toNat).sregs) ∧
    (∀ x m, a.op = .store x → a.dest = .plate m → m ≠ n.toNat → a.addr < 0x20000 → a.size ≤ 8 →
      (∀ q ∈ (s.core m).tiles.toList, q.state ≠ .filling) → (∀ b ∈ (s.core n.toNat).pend, s.wouldFail b = false) →
      ∃ t, exec (.performStore n id) s = .next t ∧ (t.core n.toNat).pend = without s n.toNat id ∧
        (∀ y, (t.core m).plateByte y =
          if a.addr ≤ y ∧ y < a.addr + a.size then byteAt x (y - a.addr) else (s.core m).plateByte y) ∧
        (t.core m).rings = (s.core m).rings ∧ t.memB = s.memB ∧ t.memC = s.memC) ∧
    (∀ all σ, a.op = .fence all σ →
      exec (.fencePerformed n id) s =
        .next (s.updCore n.toNat fun c => { c with pend := without s n.toNat id })) ∧
    (∀ k work ret m off, a.op = .dec k work ret → a.dest = .plate m → m ≠ n.toNat → a.addr = off + 8 → off + 16 ≤ 0x20000 →
      (s.core m).readyWait = [] → (s.core m).hasRoom 1 = true → (∀ b ∈ (s.core n.toNat).pend, s.wouldFail b = false) →
      let old := littleEndian (s.core m).plateByte (off + 8) 4
      let left : Core := { s.core n.toNat with pend := without s n.toNat id }
      ∃ t, exec (.decrementAndWake n id) s = .next t ∧
        t.core n.toNat = (match ret with | some r => left.setSReg r (BitVec.ofNat 64 old) | none => left) ∧
        (t.core m).ring 1 = { (s.core m).ring 1 with
          tail := ((s.core m).ring 1).tail + (if old ≠ 0 ∧ old ≤ k then 1 else 0) } ∧
        (old ≠ 0 ∧ old ≤ k →
          let slot := ((s.core m).ring 1).slotAt ((s.core m).ring 1).tail
          (t.core m).plateRead slot 8 = plateVa m off ∧ (t.core m).plateRead (slot + 8) 8 = work ∧
          littleEndian (t.core m).plateByte (slot + 16) 2 = n.toNat ∧
          (∀ k, 18 ≤ k → k < 64 → (t.core m).plateByte (slot + k) = 0) ∧
          (off + 12 ≤ slot ∨ slot + 64 ≤ off + 8 → littleEndian (t.core m).plateByte (off + 8) 4 = 0)) ∧
        (¬(old ≠ 0 ∧ old ≤ k) → littleEndian (t.core m).plateByte (off + 8) 4 = old - k) ∧ t.memB = s.memB ∧ t.memC = s.memC) ∧
    (∀ store b, (s.core n.toNat).access store = some b → ∀ d z sg x, soleLoad s n.toNat a d z sg → b.op = .store x →
      s.forwardable n.toNat a b = true →
      ∃ t, exec (.forward n id store) s = .next t ∧
        t.core n.toNat = ({ s.core n.toNat with pend := without s n.toNat id, gathers := [] } : Core).setSReg d
          (loaded z (x.toNat / 2 ^ (8 * (a.addr - b.addr)) % 2 ^ (8 * z)) sg) ∧
        t.memB = s.memB ∧ t.memC = s.memC)

/-- R80, R72, R76, R205, R37: a line moves between B and C by fills, write-backs and drops; a read-merge window closes, and its
fill returns, performing the read that joined it; the replies of window loads and of asynchronous loads, of main memory and
of a window, arrive once the load has passed its points (R127); a waiting ready push takes a freed slot. -/
def Obligations.LinesAndRepliesMove : Prop :=
  ∀ (s : State),
    (∀ (g o : BitVec 8) line, s.populated (128 * line) = true → Store.find line s.memC = none → s.copies = [] → s.latent = [] →
      ∃ t l, exec (.fill g o line) s = .next t ∧ Store.find line t.memC = some l ∧ l.dirty = false ∧
        l.owner = o.toNat ∧ l.poison = Store.find line s.poisonB ∧
        (∀ i, i < 128 → l.data.getD i 0 = s.bByte (s.keyFor o.toNat false) (128 * line + i)) ∧ t.memB = s.memB) ∧
    (∀ line l, Store.find line s.memC = some l → l.dirty = true → s.latent = [] → unmarked s l.owner →
      ∃ t, exec (.writeBack line) s = .next t ∧ Store.find line t.memC = some { l with dirty := false } ∧
        (∀ pa, t.bByte (s.keyFor l.owner l.sup) pa =
          if pa / 128 = line then l.data.getD (pa % 128) 0 else s.bByte (s.keyFor l.owner l.sup) pa) ∧
        Store.find line t.poisonB = l.poison) ∧
    (∀ line l, Store.find line s.memC = some l → l.dirty = false →
      ∃ t, exec (.drop line) s = .next t ∧ Store.find line t.memC = none ∧
        (∀ k, k ≠ line → Store.find k t.memC = Store.find k s.memC) ∧ t.memB = s.memB) ∧
    (∀ (die : BitVec 2) (o : BitVec 8) line m, s.merges = [m] → m.is die.toNat o.toNat line = true →
      (m.closed = false → exec (.mergeWindowExpire die o line) s = .next { s with merges := [{ m with closed := true }] }) ∧
      (m.joined = [] → ∃ t l, exec (.fillReply die o line) s = .next t ∧ t.merges = [] ∧
        Store.find line t.memC = some l ∧ t.memB = s.memB) ∧
      (∀ n id a d z sg, m.joined = [(n, id)] → m.old = none → (s.core n).access id = some a → a.id = id → soleLoad s n a d z sg → a.path = [] →
        a.dest = .main .c → a.addr / 128 = line → a.detected = false → a.owner = o.toNat → a.sup = false → s.copies = [] →
        s.latent = [] → Store.find line s.memC = none → Store.find line s.poisonB = none → a.addr % 128 + z ≤ 128 →
          ∃ t, exec (.fillReply die o line) s = .next t ∧ t.merges = [] ∧ (Store.find line t.memC).isSome = true ∧
            t.core n = ({ s.core n with pend := without s n id, gathers := [] } : Core).setSReg d
              (loaded z (littleEndian (s.bByte (s.keyFor o.toNat false)) a.addr z) sg) ∧ t.memB = s.memB)) ∧
    (∀ n : BitVec 11, (s.core n.toNat).hold = .reply → s.loadCrosses n.toNat = false →
      exec (.windowLoadReply n) s = .next (s.updCore n.toNat fun c =>
        { c with hold := .none, gathers := c.gathers.map fun g => { g with stalls := none } })) ∧
    (∀ (n : BitVec 11) g reply work v, s.lateLoads = [] → (s.core n.toNat).gathers = [g] → g.dest = .async reply work →
      g.parts = [⟨0, 0, 8, some v⟩] → g.poison = none → s.loadCrosses n.toNat = false →
      let r := (s.core n.toNat).ring 0
      ∃ t, exec (.asyncLoadReply n g.gid) s = .next t ∧ (t.core n.toNat).ring 0 = { r with tail := r.tail + 1 } ∧
        (t.core n.toNat).gathers = [] ∧
        (t.core n.toNat).plateWords (r.slotAt r.tail) 8 =
          [reply &&& 0x000FFFFFFFFFFFF0, work, v, g.va, reply &&& 0xF, 0, 0, 0] ∧ t.memB = s.memB) ∧
    (∀ (n : BitVec 11) id a g reply work, ready s n.toNat id a → s.lateLoads = [] → plainB s a → a.size = 8 →
      a.op = .load g.gid 0 → (s.core n.toNat).gathers = [g] → g.dest = .async reply work → g.parts = [⟨0, 0, 8, none⟩] →
      g.poison = none →
      let r := (s.core n.toNat).ring 0
      ∃ t, exec (.asyncLoadReply n id) s = .next t ∧ (t.core n.toNat).ring 0 = { r with tail := r.tail + 1 } ∧
        (t.core n.toNat).gathers = [] ∧
        (t.core n.toNat).plateWords (r.slotAt r.tail) 8 =
          [reply &&& 0x000FFFFFFFFFFFF0, work,
            BitVec.ofNat 64 (littleEndian (s.bByte (s.keyFor a.owner a.sup)) a.addr 8), g.va, reply &&& 0xF, 0, 0, 0] ∧
        t.memB = s.memB) ∧
    (∀ (n : BitVec 11) q rest, (s.core n.toNat).readyWait = q :: rest → (s.core n.toNat).hasRoom 1 = true →
      let r := (s.core n.toNat).ring 1
      ∃ t, exec (.readyPushAccept n) s = .next t ∧ (t.core n.toNat).readyWait = rest ∧
        (t.core n.toNat).ring 1 = { r with tail := r.tail + 1 } ∧
        (t.core n.toNat).plateRead (r.slotAt r.tail) 8 = q.codelet ∧
        (t.core n.toNat).plateRead (r.slotAt r.tail + 8) 8 = q.work ∧
        (t.core n.toNat).plateRead (r.slotAt r.tail + 16) 8 = BitVec.ofNat 64 q.issuer ∧ t.memB = s.memB)

namespace Sys2Proof.Claims

/-- Ring `j` is the one R40 names: a ready program ring of age 1,023, the oldest and lowest; else the inbox at age 16; else the
ready ring; else the inbox; else a ready program ring of age 64, the oldest and lowest; else, of those of the highest priority,
the one that follows the ring taken last at that priority, wrapping from 15 to 2. -/
def inTurnToDispatch (c : Core) (j : Nat) : Prop :=
  let ready (i : Nat) : Prop := i < 16 ∧ c.ringReady i = true
  let age (i : Nat) : Nat := c.ages.getD i 0
  let prio (i : Nat) : Nat := (c.ring i).prio.toNat
  let inbox : Prop := (c.ring 0).waiting ≠ 0 ∨ c.faultBox ≠ []
  let eldest (k : Nat) : Prop := ready j ∧ k ≤ age j ∧ ∀ i, ready i → age i ≤ age j ∧ (age i = age j → j ≤ i)
  let below (k : Nat) : Prop := ∀ i, ready i → age i < k
  let last : Nat := c.lastTaken.getD (prio j) 0
  let peer (i : Nat) : Prop := ready i ∧ prio i = prio j
  eldest 1023 ∨
    (below 1023 ∧
      ((j = 0 ∧ inbox ∧ (16 ≤ c.inboxAge ∨ (c.ring 1).waiting = 0)) ∨
        (j = 1 ∧ (c.ring 1).waiting ≠ 0 ∧ ¬(16 ≤ c.inboxAge ∧ inbox)) ∨
        (¬inbox ∧ (c.ring 1).waiting = 0 ∧
          (eldest 64 ∨
            (below 64 ∧ ready j ∧ (∀ i, ready i → prio i ≤ prio j) ∧
              ((last < j ∧ ∀ i, peer i → last < i → j ≤ i) ∨ (j ≤ last ∧ ∀ i, peer i → i ≤ last ∧ j ≤ i)))))))

end Sys2Proof.Claims

/-- R25, R26, R35, R40: the dispatcher takes the ring that R40 names, and none where no ring holds a record for it; a dispatch of
an inbox message, of a codelet of the ready ring or of a program ring's record enters its handler: s1 to s4, `ctl.work`, user
mode, `ctl.round` 0, depth 0, the LIMIT of `ctl.watchdog`, and the record taken from its ring. R49, R343: a fault message that is
due is dispatched from the reserved region in the same way. -/
def Obligations.HandlersAreDispatched : Prop :=
  ∀ (n : BitVec 11) (j : Nat) (s : State),
    let c := s.core n.toNat
    let g := c.ring j
    let a := g.slotAt g.disp
    let enters (t : State) (kind slot : Nat) (fault : Bool) (entry s1 work s3 : Word) : Prop :=
      exec (.dispatch n) s = .next t ∧ (∃ h, (t.core n.toNat).handler = some h ∧ h.kind = kind ∧ h.ring = j ∧
        h.slot = slot ∧ h.entry = entry ∧ h.frames = [] ∧ h.limit = c.watchdog ∧ h.count = 0 ∧ h.fromFault = fault) ∧
      (t.core n.toNat).pc = entry ∧ (t.core n.toNat).hints = [] ∧ (t.core n.toNat).ahead = [] ∧
      (t.core n.toNat).sup = false ∧ (t.core n.toNat).sregs[1] = s1 ∧ (t.core n.toNat).sregs[2] = work ∧
      (t.core n.toNat).sregs[3] = s3 ∧ (t.core n.toNat).sregs[4] = BitVec.ofNat 64 kind ∧ (t.core n.toNat).work = work ∧
      (t.core n.toNat).round = 0 ∧ (t.core n.toNat).depthCur = 0 ∧ (t.core n.toNat).plate = c.plate ∧ t.memB = s.memB ∧
      t.memC = s.memC
    (c.chooseRing = some j → inTurnToDispatch c j) ∧
    (c.chooseRing = none →
      (∀ i, i < 16 → c.ringReady i = false) ∧ (c.ring 0).waiting = 0 ∧ c.faultBox = [] ∧ (c.ring 1).waiting = 0) ∧
    (s.canDispatch n.toNat = true → c.chooseRing = some j → j < 16 →
      ((j = 0 → c.faultBox = []) → c.poisonReplies = [] →
        let r := c.plateRec a
        let kind := if j < 2 then j else if recKind r = 3 ∨ recKind r = 5 then recKind r else 2
        let entry :=
          if j = 0 then wordAt r 0 &&& 0x000FFFFFFFFFFFF0
          else if j = 1 then c.plateRead ((wordAt r 0).toNat % 2 ^ 20) 8 &&& 0x000FFFFFFFFFFFF0
          else g.handler.setWidth 64 <<< 4
        ∃ t, enters t kind a false entry (if j = 1 then wordAt r 0 else BitVec.ofNat 64 (plateBase n.toNat + a)) (wordAt r 1)
            (BitVec.ofNat 64 j) ∧
          (t.core n.toNat).ring j = { g with disp := g.disp + 1 } ∧
          (∀ k, k ≠ j → (t.core n.toNat).ring k = c.ring k)) ∧
      (∀ at_ k rest, j = 0 → c.faultBox = (at_, k) :: rest → (at_ = g.disp ∨ g.waiting = 0) →
        let slot := g.base.toNat * 64 - 4096 + 64 * k
        ∃ t, enters t 0 slot true (wordAt (c.plateRec slot) 0 &&& 0x000FFFFFFFFFFFF0)
            (BitVec.ofNat 64 (plateBase n.toNat + slot)) (wordAt (c.plateRec slot) 1) 0 ∧
          (t.core n.toNat).faultBox = rest ∧ (t.core n.toNat).rings = c.rings))

/-- R42 to R46, R156, R236, R277, R278: the watchdog, a waiting trap and the supervisor limit raise their traps between chains, and
not in a word that has begun, the watchdog's naming the entry of the outermost handler; a blocked core, an idle dispatcher and one that stalls in `jwait` are gated
after 256 and, `jwait` apart, 65,536 cycles; a blocked core wakes when its condition holds, and is reported once after 2^EXP
cycles, to its fault core as well where one can take the message, in the form the model gives the report (log 20); a monitor remembers the relation it finds, and traps the
cores of a cycle that it finds at two scans running. That a trap may be taken while hints are held is the model's choice (log 12),
and which monitor finds a cycle across dies its reading (log 51). -/
def Obligations.CoresWaitAndTrap : Prop :=
  ∀ (n : BitVec 11) (s : State),
    let c := s.core n.toNat
    (∀ h, c.handler = some h → c.sup = false → h.limit ≤ h.count → c.hold = .none → c.rangeAt = 0 → c.begun = false →
      c.blk = false → c.pending = none →
      exec (.watchdog n) s = .next ((s.unclaim n.toNat).takeTrap n.toNat 0x06 h.entry c.chainStart)) ∧
    (∀ cause info, c.pending = some (cause, info) → c.handler.isSome = true → c.blk = false → c.hold = .none → c.rangeAt = 0 →
      c.begun = false →
      exec (.trapEntry n) s = .next ((s.unclaim n.toNat).takeTrap n.toNat cause info c.chainStart)) ∧
    (c.sup = true → 2 ^ 20 ≤ c.supCount → c.hold = .none → c.rangeAt = 0 → c.begun = false → c.blk = false →
      exec (.supCycleLimit n) s = .next (s.takeTrap n.toNat 0x06 0 c.chainStart)) ∧
    (c.begun = true ∨ c.rangeAt ≠ 0 →
      exec (.watchdog n) s = .refused (.notEnabled "WATCHDOG") ∧ exec (.trapEntry n) s = .refused (.notEnabled "TRAP_ENTRY") ∧
      exec (.supCycleLimit n) s = .refused (.notEnabled "SUP_CYCLE_LIMIT")) ∧
    ((∀ b, c.hold ≠ .blocked b) →
      (c.idles = true ∨ c.jwaits = true → c.gate = 1 → 256 ≤ c.calm →
        exec (.clockGate n) s = .next (s.updCore n.toNat fun c => { c with gate := 2 })) ∧
      (c.idles = true → c.gate = 2 → 65536 ≤ c.calm →
        exec (.powerGate n) s = .next (s.updCore n.toNat fun c => { c with gate := 3 })) ∧
      (c.idles = false → c.jwaits = false → c.gate ≠ 1 →
        exec (.coreWake n) s = .next (s.updCore n.toNat fun c => { c with gate := 1, calm := 0 }))) ∧
    (∀ b, c.hold = .blocked b →
      let become (b' : Blocked) := s.updCore n.toNat fun c => { c with hold := .blocked b' }
      let goesOn := exec (.coreWake n) s = .next (s.updCore n.toNat fun c => { c with hold := .none, begun := true })
      (b.gate = 1 → 256 ≤ b.resid → exec (.clockGate n) s = .next (become { b with gate := 2 })) ∧
      (b.gate = 2 → 65536 ≤ b.resid → exec (.powerGate n) s = .next (become { b with gate := 3 })) ∧
      (b.cause = 3 → b.done = none → (c.ring b.ring).waiting ≠ 0 → goesOn) ∧
      (b.cause = 5 ∨ (b.cause = 4 ∧ ((s.core b.core).ring b.ring).log2n ≠ 0) → b.done = none →
        (∃ q ∈ (s.core b.core).portWait, q.issuer = n.toNat ∧ q.ring = b.ring ∧ q.tag = 0 ∧ q.granted = true) → goesOn) ∧
      (∀ v, b.done = some v →
        exec (.coreWake n) s = .next (s.updCore n.toNat fun c =>
          { (match b.ret with | some r => c.setSReg r v | none => c) with hold := .none, pc := c.pc + 4, hints := [], begun := false })) ∧
      (b.reported = false → c.hangExp ≤ 40 → 2 ^ c.hangExp ≤ b.resid →
        let told (e : ErrRec) : State :=
          { become { b with reported := true } with eseq := s.eseq + 1, errs := s.errs ++ [e] }
        ∃ e t, exec (.hangReport n) s = .next t ∧ e.cls = 0x07 ∧ e.core = n.toNat ∧ e.owner = c.ctx ∧
          (if c.faultHandler ≠ 0 ∧ Own.hasCore (s.owner c.own).entry c.faultCore.toNat = true then
            t.errs = s.errs ++ [e] ∧ ∃ a r, (t.core n.toNat).pend = c.pend ++ [a] ∧ a.dest = .plate c.faultCore.toNat ∧
              a.op = .faultMsg r ∧ (wordAt r 2).toNat % 256 = 0x40
          else t = told e))) ∧
    (∀ (die : BitVec 2), Store.get [] die.toNat s.scans = [] →
      ∃ t, exec (.deadlockScan die) s = .next t ∧ Store.get [] die.toNat t.scans = s.waitFor ∧
        t.memB = s.memB ∧ ∀ m, (t.core m).sregs = (s.core m).sregs ∧ (t.core m).pc = (s.core m).pc) ∧
    (∀ (m : Nat) (die : BitVec 2) (x y : Blocked), n.toNat < m → m < 2048 → dieOf n.toNat = die.toNat →
      s.waitFor = [(n.toNat, m), (m, n.toNat)] → Store.get [] die.toNat s.scans = s.waitFor →
      c.hold = .blocked x → (s.core m).hold = .blocked y → bitOf x.seen die.toNat = true → bitOf y.seen die.toNat = true →
      (∀ k ∈ [n.toNat, m], (s.core k).sup = false ∧ (s.core k).pending = none ∧ Vd.trapEnt (s.vdOf k) ≠ 0 ∧
        (s.core k).handler.bind Handler.transfer = none) →
        ∃ t, exec (.deadlockScan die) s = .next t ∧
          (∀ k ∈ [n.toNat, m], (t.core k).sup = true ∧ (t.core k).trapCause = 0x09 ∧ (t.core k).hold = .none ∧
            (t.core k).pc = Vd.trapEnt (s.vdOf k) ∧ (t.core k).trapPc = (s.core k).chainStart &&& 0x000FFFFFFFFFFFFC) ∧
          (t.core n.toNat).trapInfo = BitVec.ofNat 64 (x.ring * 2 ^ 22 + m * 2 ^ 11 + 1) ∧
          (t.core m).trapInfo = BitVec.ofNat 64 (y.ring * 2 ^ 22 + n.toNat * 2 ^ 11 + 1) ∧ t.memB = s.memB)

/-! ### Tiles, agents, ring engines and launches -/

namespace Sys2Proof.Claims

/-- Agent `h` of core `n` is `a`, of KIND `kind`, and moves (R243, R311, R330). -/
def moving (s : State) (n h kind : Nat) (a : Agent) : Prop :=
  Store.find h (s.core n).agents = some a ∧ a.state = .running ∧ a.faulted = false ∧ a.kind = kind ∧
    (s.core n).ctx = some a.owner ∧ (s.core n).stopped = false

/-- A translation that agent `h` holds puts `va` at `pa` of image B, where no poison is read (R309, R338). -/
def agentPlace (s : State) (n h : Nat) (a : Agent) (write : Bool) (va pa : Nat) : Prop :=
  ∃ t, s.cached (.agent n h) a.owner false va = some t ∧ leafAllows t.leaf (!write) write false = true ∧
    s.paOk t.leaf t.shift va = true ∧ (write = true → Leaf.cow t.leaf = false) ∧ Leaf.tier t.leaf ≠ 1 ∧
    (∀ x ∈ a.tlb, 12 ≤ x.shift) ∧
    pa = Leaf.frame t.leaf + va % 2 ^ t.shift ∧ (write = false → Store.find (pa / 128) s.poisonB = none) ∧
    (write = true → ∀ b ∈ s.breaks, b.owner = a.owner → b.sup = false → va / 2 ^ b.shift ≠ b.page)

/-- A number of bytes an element may have. -/
def elementSize (z : Nat) : Prop := z = 1 ∨ z = 2 ∨ z = 4 ∨ z = 8

/-- Agent `h` of core `n` afterwards. -/
def agentIs (t : State) (n h : Nat) (p : Agent → Prop) : Prop := ∃ a, Store.find h (t.core n).agents = some a ∧ p a

end Sys2Proof.Claims

/-- R66, R67: a tile-table command at the plate port; a release counts a unit in flight, which the model leaves open (log
58), at once for a fill and when its bytes are in memory for a drain. R141 to R144: the ring engine forwards a record of a
ring in bypass mode, halts an input of several at its splice, applies an OP 3 splice once the stores it releases have been
performed, the walks of its check of the handler's page apart, fails with cause 0x07 every splice at an input head of a group that
did not align in time, and a state-transfer handler starts with the splice's operands. That HSEQ is then what it was before the
halt is the model's choice (log 34). R52, R326: a TAIL write, and the launch sequencer's records and messages. -/
def Obligations.TilesRingsAndLaunchesMove : Prop :=
  (∀ (n : BitVec 11) (k : BitVec 5) (v : BitVec 64) (s : State), (s.core n.toNat).ctx ≠ none →
    let x := (s.core n.toNat).tile k.toNat
    let become (y : Tile) := s.updCore n.toNat fun c => c.setTile k.toNat y
    (∀ c : BitVec 3, c ≠ 1 → c ≠ 2 → exec (.tileCmdNop n k c) s = .next s) ∧
    (x.state = .empty ∨ x.state = .ready → ((v.extractLsb' 7 10).toNat + (v.extractLsb' 32 10).toNat + 1) * 128 ≤ 0x20000 →
      exec (.tileReconfigure n k v) s = .next (s.updCore n.toNat fun c =>
        { c.setTile k.toNat
            { x with base := v.extractLsb' 7 10, lenm1 := v.extractLsb' 32 10, state := .empty, prog := 0 } with
          flights := c.flights.map fun f => if f.tile = k.toNat then { f with counts := false } else f })) ∧
    (x.state = .empty ∨ x.state = .ready → exec (.tileRelease n k) s = .next (become { x with state := .empty })) ∧
    (x.state = .draining → ∃ t l, exec (.tileRelease n k) s = .next t ∧
      (t.core n.toNat).tile k.toNat = { x with state := .empty } ∧
      (t.core n.toNat).flights = (s.core n.toNat).flights ++ l ∧
      (l = [] ∨ ∃ a, Store.find x.agent.toNat (s.core n.toNat).agents = some a ∧
        l = [⟨k.toNat, x.agent.toNat, a, x.prog.toNat, x.start, true⟩]) ∧
      (t.core n.toNat).plate = (s.core n.toNat).plate ∧ t.memB = s.memB ∧ t.memC = s.memC) ∧
    (x.state = .filling → ∃ t p, exec (.tileRelease n k) s = .next t ∧
      (t.core n.toNat).tile k.toNat = { x with state := .empty, prog := p } ∧ (p = x.prog ∨ p = x.prog + 1) ∧
      ∀ y, (y < x.start ∨ x.start + x.bytes ≤ y) → (t.core n.toNat).plateByte y = (s.core n.toNat).plateByte y) ∧
    (x.state = .empty → (x.agent = 0 ∨ 0x80 ≤ x.agent) →
      exec (.tilePublish n k) s = .next (become { x with state := .ready, seq := x.seq + 1 })) ∧
    (x.state = .ready → exec (.tilePublish n k) s = .next (become x))) ∧
  (∀ (n : BitVec 11) (j : BitVec 4) (s : State), s.engineFree n.toNat j.toNat = true →
    let c := s.core n.toNat
    let g := c.ring j.toNat
    let r := c.headRec j.toNat
    (recKind r ≠ 4 → g.halt = false → (recKind r = 5 → c.failWaits j.toNat = false) → g.mode = 2 → g.lv = true →
      g.lr = false → g.lcore.toNat ≠ n.toNat → (s.core g.lcore.toNat).ctx = c.ctx → (s.core g.lcore.toNat).hasRoom g.lring.toNat = true →
      c.pushPending g.lcore.toNat g.lring.toNat = false →
      let h := (s.core g.lcore.toNat).ring g.lring.toNat
      ∃ t, exec (.ringForward n j) s = .next t ∧
        (t.core n.toNat).ring j.toNat = { g with disp := g.disp + 1, head := g.head + 1 } ∧
        (t.core g.lcore.toNat).ring g.lring.toNat = { h with tail := h.tail + 1 } ∧
        (t.core g.lcore.toNat).plateWords (h.slotAt h.tail) 8 = (List.range 8).map (wordAt r) ∧
        t.memB = s.memB ∧ t.memC = s.memC) ∧
    (recKind r = 4 → c.spliceHere n.toNat j.toNat = true → g.halt = false → 1 < (c.stage j.toNat).length →
      exec (.ringForward n j) s = .next (s.updCore n.toNat fun c =>
        { c.setRing j.toNat { g with halt := true, hseq := recSseq r } with
          hseqWas := Store.put j.toNat g.hseq c.hseqWas })) ∧
    (recKind r = 4 → c.spliceHere n.toNat j.toNat = true → g.grp = 0 → s.spliceCause n.toNat j.toNat r = (none, none) →
      Splice.op r = 3 → Splice.xhand r = 0 → Splice.rhand r = 0 → (∀ x ∈ c.commits, x.ring ≠ j.toNat) →
      let l := s.releasedStores n.toNat
      (l ≠ [] ∨ s.pushWaits n.toNat 3 = true → ∃ t, exec (.spliceApply n j) s = .next t ∧ (t.core n.toNat).rings = c.rings ∧
        (t.core n.toNat).commits = c.commits ++ [⟨n.toNat, j.toNat, [j.toNat], l⟩] ∧
        (t.core n.toNat).plate = c.plate ∧ t.memB = (s.handlerReads n.toNat r).memB) ∧
      (l = [] → s.pushWaits n.toNat 3 = false → ∃ t, exec (.spliceApply n j) s = .next t ∧
        (t.core n.toNat).ring j.toNat = { g with
          mode := 1, handler := (wordAt r 3).extractLsb' 4 48
          state := (BitVec.ofNat 64 (plateBase n.toNat + Splice.nstate r)).extractLsb' 6 46
          sseq := r.extractLsb' 32 32, applied := if g.applied = 0xFFFFFFFF then g.applied else g.applied + 1
          disp := g.disp + 1, head := g.head + 1, halt := false, hwait := 0 } ∧
        (t.core n.toNat).plate = c.plate ∧ t.memB = (s.handlerReads n.toNat r).memB))) ∧
  (∀ (n : BitVec 11) (j : BitVec 4) (s : State),
    let c := s.core n.toNat
    let g := c.ring j.toNat
    let holds (i : Nat) : Prop :=
      i ∈ c.stage j.toNat ∧ (c.ring i).waiting ≠ 0 ∧ recKind (c.headRec i) = 4 ∧ c.spliceHere n.toNat i = true
    g.grp ≠ 0 → g.halt = true → c.stopped = false → c.hangExp ≤ 31 → 2 ^ c.hangExp ≤ g.hwait.toNat →
    s.applying n.toNat j.toNat = false →
      ∃ t, exec (.alignmentTimeout n j) s = .next t ∧
        (∀ i, holds i →
          (t.core n.toNat).ring i = { c.ring i with
            fails := if (c.ring i).fails = 0xFFFFFFFF then (c.ring i).fails else (c.ring i).fails + 1
            sseq := (c.headRec i).extractLsb' 32 32, halt := false, hwait := 0
            hseq := Store.get (c.ring i).hseq i c.hseqWas } ∧
          recKind ((t.core n.toNat).headRec i) = 5 ∧ bitsOf ((t.core n.toNat).headRec i) 31 24 = 7) ∧
        (∀ i, ¬holds i → (t.core n.toNat).ring i = c.ring i) ∧ t.memB = s.memB ∧ t.memC = s.memC) ∧
  (∀ (n : BitVec 11) (e old work s3 : Word) (tr : Transfer) (s : State), s.dispatcher n.toNat = true →
    (s.core n.toNat).transfer = some (e, old, work, s3, tr) → s.performedAll tr.after = true → s.pushWaits tr.core 3 = false →
      ∃ t h, exec (.stateTransferRun n) s = .next t ∧ (t.core n.toNat).handler = some h ∧ h.kind = 4 ∧ h.entry = e ∧
        h.transfer = some tr ∧ (t.core n.toNat).transfer = none ∧ (t.core n.toNat).pc = e ∧
        (t.core n.toNat).sregs[1] = old ∧ (t.core n.toNat).sregs[2] = work ∧ (t.core n.toNat).sregs[3] = s3 ∧
        (t.core n.toNat).sregs[4] = 4 ∧ (t.core n.toNat).work = work ∧ (t.core n.toNat).plate = (s.core n.toNat).plate) ∧
  (∀ (f : BitVec 6) (v : BitVec 32) (s : State),
    let x := s.func f.toNat
    let up : Prop := s.boot.state = 4 ∨ (f = 0 ∧ (s.boot.state = 2 ∨ s.boot.state = 3 ∨ s.boot.state = 15))
    let size := 2 ^ Vd.lqLog2 (if x.slice = .off then x.entryNext else x.entry)
    (¬up → exec (.launchTailWrite f v) s = .next s) ∧
    (up → (v - x.head).toNat ≤ size →
      exec (.launchTailWrite f v) s = .next (s.updFunc f.toNat fun x => { x with tail := v, launchStop := false })) ∧
    (up → size < (v - x.head).toNat →
      ∃ t e, exec (.launchTailWrite f v) s = .next t ∧ (t.func f.toNat).tail = v ∧ (t.func f.toNat).launchStop = true ∧
        t.errs = s.errs ++ [e] ∧ e.cls = 9) ∧
    (x.sending = none → x.slice = .running → x.launchStop = false → x.tail ≠ x.head → s.latent = [] →
      let r := s.launchRec f.toNat
      (Launch.wellFormed r = true → s.launchSet f.toNat r = true →
        ∃ t, exec (.launchRecord f) s = .next t ∧ (t.func f.toNat) = { x with sending := some ⟨r, List.replicate 6 0⟩ } ∧
          (∀ h, h ≠ f.toNat → t.func h = s.func h) ∧ t.cores = s.cores ∧ t.memB = s.memB ∧ t.errs = s.errs) ∧
      (Launch.wellFormed r = false ∨ s.launchSet f.toNat r = false →
        ∃ t e, exec (.launchRecord f) s = .next t ∧ (t.func f.toNat).head = x.head + 1 ∧ t.errs = s.errs ++ [e] ∧
          e.cls = 9 ∧ e.detail = BitVec.ofNat 64 (Launch.tag r))) ∧
    (∀ y o, x.sending = some y → s.launchOwner f.toNat (Launch.first y.bytes) = some o →
      let w := Launch.id y.bytes y.next
      let m := Launch.first y.bytes + w / 2 ^ Launch.bound y.bytes (Launch.spread y.bytes) % Launch.count y.bytes
      let g := (s.core m).ring 0
      x.launchStop = false → s.liveFor o m = true → (s.core m).hasRoom 0 = true → portIdle s o m →
        ∃ t, exec (.launchRecord f) s = .next t ∧ (t.core m).ring 0 = { g with tail := g.tail + 1 } ∧
          (t.core m).plateWords (g.slotAt g.tail) 8 =
            [BitVec.ofNat 64 (Launch.entry y.bytes % 2 ^ 52 + 1), BitVec.ofNat 64 w] ++
              (List.range 6).map (fun i => BitVec.ofNat 64 (Launch.at_ y.bytes (64 + 8 * i) 8)) ∧
          (t.func f.toNat).head = x.head + (if Launch.succ y.bytes y.next = none then 1 else 0) ∧
          (t.func f.toNat).sending = (Launch.succ y.bytes y.next).map fun fs => ⟨y.bytes, fs⟩))

/-- R244, R245, R67: a fill copies the elements of one unit from image B into its tile, a drain copies them out, counting its
drains at PROG; the unit that a released drain left in flight completes and is counted; a steep appends records to its ring
at a slot of the target's port, with the marker last; a rack writes the records it took, counts them at PROG, and reads its
consumer's count. -/
def Obligations.AgentsMoveData : Prop :=
  ∀ (n : BitVec 11) (h : BitVec 8) (a : Agent) (s : State), s.latent = [] →
    let w := a.desc
    let c := s.core n.toNat
    let key := s.keyFor a.owner false
    let k := ADesc.tile w
    let x := c.tile k
    let u := x.prog.toNat
    let z := ADesc.z w
    let unit (i : Nat) : Nat := ADesc.addr w ((a.elem - 1) * ADesc.inner w + u * (128 / z) + i)
    let full : Prop := u = x.lenm1.toNat
    (moving s n.toNat h.toNat 2 a → x.state = .empty → x.agent = h → a.elem < ADesc.outer w → c.noFlight k = true →
      ∃ t, exec (.steepFillStart n h) s = .next t ∧ (t.core n.toNat).tile k = { x with state := .filling, prog := 0 } ∧
        agentIs t n.toNat h.toNat (fun b => b.elem = a.elem + 1 ∧ b.state = .running) ∧
        ((∀ y, y < 32 → y ≠ k → (c.tile y).state ≠ .filling) → (t.core n.toNat).plate = c.plate) ∧ t.memB = s.memB) ∧
    (moving s n.toNat h.toNat 2 a → x.state = .filling → x.agent = h → elementSize z →
      ∀ pa : Nat → Nat, (∀ i, i < 128 / z → unit i % z = 0 ∧ agentPlace s n.toNat h.toNat a false (unit i) (pa i)) →
      ∃ t, exec (.steepUnitComplete n h) s = .next t ∧
        ((k, x.base.toNat + u) ∉ c.spoilt → ∀ i b, i < 128 / z → b < z →
          (t.core n.toNat).plateByte (x.start + 128 * u + z * i + b) = s.bByte key (pa i + b)) ∧
        (∀ y, (y < x.start + 128 * u ∨ x.start + 128 * u + 128 ≤ y) → (t.core n.toNat).plateByte y = c.plateByte y) ∧
        (full → (t.core n.toNat).tile k = { x with prog := x.prog + 1, state := .ready, seq := x.seq + 1 } ∧
          agentIs t n.toNat h.toNat fun b => b.count = a.count + 1 ∧
            b.state = if a.elem = ADesc.outer w then .ended else .running) ∧
        (¬full → (t.core n.toNat).tile k = { x with prog := x.prog + 1 } ∧
          agentIs t n.toNat h.toNat fun b => b.count = a.count ∧ b.state = .running) ∧ t.memB = s.memB) ∧
    (moving s n.toNat h.toNat 4 a → x.state = .ready → x.agent = h → a.elem < ADesc.outer w → c.noFlight k = true →
      ∃ t, exec (.rackDrainStart n h) s = .next t ∧ (t.core n.toNat).tile k = { x with state := .draining, prog := 0 } ∧
        agentIs t n.toNat h.toNat (fun b => b.elem = a.elem + 1 ∧ b.state = .running) ∧
        (t.core n.toNat).plate = c.plate ∧ t.memB = s.memB) ∧
    (moving s n.toNat h.toNat 4 a → x.state = .draining → x.agent = h → elementSize z → unmarked s a.owner →
      (∀ f ∈ c.flights, f.handle ≠ h.toNat) → ∀ (pa : Nat → Nat) (p : Nat),
      (∀ i, i < 128 / z → unit i % z = 0 ∧ agentPlace s n.toNat h.toNat a true (unit i) (pa i)) →
      (∀ i l, i < l → l < 128 / z → pa i ≠ pa l) →
      let counts : Prop := full ∧ ADesc.prog w ≠ 0
      (counts → ADesc.prog w % 8 = 0 ∧ agentPlace s n.toNat h.toNat a true (ADesc.prog w) p ∧
        ∀ i, i < 128 / z → p + 8 ≤ pa i ∨ pa i + z ≤ p) →
      ∃ t, exec (.rackUnitComplete n h) s = .next t ∧
        (∀ i b, i < 128 / z → b < z → t.bByte key (pa i + b) = c.plateByte (x.start + 128 * u + z * i + b)) ∧
        (counts → littleEndian (t.bByte key) p 8 = (a.count + 1) % 2 ^ 64) ∧
        (∀ y, (∀ i, i < 128 / z → y < pa i ∨ pa i + z ≤ y) → (¬counts ∨ y < p ∨ p + 8 ≤ y) →
          t.bByte key y = s.bByte key y) ∧
        (t.core n.toNat).tile k = { x with prog := x.prog + 1, state := if full then .empty else .draining } ∧
        agentIs t n.toNat h.toNat (fun b => b.count = a.count + b2n (decide full)) ∧
        (t.core n.toNat).plate = c.plate) ∧
    (∀ f, c.flights.find? (fun f => f.handle == h.toNat) = some f → Store.find h.toNat c.agents = some a →
      f.agent.owner = a.owner → unmarked s a.owner → ADesc.z f.agent.desc = z → elementSize z → f.tile < 32 →
      ∀ pa : Nat → Nat,
      let dst (i : Nat) : Nat := ADesc.addr f.agent.desc (f.agent.unitElem f.unit i)
      (∀ i, i < 128 / z → dst i % z = 0 ∧ agentPlace s n.toNat h.toNat a true (dst i) (pa i)) →
      (∀ i l, i < l → l < 128 / z → pa i ≠ pa l) →
      ∃ t, exec (.rackUnitComplete n h) s = .next t ∧
        (∀ i b, i < 128 / z → b < z → t.bByte key (pa i + b) = c.plateByte (f.start + 128 * f.unit + z * i + b)) ∧
        (∀ y, (∀ i, i < 128 / z → y < pa i ∨ pa i + z ≤ y) → t.bByte key y = s.bByte key y) ∧
        (t.core n.toNat).tile f.tile = { c.tile f.tile with
          prog := if f.counts then (c.tile f.tile).prog + 1 else (c.tile f.tile).prog } ∧
        (t.core n.toNat).flights = c.flights.filter (· != f) ∧ (t.core n.toNat).plate = c.plate) ∧
    (moving s n.toNat h.toNat 1 a →
      let m := ADesc.tcore w
      let g := (s.core m).ring (ADesc.ring w)
      let per := 48 / z
      let lo := a.count * per
      let hi := min (ADesc.total w) (lo + per)
      s.targetOk n.toNat m = true → (s.core m).hasRoom (ADesc.ring w) = true → elementSize z → portIdle s a.owner m →
      (a.count < ADesc.records w → ∀ pa : Nat → Nat,
        (∀ i, i < hi - lo → ADesc.addr w (lo + i) % z = 0 ∧
          agentPlace s n.toNat h.toNat a false (ADesc.addr w (lo + i)) (pa i)) →
        ∃ t, exec (.steepRecordAppend n h) s = .next t ∧ (t.core m).ring (ADesc.ring w) = { g with tail := g.tail + 1 } ∧
          (t.core m).plateWords (g.slotAt g.tail) 2 =
            [BitVec.ofNat 64 (n.toNat * 2 ^ 13 + 2), ADesc.wb w + BitVec.ofNat 64 a.count] ∧
          (∀ i b, i < hi - lo → b < z →
            (t.core m).plateByte (g.slotAt g.tail + 16 + z * i + b) = s.bByte key (pa i + b)) ∧
          (∀ y, 16 + z * (hi - lo) ≤ y → y < 64 → (t.core m).plateByte (g.slotAt g.tail + y) = 0) ∧
          agentIs t n.toNat h.toNat (fun b => b.count = a.count + 1 ∧ b.elem = hi ∧
            b.state = if a.count + 1 = ADesc.records w + b2n (ADesc.mark w) then .ended else .running) ∧ t.memB = s.memB) ∧
      (a.count = ADesc.records w → ADesc.mark w = true →
        ∃ t, exec (.steepRecordAppend n h) s = .next t ∧ (t.core m).ring (ADesc.ring w) = { g with tail := g.tail + 1 } ∧
          (t.core m).plateWords (g.slotAt g.tail) 8 =
            [BitVec.ofNat 64 (n.toNat * 2 ^ 13 + 3), ADesc.wb w + BitVec.ofNat 64 (ADesc.records w),
              BitVec.ofNat 64 (ADesc.total w), BitVec.ofNat 64 (ADesc.records w), 0, 0, 0, 0] ∧
          agentIs t n.toNat h.toNat (fun b => b.state = .ended) ∧ t.memB = s.memB)) ∧
    (∀ r rest d p, moving s n.toNat h.toNat 3 a → a.buf = r :: rest → unmarked s a.owner →
      let va := ADesc.base w + a.written % a.cap * 64
      va % 64 = 0 → agentPlace s n.toNat h.toNat a true va d →
      (ADesc.prog w ≠ 0 → ADesc.prog w % 8 = 0 ∧ agentPlace s n.toNat h.toNat a true (ADesc.prog w) p ∧
        (p + 8 ≤ d ∨ d + 64 ≤ p)) →
      ∃ t, exec (.rackRecordWrite n h) s = .next t ∧ (∀ i, i < 64 → t.bByte key (d + i) = byteAt r i) ∧
        (ADesc.prog w ≠ 0 → littleEndian (t.bByte key) p 8 = (a.written + 1) % 2 ^ 64) ∧
        (∀ y, (y < d ∨ d + 64 ≤ y) → (ADesc.prog w = 0 ∨ y < p ∨ p + 8 ≤ y) → t.bByte key y = s.bByte key y) ∧
        agentIs t n.toNat h.toNat fun b => b.buf = rest ∧ b.written = a.written + 1) ∧
    (∀ d, moving s n.toNat h.toNat 3 a → a.wrap = true → ADesc.ack w % 8 = 0 →
      agentPlace s n.toNat h.toNat a false (ADesc.ack w) d →
      ∃ t, exec (.rackAckReread n h) s = .next t ∧
        agentIs t n.toNat h.toNat (fun b => b.ack = BitVec.ofNat 64 (littleEndian (s.bByte key) d 8) ∧ b.reread = false) ∧
        (t.core n.toNat).rings = c.rings ∧ t.memB = s.memB)

/-! ### Jobs at work -/

namespace Sys2Proof.Claims

/-- A translation that the engine of job `j` holds puts `va` at `pa` of image `img`, where no poison is read, and a page that the row
or element in progress has translated lies there too; an access of image C meets an empty cache directory and no window open, and
a write no share break of its page (R309, R313, R316, R335, R69, R72). -/
def enginePlace (s : State) (g : Nat) (j : Job) (img : Image) (write : Bool) (va pa : Nat) : Prop :=
  ∃ t, s.cached (j.walker g) j.owner j.sup va = some t ∧ leafAllows t.leaf (!write) write false = true ∧
    s.paOk t.leaf t.shift va = true ∧ (write = true → Leaf.cow t.leaf = false) ∧ j.image t.leaf = img ∧
    (j.type = 3 ∨ (j.type = 2 ∧ CCard.bank j.card = true) → Leaf.tier t.leaf ≠ 1) ∧
    (∀ x ∈ s.tlbOf (j.walker g), 12 ≤ x.shift) ∧ pa = Leaf.frame t.leaf + va % 2 ^ t.shift ∧
    (∀ x, Store.find (va / 4096) j.pages = some x → x = (pa - va % 4096, t.leaf)) ∧
    (write = true → ∀ b ∈ s.breaks, b.owner = j.owner → b.sup = j.sup → va / 2 ^ b.shift ≠ b.page) ∧
    (write = false → s.poisonOf img (pa / 128) = none) ∧ (img = .c → s.copies = [] ∧ s.merges = [])

/-- Entry `e` of cluster `g` afterwards. -/
def jobIs (t : State) (g e : Nat) (p : Job → Prop) : Prop := ∃ j, (t.cluster g).job e = some j ∧ p j

/-- Job `j` afterwards holds the sector of `va` with the given bytes, and all it held else; it may have translated a page. -/
def sectorHeld (j : Job) (va : Nat) (bytes : Nat → Byte) (x : Job) : Prop :=
  (∀ i, i < 128 → x.heldByte (va - va % 128 + i) = bytes i) ∧
    (∀ y, y / 128 ≠ va / 128 → x.heldByte y = j.heldByte y) ∧ x = { j with held := x.held, pages := x.pages }

end Sys2Proof.Claims

/-- R226, R91, R232, R241, R242, R233, R237, R247, R248, R289: a queued job that no other stands before starts; a job that takes no
choice to read ahead (R92; log 63) reads one sector in one move, or one element of the accumulator, and commits one accumulator
element, or the elements of one sector of its destination, in one; the last element of a row advances PROG; a job whose owner no
longer runs suspends between rows; a finished job drains its accumulator sector by sector, frees its entry or leaves its wake
message, and one that `jcancel` named stops; a collective reads one sector of a source, or writes one of its destination, in one
move, completes and times out. -/
def Obligations.JobsRun : Prop :=
  ∀ (g : BitVec 8) (e : BitVec 5) (j : Job) (s : State), (s.cluster g.toNat).job e.toNat = some j →
    let w := j.card
    let key := s.keyFor j.owner j.sup
    let runs : Prop := s.ownerRuns g.toNat j.owner = true
    let moves : Prop := j.state = .running ∧ (runs ∨ j.part ≠ 0)
    (j.state = .queued → runs → j.owner < 256 →
      (∀ k x, k ≠ e.toNat → (s.cluster g.toNat).job k = some x → x.holds = false) →
      exec (.jobStart g (j.type != 1)) s = .next (s.setJob g.toNat e.toNat
        { j with state := .running, started := (s.island 44).cycles.toNat })) ∧
    (moves → j.type = 1 → j.prog < 32 → s.choices.headD 0 = 0 →
      (∀ va pa img, j.nextRead (j.rowLines j.prog) = some va → s.latent = [] → enginePlace s g.toNat j img false va pa →
        ∃ t, exec (.matrixRowCommit g e) s = .next t ∧
          jobIs t g.toNat e.toNat (sectorHeld j va fun i => s.imgByte img key (pa - pa % 128 + i)) ∧
          (t.cluster g.toNat).acc = (s.cluster g.toNat).acc ∧ t.memB = s.memB ∧ (img = .b → t.memC = s.memC)) ∧
      (∀ p, j.nextRead (j.rowLines j.prog) = none → j.nextAcc = some p →
        ∃ t, exec (.matrixRowCommit g e) s = .next t ∧
          jobIs t g.toNat e.toNat (fun x => x =
            { j with accs := Store.put p (littleEndian (s.cluster g.toNat).accByte (j.accAt j.prog p) 4) j.accs }) ∧
          (t.cluster g.toNat).acc = (s.cluster g.toNat).acc ∧ t.memB = s.memB ∧ t.memC = s.memC) ∧
      (j.nextRead (j.rowLines j.prog) = none → j.nextAcc = none →
        let at_ := j.accAt j.prog j.part
        let new := if j.rowWords = 64 then j.accNew j.heldByte j.prog (j.part / 2) / 2 ^ (32 * (j.part % 2))
          else j.accNew j.heldByte j.prog j.part
        ∃ t, exec (.matrixRowCommit g e) s = .next t ∧
          littleEndian (t.cluster g.toNat).accByte at_ 4 = new % 2 ^ 32 ∧
          (∀ y, (y < at_ ∨ at_ + 4 ≤ y) → (t.cluster g.toNat).accByte y = (s.cluster g.toNat).accByte y) ∧
          jobIs t g.toNat e.toNat (fun x =>
            if j.rowWords ≤ j.part + 1 then
              x.prog = j.prog + 1 ∧ x.part = 0 ∧ (x.state = if j.cancel then .cancelled else .running) ∧ x.accs = [] ∧
                (x.held = j.held ∨ x.held = [])
            else x = { j with part := j.part + 1 }) ∧
          t.coherence = s.coherence ++ [⟨.cluster g.toNat, at_, 4, j.owner⟩] ∧ t.memB = s.memB ∧ t.memC = s.memC)) ∧
    (moves → j.type = 2 → j.prog < CCard.total w → elementSize (CCard.z w) → s.choices.headD 0 = 0 →
      let run := j.run 128 j.prog
      let z := CCard.z w
      let move := if CCard.bank w then Instr.bankOpElement g e else .copyElement g e
      let reads := [CCard.srcAt w j.prog] ++ (if CCard.two w then [CCard.src2At w j.prog] else [])
      (∀ va ∈ [CCard.srcAt w j.prog, CCard.dstAt w j.prog], ∀ k off, plateAt va = some (k, off) → s.target j.owner k = .live) →
      (∀ va pa img, j.nextRead reads = some va → plateAt va = none → s.latent = [] →
        enginePlace s g.toNat j img false va pa →
        ∃ t, exec move s = .next t ∧
          jobIs t g.toNat e.toNat (sectorHeld j va fun i => s.imgByte img key (pa - pa % 128 + i)) ∧
          t.memB = s.memB ∧ (img = .b → t.memC = s.memC)) ∧
      (∀ va k off, j.nextRead reads = some va → plateAt va = some (k, off) →
        ∃ t, exec move s = .next t ∧
          jobIs t g.toNat e.toNat (sectorHeld j va fun i => (s.core k).plateByte ((va - va % 128 + i) % 2 ^ 20)) ∧
          t.memB = s.memB ∧ t.memC = s.memC) ∧
      (∀ (dst : Nat → Nat) (img : Image), j.nextRead reads = none → s.latent = [] → unmarked s j.owner →
        (∀ i ∈ run, plateAt (CCard.dstAt w i) = none ∧ CCard.dstAt w i % z = 0 ∧
          enginePlace s g.toNat j img true (CCard.dstAt w i) (dst i)) →
        (∀ i ∈ run, ∀ k ∈ run, i ≠ k → CCard.dstAt w i ≠ CCard.dstAt w k) →
        ∃ t, exec move s = .next t ∧
          (∀ i ∈ run, littleEndian (t.imgByte img key) (dst i) z =
            if CCard.bank w then
              bankOp (CCard.bop w) (CCard.btype w) (littleEndian j.heldByte (CCard.srcAt w i) z)
                (if CCard.two w then littleEndian j.heldByte (CCard.src2At w i) z else 0) % 2 ^ (8 * z)
            else littleEndian j.heldByte (CCard.srcAt w i) z) ∧
          (∀ y, (∀ i ∈ run, y < dst i ∨ dst i + z ≤ y) → t.imgByte img key y = s.imgByte img key y) ∧ j.prog ∈ run ∧
          jobIs t g.toNat e.toNat (fun x => x.prog = j.prog + run.length ∧ (x.held = j.held ∨ x.held = []) ∧
            x.state = if j.cancel then .cancelled else .running) ∧
          (img = .b → t.memC = s.memC) ∧ (img = .c → t.memB = s.memB))) ∧
    (j.state = .running → j.type ≠ 3 → j.wakeDue = false → ¬runs → (j.part = 0 ∨ j.goal ≤ j.prog) →
      exec (.jobSuspend g e) s = .next (s.setJob g.toNat e.toNat
        { j with state := if j.cancel then .cancelled else .suspended, held := [], accs := [], pages := [], stale := false
                 part := if j.goal ≤ j.prog then j.part else 0 })) ∧
    (j.state = .running → j.type ≠ 3 → j.wakeDue = false → runs → j.goal ≤ j.prog →
      let after : Job :=
        if j.wakes then { j with moved := true, drained := true, wakeDue := true, part := 0 }
        else { j with state := .done, part := 0 }
      let left : Prop := j.type = 1 ∧ MCard.drn w = true ∧ 128 * j.part < drainBytes w
      (j.cancel = true → exec (.jobComplete g e) s = .next (s.setJob g.toNat e.toNat { j with state := .cancelled })) ∧
      (j.cancel = false → ¬left → exec (.jobComplete g e) s = .next (s.setJob g.toNat e.toNat after)) ∧
      (j.cancel = false → left →
        let m := MCard.dcore w
        let d := MCard.doff w + 128 * j.part
        s.target j.owner m = .live → d + 128 ≤ 0x20000 → (∀ x ∈ (s.core m).tiles.toList, x.state ≠ .filling) →
        ∃ t, exec (.jobComplete g e) s = .next t ∧
          (∀ y, (t.core m).plateByte y = if d ≤ y ∧ y < d + 128 then
            (s.cluster g.toNat).accByte (4096 * MCard.acc w + 128 * j.part + (y - d)) else (s.core m).plateByte y) ∧
          (t.cluster g.toNat).job e.toNat = some { j with part := j.part + 1 })) ∧
    (j.wakeDue = true → j.cancel = true → j.state = .running →
      exec (.wakeMessageDelivery g e) s =
        .next ((s.dropWake g.toNat e.toNat j).setJob g.toNat e.toNat { j with state := .cancelled, wakeDue := false })) ∧
    (j.wakeDue = true → (j.cancel = false ∨ j.state ≠ .running) →
      let m := j.wakeCore
      let r := (s.core m).ring 0
      s.target j.owner m = .live → (s.core m).hasRoom 0 = true → portIdle s j.owner m →
      ∃ t, exec (.wakeMessageDelivery g e) s = .next t ∧ (t.core m).ring 0 = { r with tail := r.tail + 1 } ∧
        (t.core m).plateWords (r.slotAt r.tail) 8 =
          [(match j.type with | 1 => MCard.whand w | 2 => CCard.whand w | _ => Coll.whand w), j.work, j.id g.toNat e.toNat,
            (if j.state = .failed then j.status else BitVec.ofNat 64 (if j.type = 3 then 0 else j.prog)),
            (match j.type with | 1 => MCard.user w | 2 => CCard.user w | _ => Coll.user w), 0, 0, 0] ∧
        jobIs t g.toNat e.toNat fun x => (x.state = if j.state = .failed then .failed else .done) ∧ x.wakeDue = false) ∧
    (j.type = 3 → j.state = .running → j.moved = false →
      let ms := s.members j.owner w
      let z := Coll.z w
      (s.heard j.owner w = false → j.started + Config.groupTimeout (s.groupTable j.owner) (Coll.group w) ≤
          (s.island 44).cycles.toNat →
        ∃ t, exec (.collectiveTimeout g e) s = .next t ∧
          jobIs t g.toNat e.toNat fun x => x.state = .failed ∧ x.cause = 0x08 ∧ x.wakeDue = j.wakes) ∧
      (s.heard j.owner w = true → s.agreed j.owner w = true → s.latent = [] → j.prog < Coll.bytes w ms.length →
        let d := Coll.dst w + j.prog
        let len := min (128 - d % 128) (Coll.bytes w ms.length - j.prog)
        let r := ms.idxOf (0, g.toNat)
        let next := s.collNext j r ((List.range (len / z)).map fun i => j.prog / z + i)
        (∀ q h k i va pa, next = some (q, h, k, i, va) → enginePlace s h { i with pages := [] } .b false va pa →
          ∃ t l, exec (.collectiveMove g e) s = .next t ∧ l.length = 128 ∧
            (∀ b, b < 128 → l.getD b 0 = s.bByte (s.keyFor i.owner i.sup) (pa - pa % 128 + b)) ∧
            jobIs t g.toNat e.toNat (fun x => x = { j with held := Store.put (heldKey q va) l j.held }) ∧
            t.memB = s.memB ∧ t.memC = s.memC) ∧
        (∀ pa, next = none → unmarked s j.owner → j.prog % z = 0 → Coll.dst w % z = 0 → plateAt d = none →
          enginePlace s g.toNat { j with pages := [] } .b true d pa →
          ∃ t, exec (.collectiveMove g e) s = .next t ∧
            (∀ i, i < len / z →
              littleEndian (t.bByte key) (pa + z * i) z = (match Coll.elem w ms.length r (j.prog / z + i) with
                | (x, some q) => s.contribution j q x
                | (x, none) => collResult w ms (fun q => s.contribution j q x) x) % 2 ^ (8 * z)) ∧
            (∀ y, (y < pa ∨ pa + len ≤ y) → t.bByte key y = s.bByte key y) ∧
            jobIs t g.toNat e.toNat fun x => x.prog = j.prog + len ∧ x.held = [] ∧
              x.moved = decide (Coll.bytes w ms.length ≤ j.prog + len)))) ∧
    (j.type = 3 → j.state = .running → j.moved = true → j.wakeDue = false → j.drained = true →
      ∃ t, exec (.collectiveComplete g e) s = .next t ∧ t.memB = s.memB ∧ t.cores = s.cores ∧
        jobIs t g.toNat e.toNat fun x => if j.wakes then x.state = .running ∧ x.wakeDue = true else x.state = .done)

/-! ### Arbitration, placement and clocks -/

namespace Sys2Proof.Claims

/-- Point `i` of class `k` exists, is not paused, and its island's clock does not change (R123, R128, R358). -/
def open_ (s : State) (k i : Nat) : Prop :=
  pointExists k i = true ∧ (s.point k i).paused = false ∧ s.changing k i = false

/-- One slot of a point has passed (R124). -/
def slotPassed (s t : State) (k i : Nat) : Prop := (t.point k i).slot = (s.point k i).slot + 1

/-- Pick(S, u) of R124 is `o`, for the owners `l` in increasing order with tickets `t`. -/
def picks (t : Nat → Nat) (l : List Nat) (u o : Nat) : Prop :=
  let total := (l.map t).sum
  if total = 0 then l[u * l.length / 2 ^ 32]? = some o
  else ∃ a b, l = a ++ o :: b ∧ (a.map t).sum ≤ u * total / 2 ^ 32 ∧ u * total / 2 ^ 32 < (a.map t).sum + t o

/-- The slot that point `i` of class `k` comes to goes to requester `n` of owner `o`, of the present requesters `l`, each with its
owner: the owner of the first draw over the configured owners, or of the second over the present ones; then the draw under the
arbitration seed in use and the salt, among the owner's requesters in increasing order (R124). -/
def wins (s : State) (k i : Nat) (l : List (Nat × Nat)) (o n : Nat) : Prop :=
  let p := s.point k i
  let id := BitVec.ofNat 32 (k * 2 ^ 24 + i)
  let q := stipple (Config.pointKey s.boot.resets) id p.slot p.slotEpoch 2
  let key := Store.get 0 (k * 2 ^ 32 + i) (s.owner o).arbInUse ^^^ (s.func (s.funcOf o)).salt
  let present := (List.range 256).filter fun w => l.any fun x => x.1 == w
  ((picks (s.tickets k) (s.configured k i) q.x0.toNat o ∧ o ∈ present) ∨
    ((∀ w, picks (s.tickets k) (s.configured k i) q.x0.toNat w → w ∉ present) ∧
      picks (s.tickets k) present q.x1.toNat o)) ∧
  ∃ mine : List Nat, mine.Pairwise (· < ·) ∧ (∀ x, x ∈ mine ↔ (o, x) ∈ l) ∧
    mine[(stipple key id p.slot p.slotEpoch 2).x0.toNat * mine.length / 2 ^ 32]? = some n

end Sys2Proof.Claims

/-- R124: one slot of a point passes, and the one requester present there is granted, whatever the draw: the lane pool gives
a claim min(c, G + Free) lanes in that slot (R209), the job queue an entry, a plate port a slot of a ring, and a point on its
way lets a queued access of a core go on, or a request of an engine, a walk, the host or a write-back (R127). Of several claims of
lanes, or admissions that the queue has room for, the slot goes to the requester that the two draws and the owner's own draw name
(R123). R114: a point
takes the arbitration seed. R119, R120: a placement epoch starts, and a visit leaves no copy of the old epoch in its set. R126:
a throttle window starts again. R324: a balance rises by RATE up to DEPTH. R128, R358: refresh and retraining pause a point
and lose no slot; a clock changes in one step. -/
def Obligations.SlotsAndPlacement : Prop :=
  (∀ (i n : Nat) (s : State),
    (∀ want, open_ s 5 i → s.heading 5 i = [] → (s.cluster i).claims = [(n, want)] →
      let got := min want ((s.core n).lanes + s.freeLanes (clusterOf n))
      ∃ t, exec (.arbitrationSlot 5 i) s = .next t ∧ slotPassed s t 5 i ∧ (t.cluster i).claims = [] ∧
        (t.cluster i).claimGrants = (s.cluster i).claimGrants ++ [n] ∧ (t.core n).lanes = got ∧
        (t.core n).demand = want - got ∧ (∀ m, m ≠ n → t.core m = s.core m)) ∧
    (let l := s.cluster i |>.claims
     open_ s 5 i → l ≠ [] → (l.map Prod.fst).Nodup → (∀ x ∈ l, (s.core x.1).own < 256) →
      ∃ t n, exec (.arbitrationSlot 5 i) s = .next t ∧ slotPassed s t 5 i ∧
        wins s 5 i (l.map fun x => ((s.core x.1).own, x.1)) (s.core n).own n ∧
        (t.cluster i).claims = l.filter (fun x => x.1 != n) ∧ (t.cluster i).claimGrants = (s.cluster i).claimGrants ++ [n]) ∧
    (let l := (s.cluster i).admits.filter fun n => s.mayAdmit i (s.core n).own
     open_ s 6 i → i < 256 → l ≠ [] → (s.cluster i).admits.Nodup → (∀ n ∈ l, (s.core n).own < 256) →
      ∃ t n, exec (.arbitrationSlot 6 i) s = .next t ∧ slotPassed s t 6 i ∧
        wins s 6 i (l.map fun n => ((s.core n).own, n)) (s.core n).own n ∧
        (t.cluster i).admits = (s.cluster i).admits.filter (fun x => x != n) ∧
        (t.cluster i).admitGrants = (s.cluster i).admitGrants ++ [n]) ∧
    (open_ s 6 i → s.heading 6 i = [] → i < 256 → (s.cluster i).admits = [n] → s.mayAdmit i (s.core n).own = true →
      ∃ t, exec (.arbitrationSlot 6 i) s = .next t ∧ slotPassed s t 6 i ∧ (t.cluster i).admits = [] ∧
        (t.cluster i).admitGrants = (s.cluster i).admitGrants ++ [n] ∧ t.cores = s.cores) ∧
    (∀ o j tag, open_ s 9 i → s.heading 9 i = [] → s.crossing 9 i = [] → (s.core i).portWait = [⟨o, n, j, false, true, tag⟩] →
      (s.core i).hasRoom j = true → (j = 0 → tag = 0 → s.devBefore n i = false) →
      ∃ t, exec (.arbitrationSlot 9 i) s = .next t ∧ slotPassed s t 9 i ∧
        (t.core i).portWait = [⟨o, n, j, true, true, tag⟩] ∧
        (t.core i).resv j = (s.core i).resv j + 1 ∧ t.clusters = s.clusters) ∧
    (∀ (k : BitVec 4) (x : Traffic), open_ s k.toNat i → (k ≤ 4 ∨ k = 7 ∨ k = 8 ∨ k = 9 ∧ (s.core i).portWait = []) →
      s.heading k.toNat i = [] → s.crossing k.toNat i = [x] → x.entered = true → s.canCross x = true →
      x.path.tail.head? ≠ some (k.toNat, i) →
      ∃ t, exec (.arbitrationSlot k i) s = .next t ∧ slotPassed s t k.toNat i ∧
        t.traffic = (if x.path.tail = [] then s.traffic.filter (· != x)
          else s.traffic.map fun y => if y = x then { x with path := x.path.tail, entered := true } else y) ∧
        t.cores = s.cores ∧ t.memB = s.memB ∧ t.memC = s.memC) ∧
    (∀ (k : BitVec 4) (a : Access), open_ s k.toNat i → (k ≤ 4 ∨ k = 7 ∨ k = 8 ∨ k = 9 ∧ (s.core i).portWait = []) →
      s.heading k.toNat i = [(n, a)] → s.crossing k.toNat i = [] → a.entered = true → (s.core n).access a.id = some a →
      s.canAdvance n a = true → a.path.tail.head? ≠ some (k.toNat, i) →
      ∃ t, exec (.arbitrationSlot k i) s = .next t ∧ slotPassed s t k.toNat i ∧
        (t.core n).access a.id = some { a with path := a.path.tail, entered := !a.path.tail.isEmpty } ∧
        t.memB = s.memB ∧ t.memC = s.memC) ∧
    (∀ k : BitVec 4, k ≤ 9 → ¬(k = 6 ∧ 256 ≤ i) → open_ s k.toNat i →
      ∃ t, exec (.arbitrationSlot k i) s = .next t ∧ slotPassed s t k.toNat i ∧ t.memB = s.memB ∧ t.memC = s.memC)) ∧
  (∀ (k : BitVec 4) (i : Nat) (o : BitVec 8) (s : State), pointExists k.toNat i = true →
    (∃ t, exec (.arbKeyUpdate k i o) s = .next t ∧
      (∀ p, Store.find p (t.owner o.toNat).arbInUse = if p = k.toNat * 2 ^ 32 + i then some (s.owner o.toNat).seedArb
        else Store.find p (s.owner o.toNat).arbInUse) ∧ t.points = s.points) ∧
    (Own.rate (s.owner o.toNat).entryPts k.toNat ≠ 0 →
      ∃ t, exec (.limiterRefill o k i) s = .next t ∧
        (∀ p, Store.get 0 p (t.owner o.toNat).balance = if p = k.toNat * 2 ^ 32 + i then
            min (Store.get 0 p (s.owner o.toNat).balance + (Own.rate (s.owner o.toNat).entryPts k.toNat : Int))
              (Own.depth (s.owner o.toNat).entryPts k.toNat : Int)
          else Store.get 0 p (s.owner o.toNat).balance))) ∧
  (∀ (o : BitVec 8) (s : State),
    let w := s.owner o.toNat
    (∀ q rest, w.reseeds = q :: rest → w.sweep = none →
      exec (.placementEpochStart o) s = .next (s.updOwner o.toNat fun w =>
        { w with
          epoch := w.epoch + 1, keyOld := some w.keyNow, keyNow := w.seedPlace ^^^ (s.func (s.funcOf o.toNat)).salt
          sweep := some ⟨1, []⟩, reseeds := rest })) ∧
    (∀ (x : Sweep) (i : Nat), w.sweep = some x → i < sweepInstances x.phase →
      Store.get 0 i x.next < instanceSets x.phase →
      let k := Store.get 0 i x.next
      ∃ t, exec (.sweepSetVisit o i) s = .next t ∧
        (∀ c ∈ t.copies, c.cls = x.phase → c.inst = i → c.set = setNumber x.phase i k → c.owner = o.toNat →
          c.epoch = w.epoch) ∧
        ((t.owner o.toNat).sweep = some { x with next := Store.put i (k + 1) x.next } ∨
          (∀ j, j < sweepInstances x.phase → instanceSets x.phase ≤ Store.get 0 j (Store.put i (k + 1) x.next)) ∧
            (t.owner o.toNat).sweep = if x.phase = 3 then none else some ⟨x.phase + 1, []⟩)) ∧
    (∀ row : Nat, ∃ r, exec (.throttleWindowExpire o row) s = .next { s with rows := r } ∧
      Store.find (o.toNat * 2 ^ 64 + row) r = none ∧
      ∀ k, k ≠ o.toNat * 2 ^ 64 + row → Store.find k r = Store.find k s.rows)) ∧
  (∀ (k : BitVec 4) (i : Nat) (s : State),
    (i < 8192 → ∃ t, exec (.hbmRefresh i) s = .next t ∧ (t.point 4 i).paused = !(s.point 4 i).paused ∧
      (t.point 4 i).slot = (s.point 4 i).slot) ∧
    ((k = 0 ∨ k = 7 ∨ k = 8) → open_ s k.toNat i →
      ∃ t e, exec (.linkRetrain k i) s = .next t ∧ (t.point k.toNat i).paused = true ∧
        (t.point k.toNat i).slot = (s.point k.toNat i).slot ∧ t.errs = s.errs ++ [e] ∧ e.cls = 0x0C ∧ e.owner = none) ∧
    ((k = 0 ∨ k = 7 ∨ k = 8) → (s.point k.toNat i).paused = true →
      ∃ t, exec (.retrainingComplete k i) s = .next t ∧ (t.point k.toNat i).paused = false ∧
        (t.point k.toNat i).slot = (s.point k.toNat i).slot)) ∧
  (∀ (j : BitVec 6) (mhz : BitVec 16) (s : State), j.toNat < 32 → (s.island j.toNat).want = mhz →
    (s.island j.toNat).mhz ≠ mhz → s.islandWhole j.toNat = true →
      ∃ t, exec (.frequencyChange j mhz) s = .next t ∧ (t.island j.toNat).mhz = mhz ∧
        (t.island j.toNat).cycles = (s.island j.toNat).cycles ∧ t.points = s.points ∧ t.cores = s.cores)

/-! ### Faults, tables and the schedule -/

namespace Sys2Proof.Claims

/-- The record pending under `tag` in slot `slot` of function `f` is `r`, and no other has its tag (R312). -/
def pendingFault (s : State) (f slot o : Nat) (tag : BitVec 32) (pre : List FaultRec) (r : FaultRec) (suf : List FaultRec) :
    Prop :=
  Vd.svalid (s.func f).entry slot = true ∧ Vd.own (s.func f).entry slot = o ∧ (s.owner o).faults = pre ++ r :: suf ∧
    r.written = true ∧ r.tag = tag ∧ ∀ x ∈ pre ++ suf, x.tag ≠ tag

/-- `s` once that record has left the fault queue. -/
def replied (s : State) (o : Nat) (l : List FaultRec) : State := s.updOwner o fun w => { w with faults := l }

end Sys2Proof.Claims

/-- R312: the oldest record not yet written enters the fault queue and TAIL advances; a replay lets the requester walk again,
a reject gives the core trap 0x04 and the job cause 0x04, an unknown TAG is recorded, and in bring-up the host has no such
register (R353). R200, R283, R316: waiting instructions complete. R321, R346: a commit takes a table entry that passes the checks
and refuses any other; the points take what has been committed; a retired owner leaves nothing in the caches. R329, R362: the schedule is turned on, and off from
the end of the round; in bring-up the host has none of these registers (R353). That one move takes every committed entry to
every point is the model's choice (log 37), as are which round is the current one (log 35) and the detail of the record of an
unknown TAG (log 38). -/
def Obligations.FaultsAndTables : Prop :=
  (∀ (o : BitVec 8) (s : State) (pre suf : List FaultRec) (f : FaultRec),
    let w := s.owner o.toNat
    let key := s.moduleKey
    let base := Own.fqBase w.entry
    let tail := littleEndian (s.bByte key) (base - 8) 8
    let head := littleEndian (s.bByte key) (base - 16) 8
    let at_ := base + tail % 2 ^ Own.fqLog2 w.entry * 64
    w.faults = pre ++ f :: suf → (∀ x ∈ pre, x.written = true) → f.written = false → f.info.length = 6 →
    (tail + 2 ^ 64 - head) % 2 ^ 64 < 2 ^ Own.fqLog2 w.entry → 16 ≤ base →
      ∃ t, exec (.faultRecordWrite o) s = .next t ∧
        (t.owner o.toNat).faults = pre ++ { f with written := true } :: suf ∧
        littleEndian (t.bByte key) at_ 8 =
          f.va.toNat % 2 ^ 52 + f.src.code * 2 ^ 52 + (if f.write then 2 ^ 56 else 0) + (if f.empty then 2 ^ 57 else 0) ∧
        littleEndian (t.bByte key) (at_ + 8) 8 =
          (o.toNat + f.src.core * 2 ^ 8 + f.tag.toNat * 2 ^ 32) % 2 ^ 64 ∧
        (∀ i, i < 6 → littleEndian (t.bByte key) (at_ + 16 + 8 * i) 8 = (f.info.getD i 0).toNat) ∧
        littleEndian (t.bByte key) (base - 8) 8 = (tail + 1) % 2 ^ 64 ∧
        (∀ y, (y < at_ ∨ at_ + 64 ≤ y) → (y < base - 8 ∨ base ≤ y) → t.bByte key y = s.bByte key y)) ∧
  (∀ (f : BitVec 6) (slot : BitVec 2) (tag : BitVec 32) (o : Nat) (pre suf : List FaultRec) (r : FaultRec) (src : FaultSrc)
      (va : Word) (s : State), s.boot.state = 4 → pendingFault s f.toNat slot.toNat o tag pre r suf → r.waiters = [(src, va)] →
    let t := replied s o (pre ++ suf)
    (∀ n, src = .fetch n ∨ src = .data n → s.liveFor o n = true → (s.core n).hold = .fault →
      (s.core n).pending = none →
      exec (.faultReplyReplay f slot tag) s = .next (t.updCore n fun c => { c with hold := .none }) ∧
      exec (.faultReplyReject f slot tag) s = .next ((t.giveUp n).takeTrap n 0x04 va (s.core n).chainStart)) ∧
    (∀ g e seq n copy j, src = .job g e seq n copy → e < 32 → (s.cluster g).job e = some j → j.owner = o →
      j.faulted = true → j.state = .suspended → j.seq = seq → j.type ≠ 3 →
      exec (.faultReplyReplay f slot tag) s = .next (t.setJob g e { j with faulted := false }) ∧
      exec (.faultReplyReject f slot tag) s = .next (t.setJob g e
        { j with state := .failed, cause := 0x04, wakeDue := j.wakes, faulted := false })) ∧
    (∀ n h a, src = .agent n h → s.liveFor o n = true → Store.find h (s.core n).agents = some a → a.faulted = true →
      (∃ u, exec (.faultReplyReplay f slot tag) s = .next u ∧
        agentIs u n h fun b => b.faulted = false ∧ b.state = a.state ∧ b.elem = a.elem) ∧
      (∃ u, exec (.faultReplyReject f slot tag) s = .next u ∧
        agentIs u n h fun b => b.faulted = false ∧ b.state = .stopped 0x04))) ∧
  (∀ (f : BitVec 6) (slot : BitVec 2) (tag : BitVec 32) (s : State),
    (s.boot.state ≠ 4 → exec (.faultReplyReplay f slot tag) s = .next s ∧ exec (.faultReplyReject f slot tag) s = .next s) ∧
    (s.boot.state = 4 → (∀ x ∈ (s.owner (Vd.own (s.func f.toNat).entry slot.toNat)).faults, x.tag ≠ tag) →
      ∃ t e, exec (.faultReplyReplay f slot tag) s = .next t ∧ exec (.faultReplyReject f slot tag) s = .next t ∧
        t = { s with eseq := s.eseq + 1, errs := s.errs ++ [e] } ∧ e.cls = 0x0B ∧ e.detail = tag.setWidth 64)) ∧
  (∀ (n : BitVec 11) (s : State),
    let done (t : State) := t.updCore n.toNat fun c => { c with hold := .none, pc := c.pc + 4, hints := [] }
    (∀ ids o, (s.core n.toNat).hold = .tinv ids o → (∀ m c, (m, c) ∈ s.cores → ∀ a ∈ c.pend, a.id ∉ ids) →
      (∀ x ∈ s.lateLoads, x.2.1.id ∉ ids) →
      (∀ g c, (g, c) ∈ s.clusters → ∀ j, some j ∈ c.jobs.toList → j.owner = o → j.state = .running → j.stale = false) →
      exec (.tinvComplete n) s = .next (done s)) ∧
    ((s.core n.toNat).hold = .icinv → (∀ a ∈ (s.core n.toNat).pend, a.op ≠ .range .icinv) →
      exec (.icinvComplete n) s = .next (done s)) ∧
    (∀ slot, (s.core n.toNat).hold = .keyld slot →
      exec (.keyldComplete n) s = .next (done (s.updOwner slot fun w => { w with needKey := false })))) ∧
  (∀ (f o : BitVec 8) (s : State), s.busy = false → s.boot.state = 4 →
    let e := BitVec.ofNat 2048 (s.tableRead (s.vdtBase.toNat * 4096 + 256 * f.toNat) 256)
    let d := BitVec.ofNat 4096 (s.tableRead (s.owtBase.toNat * 4096 + 512 * o.toNat) 512)
    let w := s.owner o.toNat
    let vdOk : Prop := f.toNat < 64 ∧ Vd.wellFormed e = true ∧ s.slotsDistinct f.toNat e = true ∧
      mapsOk e (s.namedEntries e none) = true
    let ownOk : Prop := Own.wellFormed d = true ∧ s.ownerMapsOk o.toNat d = true ∧
      ¬(Own.valid d = true ∧ Own.valid w.entryNext = false ∧ w.needKey = true)
    (vdOk → exec (.commitVdEntry f) s =
      .next ({ s with commitErr := false }.updFunc f.toNat fun x => { x with entryNext := e, disabled := false })) ∧
    (¬vdOk → exec (.commitVdEntry f) s = .next { s with commitErr := true }) ∧
    (ownOk → ∃ t, exec (.commitOwnerEntry o) s = .next t ∧ t.commitErr = false ∧ (t.owner o.toNat).entryNext = d ∧
      (t.owner o.toNat).entry = w.entry ∧ (t.owner o.toNat).entryPts = w.entryPts ∧
      (t.owner o.toNat).retiring = (Own.valid w.entryNext && !Own.valid d) ∧
      (t.owner o.toNat).exceed = (if Own.valid d && !Own.valid w.entryNext then [] else w.exceed) ∧ t.memB = s.memB ∧ t.cores = s.cores) ∧
    (¬ownOk → exec (.commitOwnerEntry o) s = .next { s with commitErr := true })) ∧
  (∀ (f o : BitVec 8) (s : State), s.busy = true ∨ s.boot.state ≠ 4 →
    exec (.commitVdEntry f) s = .next s ∧ exec (.commitOwnerEntry o) s = .next s) ∧
  (∀ s : State, ∃ t, exec .commitPropagate s = .next t ∧ (∀ o, (t.owner o).entryPts = (s.owner o).entryNext) ∧
    (∀ f, (t.func f).entryPts = (s.func f).entryNext) ∧ (∀ o, (t.owner o).entry = (s.owner o).entry) ∧
    t.memB = s.memB ∧ t.cores = s.cores) ∧
  (∀ (o : BitVec 8) (s : State), (s.owner o.toNat).retiring = true →
    ∃ t, exec (.ownerRetirement o) s = .next t ∧ (t.owner o.toNat).retiring = false ∧
      (∀ line l, Store.find line t.memC = some l → l.owner ≠ o.toNat) ∧ (∀ c ∈ t.copies, c.owner ≠ o.toNat) ∧
      (∀ n, ∀ x ∈ (t.core n).tlb, x.owner ≠ o.toNat) ∧ (∀ n, ∀ x ∈ (t.core n).icache, x.owner % 256 ≠ o.toNat)) ∧
  (∀ (n : BitVec 6) (s : State),
    let u : State := { s with nrm1 := n }
    let legal : Prop := ∀ k, k ≤ n.toNat →
      (∀ f, f < 64 → u.inRound f k = true → Vd.enabled (s.func f).entryNext = true ∧ (s.func f).disabled = false) ∧
      (∀ f h, f < 64 → h < 64 → f ≠ h → u.inRound f k = true → u.inRound h k = true →
        Vd.overlap (s.func f).entryNext (s.func h).entryNext = false)
    (s.boot.state ≠ 4 → exec (.scheduleEnable n) s = .next s) ∧
    (s.boot.state = 4 → legal → exec (.scheduleEnable n) s = .next { s with
      nrm1 := n, schedEn := true, schedErr := false, stopPending := false
      rounds := if s.schedEn then s.rounds else [] }) ∧
    (s.boot.state = 4 → ¬legal → exec (.scheduleEnable n) s = .next { s with schedErr := true }) ∧
    (s.schedEn = true → s.boot.state = 4 → exec .scheduleDisable s =
      .next { s with stopPending := true, stopRound := s.roundNext }) ∧
    (s.schedEn = false ∨ s.boot.state ≠ 4 → exec .scheduleDisable s = .next s))

/-! ### Slices -/

/-- R329, R330, R331, R333, R365: a slice ends in four phases (dispatch stops, blocked cores are pre-empted, stores drain, the
context is written to its save block, the cores are cleared and the partition's round passes), a restore reads the block
back, and a message that waited at the device enters its live inbox, once the accesses it releases have been performed
(R147) and at a slot of the port, or its saved one. R362: a pending stop takes effect at a round's end once no slice runs and
no function of the current round is still to be restored. What of the engine state a save keeps beside the block is the model's
choice (log 30), as is how rounds are counted and passed (log 35); that a saved inbox takes messages as a live one does is its
reading (log 36). -/
def Obligations.SlicesEndAndRestore : Prop :=
  ∀ (f : BitVec 6) (s : State),
    let x := s.func f.toNat
    let mine (n : Nat) : Prop := ∃ o, (s.core n).ctx = some o ∧ o ∈ Vd.owners x.entry
    (x.slice = .running → s.schedEn = true →
      ∃ t, exec (.roundEnd f) s = .next t ∧ (t.func f.toNat).slice = .ending 0 ∧
        (∀ n, mine n → (t.core n).stopped = true) ∧ (∀ n, (t.core n).sregs = (s.core n).sregs) ∧ t.memB = s.memB) ∧
    (s.stopPending = true → s.anySlice = false → (∀ g, g < 64 → s.turn g = none ∨ s.mayRestore g = false) →
      exec (.roundEnd f) s = .next { s with schedEn := false, stopPending := false }) ∧
    (∀ k, x.slice = .off → s.schedEn = true → s.mayStop = false → s.mayRestore f.toNat = false →
      s.turn f.toNat = some k →
      ∃ t, exec (.roundEnd f) s = .next t ∧
        (∀ g, g < 256 → Vd.part x.entryNext g = true → Store.get 0 g t.rounds = k + 1) ∧
        (∀ g, 256 ≤ g ∨ Vd.part x.entryNext g = false → Store.get 0 g t.rounds = Store.get 0 g s.rounds) ∧
        t.cores = s.cores ∧ t.funcs = s.funcs) ∧
    (x.slice = .ending 0 → (∀ n ∈ s.coresIn f.toNat, (s.core n).quiet = true) →
      (∀ o ∈ Vd.owners x.entry, s.jobMoving o = false) →
      ∃ t, exec (.sliceQuiesce f) s = .next t ∧ (t.func f.toNat).slice = .ending 1 ∧
        (∀ n, mine n → (t.core n).hold = .none ∧ (t.core n).sregs = (s.core n).sregs ∧
          ((s.core n).hold ≠ .none → (t.core n).blk = true ∧ (t.core n).rpc = (s.core n).chainStart)) ∧ t.memB = s.memB) ∧
    (x.slice = .ending 1 → (∀ n ∈ s.coresIn f.toNat, s.drainedCore n = true) →
      exec (.sliceDrain f) s = .next (s.updFunc f.toNat fun h => { h with slice := .ending 2 })) ∧
    (∀ n o, x.slice = .ending 2 → s.boot.state = 4 → s.coresIn f.toNat = [n] → (s.core n).ctx = some o →
      let base := Own.csBase (s.owner o).entry + n * 0x40000
      let key := s.keyFor o false
      let c := s.core n
      base % 128 = 0 →
      ∃ t, exec (.sliceSave f) s = .next t ∧ (t.func f.toNat).slice = .ending 3 ∧
        (∀ y, y < 0x20000 → t.cByte key (base + y) = c.plateByte y) ∧
        (∀ j i, j < 16 → i < 8 →
          littleEndian (t.cByte key) (base + 0x21000 + 64 * j + 8 * i) 8 = ((c.ring j).word i).toNat) ∧
        (c.blk = true → ∀ i : Fin 32,
          littleEndian (t.cByte key) (base + 0x21800 + 8 * i.val) 8 = c.sregs[i].toNat) ∧
        Store.find (o * 2 ^ 16 + n) t.saved = some c.engineState ∧ (t.core n).lanes = 0 ∧ (t.core n).pend = []) ∧
    (x.slice = .ending 3 →
      ∃ t, exec (.sliceSwitch f) s = .next t ∧ (t.func f.toNat).slice = .off ∧
        (∀ n, mine n → (t.core n).ctx = none ∧ (t.core n).handler = none ∧ (t.core n).lanes = 0 ∧
          (∀ j, (t.core n).ring j = Ring.free)) ∧
        (∀ g, g < 256 → Vd.part x.entry g = true → Store.get 0 g t.rounds = s.roundOf x.entry + 1) ∧ t.memB = s.memB) ∧
    (∀ k n o, s.mayRestore f.toNat = true → s.turn f.toNat = some k → s.restorable f.toNat = [o] →
      Own.cores (s.owner o).entryNext = [n] → Store.find (o * 2 ^ 16 + n) s.saved = none →
      let base := Own.csBase (s.owner o).entryNext + n * 0x40000
      let key := s.keyFor o false
      ∃ t, exec (.restore f) s = .next t ∧ (t.func f.toNat).slice = .running ∧
        (t.func f.toNat).entry = x.entryNext ∧ (t.owner o).entry = (s.owner o).entryNext ∧
        (t.core n).ctx = some o ∧ (t.core n).handler = none ∧
        (∀ y, y < 0x20000 → (t.core n).plateByte y = s.cByte key (base + y)) ∧
        (∀ y, y < 0x20000 →
          (t.core n).fe y = (s.cByte key (base + 0x20000 + y / 32)).getLsbD (y / 4 % 8)) ∧
        (∀ j, j < 16 → (t.core n).ring j = s.blockRing o base j)) ∧
    (∀ m, s.devMsgs = [m] →
      (Own.valid (s.owner m.owner).entry = false ∨ Own.hasCore (s.owner m.owner).entry m.target = false →
        exec (.savedInboxEntry 0) s = .next { s with devMsgs := [] }) ∧
      (Own.valid (s.owner m.owner).entry = true → Own.hasCore (s.owner m.owner).entry m.target = true →
        s.liveFor m.owner m.target = true → m.fault = true →
        (s.core m.target).faultBox = [] → (s.core m.target).handler = none →
        let a := ((s.core m.target).ring 0).base.toNat * 64 - 4096
        ∃ t, exec (.savedInboxEntry 0) s = .next t ∧ t.devMsgs = [] ∧
          (t.core m.target).faultBox = [(((s.core m.target).ring 0).tail, 0)] ∧
          (t.core m.target).plateWords a 8 = (List.range 8).map (wordAt m.r)) ∧
      (Own.valid (s.owner m.owner).entry = true → Own.hasCore (s.owner m.owner).entry m.target = true →
        s.liveFor m.owner m.target = false → m.fault = false → s.devReady m = true →
        (∀ h i, i < 4 → (Vd.ds (s.func h).entry i).1 % 2 = 0) → (∃ y, Store.find (m.owner * 2 ^ 16 + m.target) s.saved = some y) →
        s.savedRoom m.owner m.target = true →
        let base := Own.csBase (s.owner m.owner).entry + m.target * 0x40000
        let key := s.keyFor m.owner false
        let g := s.blockRing m.owner base 0
        base % 128 = 0 → g.slotAt g.tail + 64 ≤ 0x20000 →
        ∃ t, exec (.savedInboxEntry 0) s = .next t ∧ t.devMsgs = [] ∧
          (∀ i, i < 8 → littleEndian (t.cByte key) (base + g.slotAt g.tail + 8 * i) 8 = (wordAt m.r i).toNat) ∧
          littleEndian (t.cByte key) (base + 0x2100C) 4 = (g.tail + 1).toNat) ∧
      (Own.valid (s.owner m.owner).entry = true → Own.hasCore (s.owner m.owner).entry m.target = true →
        s.liveFor m.owner m.target = true → m.fault = false → s.devReady m = true → (s.core m.target).hasRoom 0 = true → portIdle s m.owner m.target →
        let g := (s.core m.target).ring 0
        ∃ t, exec (.savedInboxEntry 0) s = .next t ∧ t.devMsgs = [] ∧
          (t.core m.target).ring 0 = { g with tail := g.tail + 1 } ∧
          (t.core m.target).plateWords (g.slotAt g.tail) 8 = (List.range 8).map (wordAt m.r)))

/-! ### Logs and the host -/

namespace Sys2Proof.Claims

/-- A vector has been sent, or its pending bit set while it is masked (R328). -/
def vectorSent (x y : Func) (v : Nat) : Prop :=
  Store.get 0 v y.events = 0 ∧
    (if x.isMasked v then Store.get false v y.pba = true ∧ y.sent = x.sent
     else Store.get 0 v y.sent = Store.get 0 v x.sent + 1 ∧ y.pba = x.pba)

/-- The record `r` stands in the log of a function, or was dropped because the log was full (R336). -/
def logged (x y : Func) (r : Bool → LogRec) : Prop :=
  if (x.eltail - x.elhead).toNat = 64 then
    y.log = x.log ∧ y.eltail = x.eltail ∧ y.lostMark = true ∧
      y.ellost = if x.ellost = 0xFFFFFFFF then x.ellost else x.ellost + 1
  else
    Store.find (x.eltail.toNat % 64) y.log = some (r x.lostMark) ∧ y.eltail = x.eltail + 1 ∧ y.lostMark = false

end Sys2Proof.Claims

/-- R328: a vector whose events reach COALN, or whose timer runs out, is sent or left pending; unmasking sends it. R336,
R337: an error enters function 0's log first and then its owners', one record a move. R340 to R342, R348: a corrupted payload kills the
owner, a corrupted header stops the partitions it may concern, and a fatal error stops them all. R320, R345, R353: the host's
memory accesses and register writes. What the records of flits and fatal errors hold beside the class is the model's choice
(logs 38, 44), as are the form of an access of the host (log 39), what a virtual function finds at the physical function's
offsets and the words kept of a vector's entry (log 40), and which registers the host has in each STATE (log 41). -/
def Obligations.LogsAndHostPorts : Prop :=
  (∀ (f : BitVec 6) (v : BitVec 11) (s : State),
    let x := s.func f.toNat
    let n := Store.get 0 v.toNat x.events
    (max 1 (Vd.coalN x.entryPts) ≤ n →
      ∃ t, exec (.interruptSend f v) s = .next t ∧ vectorSent x (t.func f.toNat) v.toNat ∧ t.cores = s.cores) ∧
    (Vd.coalT x.entryPts ≠ 0 → n ≠ 0 → Store.get 0 v.toNat x.timer + Vd.coalT x.entryPts ≤ (s.island 44).cycles.toNat →
      ∃ t, exec (.coalesceTimeout f v) s = .next t ∧ vectorSent x (t.func f.toNat) v.toNat ∧ t.cores = s.cores) ∧
    (s.boot.state ≠ 4 → f ≠ 0 → exec (.vectorUnmask f v) s = .next s) ∧
    (s.boot.state = 4 ∨ f = 0 → ∃ t, exec (.vectorUnmask f v) s = .next t ∧ Store.find v.toNat (t.func f.toNat).masked = some false ∧
      Store.get false v.toNat (t.func f.toNat).pba = false ∧
      Store.get 0 v.toNat (t.func f.toNat).sent =
        Store.get 0 v.toNat x.sent + (if Store.get false v.toNat x.pba then 1 else 0))) ∧
  (∀ (e : ErrRec) (rest : List ErrRec) (s : State), s.errs = e :: rest →
    (e.first = false →
      ∃ t, exec .errorLogRecord s = .next t ∧
        t.errs = (if e.owners = [] ∧ (e.func = none ∨ e.func = some 0) then rest else { e with first := true } :: rest) ∧
        logged (s.func 0) (t.func 0) (fun lost => e.record e.owner e.pa e.core lost) ∧
        ∀ f, f ≠ 0 → t.func f = s.func f) ∧
    (∀ f, e.first = true → e.owners = [] → e.func = some f →
      ∃ t, exec .errorLogRecord s = .next t ∧ t.errs = rest ∧
        logged (s.func f) (t.func f) (fun lost => e.record none e.va e.core lost) ∧ ∀ g, g ≠ f → t.func g = s.func g) ∧
    (∀ o va n l, e.first = true → e.owners = (o, va, n) :: l →
      ∃ t, exec .errorLogRecord s = .next t ∧ t.errs = (if l = [] then rest else { e with owners := l } :: rest) ∧
        logged (s.func (s.funcOf o)) (t.func (s.funcOf o)) (fun lost => e.record (some o) va n lost) ∧
        ∀ g, g ≠ s.funcOf o → t.func g = s.func g)) ∧
  (∀ (k : BitVec 4) (i : Nat) (o : BitVec 8) (n : BitVec 11) (s : State), pointExists k.toNat i = true →
    (∃ t l e, exec (.flitCheckFail k i false o n) s = .next t ∧ (t.owner o.toNat).killed = true ∧
      (∀ m, (t.core m).ctx ≠ some o.toNat) ∧ t.errs = l ++ [e] ∧ e.cls = 0x04 ∧ e.kill = true ∧ e.core = n.toNat ∧
      ∀ q, q = o.toNat ∨ q ∈ s.pointBitmap k.toNat i → q ∈ e.owners.map Prod.fst) ∧
    (∃ t l e, exec (.flitCheckFail k i true o n) s = .next t ∧
      (∀ f ∈ s.struck k.toNat i, (t.func f).disabled = true ∧ (t.func f).slice = .off) ∧ t.errs = l ++ [e] ∧
      e.cls = 0x05 ∧ e.stop = true ∧ e.kill = true)) ∧
  (∀ (code : BitVec 8) (s : State),
    ∃ t l e, exec (.moduleFatal code) s = .next t ∧ t.fatal = true ∧
      (∀ f, (t.func f).slice = .off) ∧ t.errs = l ++ [e] ∧ e.cls = 0x0E) ∧
  (∀ (f : BitVec 6) (addr : Nat) (v : BitVec 64) (s : State),
    let o := Vd.own (s.func f.toNat).entry 0
    let key := if f = 0 then s.moduleKey else (s.owner o).key
    let there : Prop := s.populated addr = true ∧ s.populated (addr + 7) = true
    (s.boot.state = 4 → there →
      (∃ t, exec (.hostPortAccess f false addr v) s = .next t ∧
        t.hostData = BitVec.ofNat 64 (littleEndian (s.cByte key) addr 8) ∧
        (s.latent = [] → t.cores = s.cores ∧ t.memB = s.memB ∧ t.memC = s.memC)) ∧
      (s.latent = [] → ∃ t, exec (.hostPortAccess f true addr v) s = .next t ∧
        (∀ y, t.cByte key y = if addr ≤ y ∧ y < addr + 8 then byteAt v (y - addr) else s.cByte key y) ∧
        t.cores = s.cores ∧ t.memB = s.memB)) ∧
    (∀ write, s.boot.state = 4 → ¬there → exec (.hostPortAccess f write addr v) s = .fault .hostAddressHole) ∧
    (s.boot.state = 3 → s.switched = false → addr + 8 ≤ 2 ^ 26 → ∀ write,
      exec (.hostPortAccess 0 write addr v) s = .next { s with hostHeld := s.hostHeld ++ [(0, write, addr, v)] }) ∧
    (s.boot.state = 2 ∨ s.boot.state = 14 ∨ s.boot.state = 15 ∨ (s.boot.state = 3 ∧ s.switched = true) → addr + 8 ≤ 2 ^ 26 →
      exec (.hostPortAccess 0 false addr v) s =
        .next { s with hostData := BitVec.ofNat 64 (littleEndian (s.bByte s.moduleKey) addr 8) } ∧
      ∃ t, exec (.hostPortAccess 0 true addr v) s = .next t ∧
        (∀ y, t.bByte s.moduleKey y =
          if addr ≤ y ∧ y < addr + 8 then byteAt v (y - addr) else s.bByte s.moduleKey y) ∧
        t.cores = s.cores ∧ t.memC = s.memC)) ∧
  (∀ (f : BitVec 6) (off : BitVec 20) (v : BitVec 64) (k : BitVec 11) (s : State),
    (s.boot.state = 4 →
      (off = 0x100 → exec (.registerWrite 0 off v) s = .next { s with vdtBase := v.extractLsb' 12 40 }) ∧
      (off = 0x108 → exec (.registerWrite 0 off v) s = .next { s with owtBase := v.extractLsb' 12 40 }) ∧
      (off = 0x110 → exec (.registerWrite 0 off v) s = .next { s with schBase := v.extractLsb' 12 40 }) ∧
      (off = 0x120 → v.getLsbD 63 = false → exec (.registerWrite 0 off v) s =
        .next { s with
          nrm1 := v.extractLsb' 0 6, stopPending := s.schedEn || s.stopPending
          stopRound := if s.schedEn then s.roundNext else s.stopRound }) ∧
      (off = 0x470 → exec (.registerWrite 0 off v) s =
        .next { s with boot := if s.boot.attCmd = 1 ∨ (v.toNat % 8 ≠ 1 ∧ v.toNat % 8 ≠ 4) then s.boot
          else { s.boot with attCmd := 1, attReq := v.toNat % 8 } }) ∧
      (off = 0x478 → exec (.registerWrite 0 off v) s =
        .next { s with boot := { s.boot with attAddr := v.extractLsb' 12 40 } }) ∧
      (off = 0x3000 → exec (.registerWrite f off v) s =
        .next (s.updFunc f.toNat fun x => { x with elhead := v.extractLsb' 0 32 })) ∧
      (off.toNat = 0x10008 + 16 * k.toNat → ∃ t, exec (.registerWrite f off v) s = .next t ∧
        Store.find k.toNat (t.func f.toNat).masked = some (v.getLsbD 32) ∧ t.barRead f.toNat off.toNat = v)) ∧
    ((off = 8 ∨ off = 0x3008 ∨ off = 0x3010 ∨ (0x2000 ≤ off.toNat ∧ off.toNat < 0x3000)
        ∨ (0x18000 ≤ off.toNat ∧ off.toNat < 0x18100)) → off.toNat % 8 = 0 →
      exec (.registerWrite f off v) s = .next s) ∧
    (off.toNat % 8 = 0 → (s.hasReg f.toNat off.toNat = false ∨ (f ≠ 0 ∧ (physicalReg off.toNat).isSome = true)) →
      barReg f.toNat off.toNat ≠ .ownRow → exec (.registerWrite f off v) s = .next s) ∧
    (f ≠ 0 → (physicalReg off.toNat).isSome = true → s.barRead f.toNat off.toNat = 0) ∧
    s.barRead 0 0x100 = BitVec.ofNat 64 (s.vdtBase.toNat * 2 ^ 12) ∧
    s.barRead 0 0x4800 = BitVec.ofNat 64 s.pwrLim.toNat ∧ s.barRead 0 0x4808 = BitVec.ofNat 64 s.pwrNow.toNat ∧
    s.barRead f.toNat 8 = BitVec.ofNat 64 (s.func f.toNat).head.toNat ∧
    s.barRead f.toNat 0x3008 = BitVec.ofNat 64 (s.func f.toNat).eltail.toNat)

/-! ### Boot, power and telemetry -/

/-- R348, R349, R351, R353 to R355: a reset begins at STATE 0 with what it keeps; the ROM runs the preferred image that
verifies, or stops at STATE 14; training ends the bring-up service or fails a stack after three attempts; the switch-over
discards its contexts, and STATE 4 starts, once its records are written and its vectors sent, with nothing of the service left;
reports and staged images answer a command of ATTCMD. R359 to R361, R363: power, counters and throttling ask for clocks, which FREQUENCY_CHANGE gives. What the
flash and the cryptography give are constants (log 9); the service in each STATE and the switch-over in one move are the model's
choice (log 41), as are the steps of power and heat (log 42). -/
def Obligations.BootAndPower : Prop :=
  (∀ s : State, ∃ t, exec .coldReset s = .next t ∧ exec (.warmReset 0x0A5A) s = .next t ∧
    (∀ v, v ≠ 0x0A5A → exec (.warmReset v) s = .next s) ∧ t.boot.state = 0 ∧ t.boot.bootCount = s.boot.bootCount ∧
    t.boot.resets = s.boot.resets + 1 ∧ t.memB = [] ∧ t.memC = [] ∧ t.cores = [] ∧ t.boot.flash = s.boot.flash ∧
    t.boot.prefB = s.boot.prefB ∧ t.boot.fuseSvn = s.boot.fuseSvn ∧ t.boot.nonce = 0 ∧ t.fatal = false) ∧
  (∀ s : State, s.fatal = false →
    (s.boot.state = 0 → s.romMove = some { s with boot := { s.boot with state := 1 } }) ∧
    (s.boot.state = 1 →
      let pref := imageOk (flashAt s.boot.flash s.boot.prefB) s.boot.fuseSvn
      let other := imageOk (flashAt s.boot.flash !s.boot.prefB) s.boot.fuseSvn
      ∃ t, s.romMove = some t ∧
        (pref = true ∨ other = true →
          t.boot.state = 2 ∧ t.boot.slotB = (if pref then s.boot.prefB else !s.boot.prefB) ∧
          t.boot.bootCount = s.boot.bootCount + 1 ∧ (∀ n, (t.core n).ctx = if n < 16 then some 0 else none) ∧
          (t.island 0).mhz = 1000) ∧
        (pref = false → other = false → t.boot.state = 14 ∧ t.boot.bootCount = s.boot.bootCount ∧ t.cores = s.cores))) ∧
  (∀ (k : BitVec 3) (s : State), s.boot.state = 2 ∨ s.boot.state = 15 → s.boot.trained.getLsbD k.toNat = false →
    s.boot.hbmFail.getLsbD k.toNat = false → s.fatal = false →
    let bit := BitVec.ofNat 8 (2 ^ k.toNat)
    let tries := Store.get 0 k.toNat s.boot.attempts
    (∃ t, exec (.hbmTrainingDone k) s = .next t ∧ t.boot.trained = s.boot.trained ||| bit ∧
      (if s.boot.trained ||| bit = 0xFF then
        t.boot.state = 3 ∧ (t.func 0).slice = .ending 0 ∧ ∀ n, n < 16 → (t.core n).stopped = true
      else t.boot.state = s.boot.state ∧ t.cores = s.cores)) ∧
    (∃ t, exec (.hbmTrainingFail k) s = .next t ∧ Store.get 0 k.toNat t.boot.attempts = tries + 1 ∧
      (if tries = 2 then t.boot.state = 15 ∧ t.boot.hbmFail = s.boot.hbmFail ||| bit
       else t.boot.state = s.boot.state ∧ t.boot.hbmFail = s.boot.hbmFail))) ∧
  (∀ s : State, s.boot.state = 3 → s.fatal = false →
    (s.switched = false → s.serviceQuiet = true →
      ∃ t, s.switchOver = some t ∧ t.switched = true ∧ t.cores = [] ∧ t.hostHeld = [] ∧ (t.island 0).mhz = 3000 ∧
        (t.func 0).head = (s.func 0).tail ∧ t.boot.state = 3) ∧
    (s.switched = true → s.errs = [] → (s.func 0).events = [] →
      ∃ t, exec .linkBringupDone s = .next t ∧ t.boot.state = 4 ∧ t.boot.rcBase = 0x7FE0000 ∧
        (∀ n, t.core n = Core.reset) ∧ (t.func 0).head = 0 ∧ (t.func 0).tail = 0 ∧ t.vdtBase = 0 ∧ t.owtBase = 0 ∧
        t.schedEn = false ∧ t.eseq = 0 ∧ t.memB = s.memB ∧
        t.boot.fuseSvn = (if s.boot.raise then s.boot.svn else s.boot.fuseSvn))) ∧
  (∀ s : State, s.boot.attCmd = 1 →
    (s.boot.attReq = 1 →
      (s.boot.reports < 1024 → s.boot.state ≠ 14 → ∃ t, exec .attestReport s = .next t ∧ t.boot.attCmd = 2 ∧
        t.boot.reports = s.boot.reports + 1 ∧ t.boot.report.length = 4096 ∧
        bytesNum (t.boot.report.take 4) = 0x54525054 ∧
        bytesNum ((t.boot.report.drop 8).take 48) = s.boot.nonce.toNat) ∧
      (1024 ≤ s.boot.reports ∨ s.boot.state = 14 →
        exec .attestReport s = .next { s with boot := { s.boot with attCmd := 3 } })) ∧
    (s.boot.attReq = 4 → ∃ t, exec .stageImage s = .next t ∧
      (if (s.boot.state = 2 ∨ s.boot.state = 14 ∨ s.boot.state = 15) ∧
          imageOk (s.bByte s.moduleKey) s.boot.fuseSvn = true then
        t.boot.attCmd = 2 ∧ t.boot.prefB = !s.boot.prefB ∧ t.memB = s.memB
      else t = { s with boot := { s.boot with attCmd := 3 } }))) ∧
  (∀ s : State, s.boot.state = 4 → ∃ t, exec .powerCheck s = .next t ∧ t.pwrLim = s.pwrLim ∧
    (∀ i, (t.island i).mhz = (s.island i).mhz) ∧
    (s.pwrLim.toNat * 1000 < s.pwrNow.toNat → 1000 < s.mhz s.fastest →
      t.mhz s.fastest = s.mhz s.fastest - 100 ∧ ∀ i, i ≠ s.fastest → t.mhz i = s.mhz i) ∧
    (s.pwrNow.toNat * 100 < s.pwrLim.toNat * 1000 * 95 → s.mhz s.slowest < 3000 →
      (∀ i, i < 48 → (s.island i).hotMs < 1000) →
      t.mhz s.slowest = s.mhz s.slowest + 100 ∧ ∀ i, i ≠ s.slowest → t.mhz i = s.mhz i) ∧
    ((∀ i, i < 32 → (s.island i).mhz.toNat ≤ 1000) → s.pwrLim.toNat * 1000 < s.pwrNow.toNat → 9 ≤ s.floorMs →
      s.floorTold = false → ∃ e, t.errs = s.errs ++ [e] ∧ e.cls = 0x0C)) ∧
  (∀ (v : BitVec 64) (code : BitVec 8) (i : BitVec 6) (s : State),
    (s.boot.state = 4 →
      exec (.pwrlimWrite v) s =
        .next { s with pwrLim := BitVec.ofNat 16 (max 600 (min 2000 (v.toNat % 2 ^ 16))) } ∧
      exec .capcntClear s = .next { s with capCnt := 0 } ∧
      (code.toNat ≤ 0x14 → ∃ t, exec (.correctedCounterClear code) s = .next t ∧
        ∀ c, Store.get 0 c t.corrected = if c = code.toNat then 0 else Store.get 0 c s.corrected)) ∧
    (s.boot.state ≠ 4 → exec (.pwrlimWrite v) s = .next s ∧ exec .capcntClear s = .next s ∧
      (code.toNat ≤ 0x14 → exec (.correctedCounterClear code) s = .next s)) ∧
    (∃ t, exec .telemetryRefresh s = .next t ∧
      (∀ j, (t.island j).mhz = (s.island j).mhz ∧ (t.island j).cycles = (s.island j).cycles) ∧
      (∀ j, j < 48 → (t.island j).hotMs = if 840 < (t.island j).temp.toInt then (s.island j).hotMs + 1 else 0) ∧
      t.corrected = s.corrected ∧ t.cores = s.cores) ∧
    (1000 ≤ (s.island i.toNat).hotMs → ∃ t, exec (.thermalThrottle i) s = .next t ∧
      ∀ j, t.mhz j = if (if i.toNat < 32 then j = i.toNat
          else if i.toNat < 36 then 8 * (i.toNat - 32) ≤ j ∧ j < 8 * (i.toNat - 32) + 8 else j < 32) ∧ 1000 < s.mhz j
        then s.mhz j - 100 else s.mhz j))

/-! ### Steps -/

namespace Sys2Proof.Claims

/-- The word that core `n` has at hand for its pc: fetched ahead, or of its instruction cache (R94, R296). -/
def atHand (c : Core) (w : Code) : Prop :=
  match c.ahead.find? (fun x => x.1 == c.pc), c.icache.find? (fun x => x.owner == c.fetchTag && x.line == c.pc.toNat / 64) with
  | some x, _ => w = x.2
  | none, some x => w = x.word c.pc.toNat
  | none, none => False

/-- Core `n` has no word at hand for its pc, which a translation it holds puts on a page that it may execute, at a line with
no error and no poison; no read-merge window is open, and no cache holds a line (R309, R185, R69, R72, R338). -/
def fetchesFrom (s : State) (n : Nat) (pa : Nat) : Prop :=
  let c := s.core n
  c.ahead.find? (fun x => x.1 == c.pc) = none ∧
    c.icache.find? (fun x => x.owner == c.fetchTag && x.line == c.pc.toNat / 64) = none ∧
    s.latent = [] ∧ s.merges = [] ∧ s.copies = [] ∧ c.pc.toNat % 4 = 0 ∧ s.poisonOf .c (pa / 128) = none ∧
    ∃ t, s.cached (.core n) c.own c.sup c.pc.toNat = some t ∧ leafAllows t.leaf false false true = true ∧ 6 ≤ t.shift ∧
      s.paOk t.leaf t.shift c.pc.toNat = true ∧ pa = physical t c.pc

/-- No trap is due at core `n` before its next word (R42, R188, R278). -/
def undisturbed (s : State) (n : Nat) : Prop :=
  (s.core n).pending = none ∧ ((s.core n).sup = true → (s.core n).supCount < 2 ^ 20) ∧
    ∀ h, (s.core n).handler = some h → (s.core n).sup = false → h.count < h.limit

/-- Cycles have passed: the registers, memories and queues stand as they did (R7). -/
def onlyTime (t u : State) : Prop :=
  u.moves = t.moves + 1 ∧ u.memB = t.memB ∧ u.memC = t.memC ∧ u.clusters = t.clusters ∧ u.owners = t.owners ∧
    u.agenda = t.agenda ∧ u.cur = t.cur ∧
    (∀ n, (u.core n).sregs = (t.core n).sregs ∧ (u.core n).pregs = (t.core n).pregs ∧ (u.core n).vregs = (t.core n).vregs ∧
      (u.core n).pc = (t.core n).pc ∧ (u.core n).hints = (t.core n).hints ∧ (u.core n).plate = (t.core n).plate ∧
      (u.core n).pend = (t.core n).pend ∧ (u.core n).sup = (t.core n).sup) ∧
    (∀ i, i < 48 → (u.island i).cycles = (t.island i).cycles + BitVec.ofNat 64 (1 + Config.elapsed t.moves i) ∧
      (u.island i).mhz = (t.island i).mhz) ∧ u.corrected = t.corrected

/-- The core holds the word it runs, and goes on with it if the instruction stalls once it has begun. -/
def latched (u : State) (n : Nat) (w : Code) : State := u.updCore n fun c => { c with ir := w }

end Sys2Proof.Claims

/-- R94, R296: the word at the pc is one the core has at hand, or that of image C where the pc is mapped, whose line then
enters the instruction cache; that fetch may run ahead is a choice (log 62). R80, R171, R290, R291: with nothing asked for, a
step at a core that may issue runs the instruction that this word decodes to in its chain, on the state after the fetch, unless a
register it uses is still to be written; a word that joins the chain is a hint, and an illegal one traps. An instruction that
has begun and stalls goes on with its word (R156). ISSUE does the same for the core it names, and completes wherever that core may
issue. A move that is asked for is made. Around each only time passes, and corrected errors are counted (R7, R361; log 3 and 4
name what the model adds). -/
def Obligations.StepRunsTheDecodedInstruction : Prop :=
  (∀ (s : State) (n : Nat), (s.core n).pc.toNat < 0x000E000000000000 →
    (∀ w, atHand (s.core n) w → (∃ u, s.fetch n = .word u w) ∧
      (s.choices.headD 0 = 0 → ∃ q, s.fetch n = .word { s with choices := q } w ∨
        ∃ l, s.fetch n = .word { s.setCore n { s.core n with icache := l } with choices := q } w)) ∧
    (∀ pa, fetchesFrom s n pa → s.choices.headD 0 = 0 →
      ∃ u l, s.fetch n =
          .word u (BitVec.ofNat 32 (littleEndian (s.cByte (s.keyFor (s.core n).own (s.core n).sup)) pa 4)) ∧
        u.core n = { s.core n with icache := l } ∧ (∀ m, m ≠ n → u.core m = s.core m) ∧ u.cur = s.cur ∧
        u.memB = s.memB ∧ u.memC = s.memC)) ∧
  (∀ (s u : State) (w : Code), s.agenda = [] → s.waited = false → s.canIssue s.cur = true → undisturbed s s.cur →
    s.hasBegun s.cur = false → s.correct.fetch s.cur = .word u w →
      let v := latched u s.cur w
      let c := v.core s.cur
      (∀ i, decodeFetched c.hints w = .instr i → c.interlocked w i = false →
        step s = ticked (markIssued s (exec i v))) ∧
      (∀ i, decodeFetched c.hints w = .instr i → c.interlocked w i = true →
        step s = ticked (markIssued s (.next v))) ∧
      (∀ h, decodeFetched c.hints w = .hint h →
        step s = ticked (markIssued s (.next (v.updCore s.cur fun c => c.pushHint h)))) ∧
      (∀ x, decodeFetched c.hints w = .illegal x → c.pending = none → c.begun = false →
        step s = ticked (markIssued s (.next (v.takeTrap s.cur 0x01 x c.chainStart))))) ∧
  (∀ (s : State) (i : Instr), s.agenda = [] → s.waited = false → s.canIssue s.cur = true → undisturbed s s.cur →
    s.hasBegun s.cur = true → decodeFetched s.me.hints s.me.ir = .instr i → s.me.interlocked s.me.ir i = false →
      step s = ticked (markIssued s (exec i s.correct))) ∧
  (∀ (n : BitVec 11) (s u : State) (w : Code), s.canIssue n.toNat = true → undisturbed s n.toNat →
    s.hasBegun n.toNat = false → { s with cur := n.toNat }.fetch n.toNat = .word u w →
      let v := latched u n.toNat w
      let c := v.core n.toNat
      (∀ i, decodeFetched c.hints w = .instr i → c.interlocked w i = false → exec (.issue n) s = exec i v) ∧
      (∀ i, decodeFetched c.hints w = .instr i → c.interlocked w i = true → exec (.issue n) s = .next v) ∧
      (∀ h, decodeFetched c.hints w = .hint h →
        exec (.issue n) s = .next (v.updCore n.toNat fun c => c.pushHint h))) ∧
  (∀ (n : BitVec 11) (s : State), s.canIssue n.toNat = true → ∃ t, exec (.issue n) s = .next t) ∧
  (∀ (s : State) (i : Instr) (rest : List Instr), s.agenda = i :: rest → i.hasWord = false →
    step s = ticked (exec i { s.correct with agenda := rest })) ∧
  (∀ s : State, ∃ l, s.correct = { s with corrected := l } ∧
    ∀ c, (Store.get 0 c s.corrected).toNat ≤ (Store.get 0 c l).toNat) ∧
  (∀ (w : Code) (i : Instr), decode w = .ok i → isHint w = false → cvtFieldOk [] i = true →
    decodeFetched [] w = .instr i) ∧
  (∀ t u : State, ticked (.next t) = .next u → onlyTime t u) ∧
  (∀ s t u : State, markIssued s (.next t) = .next u → ∃ b, u = { t with waited := b })

/-- The words of examples of R150, R152 and R165 to R170, decoded. -/
def Obligations.WordsDecode : Prop :=
  decode 0x001394C0 = .ok (.add64 .none 7 5 6 0) ∧
  decode 0x8C539C01 = .ok (.addImm (.pos 3) 7 7 1) ∧
  decode 0x00B08860 = .ok (.pand .none 1 2 3) ∧
  decode 0x01820D02 = .ok (.ldW .none 4 3 2) ∧
  decode 0x01B3D202 = .ok (.stef .none 7 20 0 2) ∧
  decode 0x01C30C82 = .ok (.aadd64 .none 6 3 4) ∧
  decode 0x01E02120 = .ok (.send .none 8 9) ∧
  decode 0x02118428 = .ok (.vaddFp .none 3 1 1 1) ∧
  decode 0x03030C00 = .ok (.mjob .none 6 3) ∧
  decode 0x034114C4 = .ok (.wadd .none 2 5 6) ∧
  decode 0x03628000 = .ok (.rnd .none 5) ∧
  decode 0x03900000 = .ok (.rft .none) ∧
  decode 0x85300001 = .ok (.yieldH (.pos 1))

/-! ### Reset and what every step keeps -/

/-- R356, R355: the state after reset is sound, and holds the values the rules give. -/
def Obligations.ResetState : Prop :=
  State.reset.memoryWf = true ∧ State.reset.registersLegal = true ∧ State.reset.boot.state = 4 ∧
  State.reset.boot.rcBase = 0x7FE0000 ∧ State.reset.schedEn = false ∧
  (∀ n, (State.reset.core n).ctx = none ∧ (State.reset.core n).lanes = 0 ∧ (State.reset.core n).pend = [] ∧
    (State.reset.core n).watchdog = 0x400000 ∧ (State.reset.core n).hangExp = 30 ∧
    (State.reset.core n).depthLimit = 4 ∧ ∀ j, (State.reset.core n).ring j = Ring.free) ∧
  (∀ o, (State.reset.owner o).epoch = 0 ∧ (State.reset.owner o).seedPlace = 0 ∧ Own.valid (State.reset.owner o).entry = false) ∧
  (∀ a, 0x7FE0000000 ≤ a → a < 0x8000000000 → State.reset.bByte State.reset.moduleKey a = 0)

/-- R78, R353, R355, R359: every step keeps image B in its canonical form, BOOT.STATE among the values R355 lists and PWRLIM
within its limits. -/
def Obligations.StepKeepsSoundness : Prop :=
  ∀ s t : State, s.memoryWf = true → s.registersLegal = true → step s = .next t →
    t.memoryWf = true ∧ t.registersLegal = true
end

