-- ==== Sys2Proof/Laws/Store.lean ====
section
/-!
SUPPORT. Laws of sparse tables and byte memories: reading after writing, and the canonical form.
-/
namespace Sys2Proof.Machine

/-! ### Tables -/

@[simp] theorem Store.find_nil {α : Type} (k : Nat) : Store.find k ([] : Store α) = none := rfl

theorem Store.find_cons {α : Type} (k j : Nat) (x : α) (l : Store α) :
    Store.find k ((j, x) :: l) = if j = k then some x else Store.find k l := rfl

/-- What was put is found. -/
@[simp] theorem Store.find_put_same {α : Type} (k : Nat) (x : α) (l : Store α) :
    Store.find k (Store.put k x l) = some x := by
  induction l with
  | nil => simp [Store.put, Store.find]
  | cons c l ih =>
    obtain ⟨j, y⟩ := c
    by_cases h1 : k < j
    · simp [Store.put, Store.find, h1]
    · by_cases h2 : j = k
      · subst h2; simp [Store.put, Store.find]
      · simp [Store.put, Store.find, h1, h2, ih]

/-- Other keys are found as before. -/
theorem Store.find_put_ne {α : Type} {k j : Nat} (h : j ≠ k) (x : α) (l : Store α) :
    Store.find j (Store.put k x l) = Store.find j l := by
  induction l with
  | nil => simp [Store.put, Store.find, h.symm]
  | cons c l ih =>
    obtain ⟨i, y⟩ := c
    by_cases h1 : k < i
    · simp [Store.put, Store.find, h1, h.symm]
    · by_cases h2 : i = k
      · subst h2; simp [Store.put, Store.find, h.symm]
      · simp [Store.put, Store.find, h1, h2, ih]

/-- Both at once. -/
theorem Store.find_put {α : Type} (k j : Nat) (x : α) (l : Store α) :
    Store.find j (Store.put k x l) = if j = k then some x else Store.find j l := by
  by_cases h : j = k
  · subst h; simp
  · simp [h, Store.find_put_ne h]

/-- A removed key is not found. -/
@[simp] theorem Store.find_del_same {α : Type} (k : Nat) (l : Store α) : Store.find k (Store.del k l) = none := by
  induction l with
  | nil => rfl
  | cons c l ih =>
    obtain ⟨j, y⟩ := c
    by_cases h : j = k <;> simp [Store.del, Store.find, h, ih]

/-- Other keys are found as before. -/
theorem Store.find_del_ne {α : Type} {k j : Nat} (h : j ≠ k) (l : Store α) :
    Store.find j (Store.del k l) = Store.find j l := by
  induction l with
  | nil => rfl
  | cons c l ih =>
    obtain ⟨i, y⟩ := c
    by_cases h2 : i = k
    · subst h2; simp [Store.del, Store.find, h.symm, ih]
    · simp [Store.del, Store.find, h2, ih]

/-- Both at once. -/
theorem Store.find_del {α : Type} (k j : Nat) (l : Store α) :
    Store.find j (Store.del k l) = if j = k then none else Store.find j l := by
  by_cases h : j = k
  · subst h; simp
  · simp [h, Store.find_del_ne h]

@[simp] theorem Store.get_put_same {α : Type} (d : α) (k : Nat) (x : α) (l : Store α) :
    Store.get d k (Store.put k x l) = x := by simp [Store.get]

theorem Store.get_put_ne {α : Type} (d : α) {k j : Nat} (h : j ≠ k) (x : α) (l : Store α) :
    Store.get d j (Store.put k x l) = Store.get d j l := by simp [Store.get, Store.find_put_ne h]

theorem Store.get_put {α : Type} (d : α) (k j : Nat) (x : α) (l : Store α) :
    Store.get d j (Store.put k x l) = if j = k then x else Store.get d j l := by
  by_cases h : j = k
  · subst h; simp
  · simp [h, Store.get_put_ne d h]

@[simp] theorem Store.get_del_same {α : Type} (d : α) (k : Nat) (l : Store α) :
    Store.get d k (Store.del k l) = d := by simp [Store.get]

theorem Store.get_del_ne {α : Type} (d : α) {k j : Nat} (h : j ≠ k) (l : Store α) :
    Store.get d j (Store.del k l) = Store.get d j l := by simp [Store.get, Store.find_del_ne h]

/-! ### Rising keys -/

/-- Every key is at least `n`. -/
def Store.above {α : Type} (n : Nat) (l : Store α) : Prop := ∀ c ∈ l, n ≤ c.1

theorem Store.rising_cons {α : Type} {j : Nat} {x : α} {l : Store α} :
    Store.rising ((j, x) :: l) = true ↔ Store.rising l = true ∧ Store.above (j + 1) l := by
  induction l generalizing j x with
  | nil => simp [Store.rising, Store.above]
  | cons c l ih =>
    obtain ⟨k, y⟩ := c
    have h := @ih k y
    constructor
    · intro hr
      simp only [Store.rising, Bool.and_eq_true, decide_eq_true_eq] at hr
      obtain ⟨hjk, hrest⟩ := hr
      have hk : Store.rising ((k, y) :: l) = true := by
        simp only [Store.rising, Bool.and_eq_true]; exact hrest
      refine ⟨hk, ?_⟩
      intro c hc
      rcases List.mem_cons.mp hc with rfl | hc
      · exact hjk
      · have := (h.mp hk).2 c hc
        omega
    · rintro ⟨hk, ha⟩
      have hjk : j < k := ha (k, y) (by simp)
      rw [Store.rising]
      simp [hjk, hk]

theorem Store.above_put {α : Type} {n k : Nat} (h : n ≤ k) (x : α) {l : Store α} (hl : Store.above n l) :
    Store.above n (Store.put k x l) := by
  induction l with
  | nil => intro c hc; simp [Store.put] at hc; subst hc; exact h
  | cons c l ih =>
    obtain ⟨j, y⟩ := c
    have hj : n ≤ j := hl (j, y) (by simp)
    have hl' : Store.above n l := fun c hc => hl c (by simp [hc])
    by_cases h1 : k < j
    · simp only [Store.put, h1, if_true]
      intro c hc
      rcases List.mem_cons.mp hc with rfl | hc
      · exact h
      · exact hl c hc
    · by_cases h2 : j = k
      · subst h2
        simp only [Store.put, h1, if_false, if_true]
        intro c hc
        rcases List.mem_cons.mp hc with rfl | hc
        · exact h
        · exact hl' c hc
      · simp only [Store.put, h1, h2, if_false]
        intro c hc
        rcases List.mem_cons.mp hc with rfl | hc
        · exact hj
        · exact ih hl' c hc

/-- Putting keeps the keys rising. -/
theorem Store.rising_put {α : Type} (k : Nat) (x : α) {l : Store α} (h : Store.rising l = true) :
    Store.rising (Store.put k x l) = true := by
  induction l with
  | nil => rfl
  | cons c l ih =>
    obtain ⟨j, y⟩ := c
    obtain ⟨hl, ha⟩ := Store.rising_cons.mp h
    by_cases h1 : k < j
    · simp only [Store.put, h1, if_true]
      refine Store.rising_cons.mpr ⟨h, ?_⟩
      intro c hc
      rcases List.mem_cons.mp hc with rfl | hc
      · exact h1
      · have := ha c hc; omega
    · by_cases h2 : j = k
      · subst h2
        simp only [Store.put, h1, if_false, if_true]
        exact Store.rising_cons.mpr ⟨hl, ha⟩
      · simp only [Store.put, h1, h2, if_false]
        exact Store.rising_cons.mpr ⟨ih hl, Store.above_put (by omega) x ha⟩

theorem Store.mem_of_mem_del {α : Type} {k : Nat} {l : Store α} {c : Nat × α} (h : c ∈ Store.del k l) : c ∈ l := by
  induction l with
  | nil => exact h
  | cons d l ih =>
    obtain ⟨j, y⟩ := d
    by_cases h2 : j = k
    · simp only [Store.del, h2, if_true] at h; exact List.mem_cons_of_mem _ (ih h)
    · simp only [Store.del, h2, if_false] at h
      rcases List.mem_cons.mp h with rfl | h
      · simp
      · exact List.mem_cons_of_mem _ (ih h)

theorem Store.mem_put {α : Type} {k : Nat} {x : α} {l : Store α} {c : Nat × α} (h : c ∈ Store.put k x l) :
    c = (k, x) ∨ c ∈ l := by
  induction l with
  | nil => simp [Store.put] at h; exact .inl h
  | cons d l ih =>
    obtain ⟨j, y⟩ := d
    by_cases h1 : k < j
    · simp only [Store.put, h1, if_true] at h; exact List.mem_cons.mp h
    · by_cases h2 : j = k
      · simp only [Store.put, h2, if_false, if_true, lt_irrefl] at h
        rcases List.mem_cons.mp h with h | h
        · exact .inl h
        · exact .inr (List.mem_cons_of_mem _ h)
      · simp only [Store.put, h1, h2, if_false] at h
        rcases List.mem_cons.mp h with rfl | h
        · exact .inr (by simp)
        · rcases ih h with h | h
          · exact .inl h
          · exact .inr (List.mem_cons_of_mem _ h)

/-- Removing keeps the keys rising. -/
theorem Store.rising_del {α : Type} (k : Nat) {l : Store α} (h : Store.rising l = true) :
    Store.rising (Store.del k l) = true := by
  induction l with
  | nil => rfl
  | cons c l ih =>
    obtain ⟨j, y⟩ := c
    obtain ⟨hl, ha⟩ := Store.rising_cons.mp h
    by_cases h2 : j = k
    · simp only [Store.del, h2, if_true]; exact ih hl
    · simp only [Store.del, h2, if_false]
      exact Store.rising_cons.mpr ⟨ih hl, fun c hc => ha c (Store.mem_of_mem_del hc)⟩

/-! ### Byte memories -/

/-- What was written is read. -/
theorem memRead_memWrite_same (u : Nat → Option Byte) (l : List Host.Cell) (a : Nat) (b : Byte) :
    memRead u (memWrite u l a b) a = some b := by
  by_cases h : u a = some b <;> simp [memRead, memWrite, h]

/-- Every other byte is read as before. -/
theorem memRead_memWrite_ne (u : Nat → Option Byte) (l : List Host.Cell) {a x : Nat} (h : x ≠ a) (b : Byte) :
    memRead u (memWrite u l a b) x = memRead u l x := by
  by_cases hu : u a = some b <;> simp [memRead, memWrite, hu, Store.find_put_ne h, Store.find_del_ne h]

/-- Both at once. -/
theorem memRead_memWrite (u : Nat → Option Byte) (l : List Host.Cell) (a x : Nat) (b : Byte) :
    memRead u (memWrite u l a b) x = if x = a then some b else memRead u l x := by
  by_cases h : x = a
  · subst h; simp [memRead_memWrite_same]
  · simp [h, memRead_memWrite_ne u l h]

theorem Memory.wf_iff (u : Nat → Option Byte) (l : List Host.Cell) :
    Memory.wf u l = true ↔ Store.rising l = true ∧ ∀ c ∈ l, u c.1 ≠ some c.2 := by
  simp [Memory.wf]

/-- A write keeps the canonical form. -/
theorem Memory.wf_memWrite {u : Nat → Option Byte} {l : List Host.Cell} (h : Memory.wf u l = true) (a : Nat) (b : Byte) :
    Memory.wf u (memWrite u l a b) = true := by
  obtain ⟨hr, hn⟩ := (Memory.wf_iff u l).mp h
  refine (Memory.wf_iff u _).mpr ?_
  by_cases hu : u a = some b
  · simp only [memWrite, hu, if_true]
    exact ⟨Store.rising_del a hr, fun c hc => hn c (Store.mem_of_mem_del hc)⟩
  · simp only [memWrite, hu, if_false]
    refine ⟨Store.rising_put a b hr, fun c hc => ?_⟩
    rcases Store.mem_put hc with rfl | hc
    · exact hu
    · exact hn c hc

/-- So does a write of several bytes. -/
theorem Memory.wf_writeBytes {w : Nat} {u : Nat → Option Byte} {l : List Host.Cell} (h : Memory.wf u l = true) (x : BitVec w)
    (a n : Nat) : Memory.wf u (writeBytes u x a n l) = true := by
  induction n with
  | zero => exact h
  | succ n ih => exact Memory.wf_memWrite ih _ _

/-- So does any list of writes. -/
theorem Memory.wf_foldl {α : Type} {u : Nat → Option Byte} (f : α → Nat) (g : α → Byte) (xs : List α) {l : List Host.Cell}
    (h : Memory.wf u l = true) : Memory.wf u (xs.foldl (fun m i => memWrite u m (f i) (g i)) l) = true := by
  induction xs generalizing l with
  | nil => exact h
  | cons x xs ih => exact ih (Memory.wf_memWrite h _ _)

/-- The bytes read after a write of several. -/
theorem memRead_writeBytes {w : Nat} (u : Nat → Option Byte) (x : BitVec w) (a n : Nat) (l : List Host.Cell) (y : Nat) :
    memRead u (writeBytes u x a n l) y =
      if a ≤ y ∧ y < a + n then some (byteAt x (y - a)) else memRead u l y := by
  induction n with
  | zero => simp [writeBytes]
  | succ n ih =>
    simp only [writeBytes, memRead_memWrite, ih]
    by_cases h : y = a + n
    · subst h; simp
    · by_cases h2 : a ≤ y ∧ y < a + n
      · have h3 : a ≤ y ∧ y < a + (n + 1) := by omega
        simp [h, h2, h3]
      · have h3 : ¬(a ≤ y ∧ y < a + (n + 1)) := by omega
        simp [h, h2, h3]

/-- Joined bytes depend on those bytes only. -/
theorem joinBytes_congr {f g : Nat → Byte} {a n : Nat} (h : ∀ y, a ≤ y → y < a + n → f y = g y) :
    joinBytes f a n = joinBytes g a n := by
  induction n generalizing a with
  | zero => rfl
  | succ n ih =>
    rw [joinBytes, joinBytes, h a (Nat.le_refl a) (by omega), ih fun y hy hz => h y (by omega) (by omega)]

end Sys2Proof.Machine
end

