-- ==== Sys2Proof/Laws/State.lean ====
section
/-!
SUPPORT. What each named update of the state leaves alone: one lemma for each field and update, and what is read back.
-/
namespace Sys2Proof.Machine

/-! ### Updates of one unit -/

@[simp] theorem State.setCore_agenda (s : State) (n : Nat) (c : Core) : (s.setCore n c).agenda = s.agenda := rfl
@[simp] theorem State.setCore_cur (s : State) (n : Nat) (c : Core) : (s.setCore n c).cur = s.cur := rfl
@[simp] theorem State.setCore_waited (s : State) (n : Nat) (c : Core) : (s.setCore n c).waited = s.waited := rfl
@[simp] theorem State.setCore_freeCtr (s : State) (n : Nat) (c : Core) : (s.setCore n c).freeCtr = s.freeCtr := rfl
@[simp] theorem State.setCore_moves (s : State) (n : Nat) (c : Core) : (s.setCore n c).moves = s.moves := rfl
@[simp] theorem State.setCore_choices (s : State) (n : Nat) (c : Core) : (s.setCore n c).choices = s.choices := rfl
@[simp] theorem State.setCore_nextId (s : State) (n : Nat) (c : Core) : (s.setCore n c).nextId = s.nextId := rfl
@[simp] theorem State.setCore_clusters (s : State) (n : Nat) (c : Core) : (s.setCore n c).clusters = s.clusters := rfl
@[simp] theorem State.setCore_owners (s : State) (n : Nat) (c : Core) : (s.setCore n c).owners = s.owners := rfl
@[simp] theorem State.setCore_funcs (s : State) (n : Nat) (c : Core) : (s.setCore n c).funcs = s.funcs := rfl
@[simp] theorem State.setCore_memB (s : State) (n : Nat) (c : Core) : (s.setCore n c).memB = s.memB := rfl
@[simp] theorem State.setCore_unitKey (s : State) (n : Nat) (c : Core) : (s.setCore n c).unitKey = s.unitKey := rfl
@[simp] theorem State.setCore_poisonB (s : State) (n : Nat) (c : Core) : (s.setCore n c).poisonB = s.poisonB := rfl
@[simp] theorem State.setCore_latent (s : State) (n : Nat) (c : Core) : (s.setCore n c).latent = s.latent := rfl
@[simp] theorem State.setCore_memC (s : State) (n : Nat) (c : Core) : (s.setCore n c).memC = s.memC := rfl
@[simp] theorem State.setCore_coherence (s : State) (n : Nat) (c : Core) : (s.setCore n c).coherence = s.coherence := rfl
@[simp] theorem State.setCore_arrivals (s : State) (n : Nat) (c : Core) : (s.setCore n c).arrivals = s.arrivals := rfl
@[simp] theorem State.setCore_breaks (s : State) (n : Nat) (c : Core) : (s.setCore n c).breaks = s.breaks := rfl
@[simp] theorem State.setCore_copies (s : State) (n : Nat) (c : Core) : (s.setCore n c).copies = s.copies := rfl
@[simp] theorem State.setCore_fills (s : State) (n : Nat) (c : Core) : (s.setCore n c).fills = s.fills := rfl
@[simp] theorem State.setCore_merges (s : State) (n : Nat) (c : Core) : (s.setCore n c).merges = s.merges := rfl
@[simp] theorem State.setCore_points (s : State) (n : Nat) (c : Core) : (s.setCore n c).points = s.points := rfl
@[simp] theorem State.setCore_traffic (s : State) (n : Nat) (c : Core) : (s.setCore n c).traffic = s.traffic := rfl
@[simp] theorem State.setCore_rows (s : State) (n : Nat) (c : Core) : (s.setCore n c).rows = s.rows := rfl
@[simp] theorem State.setCore_devMsgs (s : State) (n : Nat) (c : Core) : (s.setCore n c).devMsgs = s.devMsgs := rfl
@[simp] theorem State.setCore_saved (s : State) (n : Nat) (c : Core) : (s.setCore n c).saved = s.saved := rfl
@[simp] theorem State.setCore_lateLoads (s : State) (n : Nat) (c : Core) : (s.setCore n c).lateLoads = s.lateLoads := rfl
@[simp] theorem State.setCore_errs (s : State) (n : Nat) (c : Core) : (s.setCore n c).errs = s.errs := rfl
@[simp] theorem State.setCore_eseq (s : State) (n : Nat) (c : Core) : (s.setCore n c).eseq = s.eseq := rfl
@[simp] theorem State.setCore_vdtBase (s : State) (n : Nat) (c : Core) : (s.setCore n c).vdtBase = s.vdtBase := rfl
@[simp] theorem State.setCore_owtBase (s : State) (n : Nat) (c : Core) : (s.setCore n c).owtBase = s.owtBase := rfl
@[simp] theorem State.setCore_schBase (s : State) (n : Nat) (c : Core) : (s.setCore n c).schBase = s.schBase := rfl
@[simp] theorem State.setCore_commitErr (s : State) (n : Nat) (c : Core) : (s.setCore n c).commitErr = s.commitErr := rfl
@[simp] theorem State.setCore_schedEn (s : State) (n : Nat) (c : Core) : (s.setCore n c).schedEn = s.schedEn := rfl
@[simp] theorem State.setCore_schedErr (s : State) (n : Nat) (c : Core) : (s.setCore n c).schedErr = s.schedErr := rfl
@[simp] theorem State.setCore_nrm1 (s : State) (n : Nat) (c : Core) : (s.setCore n c).nrm1 = s.nrm1 := rfl
@[simp] theorem State.setCore_rounds (s : State) (n : Nat) (c : Core) : (s.setCore n c).rounds = s.rounds := rfl
@[simp] theorem State.setCore_stopPending (s : State) (n : Nat) (c : Core) : (s.setCore n c).stopPending = s.stopPending := rfl
@[simp] theorem State.setCore_stopRound (s : State) (n : Nat) (c : Core) : (s.setCore n c).stopRound = s.stopRound := rfl
@[simp] theorem State.setCore_boot (s : State) (n : Nat) (c : Core) : (s.setCore n c).boot = s.boot := rfl
@[simp] theorem State.setCore_islands (s : State) (n : Nat) (c : Core) : (s.setCore n c).islands = s.islands := rfl
@[simp] theorem State.setCore_pwrLim (s : State) (n : Nat) (c : Core) : (s.setCore n c).pwrLim = s.pwrLim := rfl
@[simp] theorem State.setCore_pwrNow (s : State) (n : Nat) (c : Core) : (s.setCore n c).pwrNow = s.pwrNow := rfl
@[simp] theorem State.setCore_capCnt (s : State) (n : Nat) (c : Core) : (s.setCore n c).capCnt = s.capCnt := rfl
@[simp] theorem State.setCore_floorMs (s : State) (n : Nat) (c : Core) : (s.setCore n c).floorMs = s.floorMs := rfl
@[simp] theorem State.setCore_floorTold (s : State) (n : Nat) (c : Core) : (s.setCore n c).floorTold = s.floorTold := rfl
@[simp] theorem State.setCore_corrected (s : State) (n : Nat) (c : Core) : (s.setCore n c).corrected = s.corrected := rfl
@[simp] theorem State.setCore_bar (s : State) (n : Nat) (c : Core) : (s.setCore n c).bar = s.bar := rfl
@[simp] theorem State.setCore_fatal (s : State) (n : Nat) (c : Core) : (s.setCore n c).fatal = s.fatal := rfl
@[simp] theorem State.setCore_hostData (s : State) (n : Nat) (c : Core) : (s.setCore n c).hostData = s.hostData := rfl
@[simp] theorem State.setCore_scans (s : State) (n : Nat) (c : Core) : (s.setCore n c).scans = s.scans := rfl
@[simp] theorem State.setCore_hostHeld (s : State) (n : Nat) (c : Core) : (s.setCore n c).hostHeld = s.hostHeld := rfl
@[simp] theorem State.setCore_switched (s : State) (n : Nat) (c : Core) : (s.setCore n c).switched = s.switched := rfl

@[simp] theorem State.updCore_agenda (s : State) (n : Nat) (f : Core → Core) : (s.updCore n f).agenda = s.agenda := rfl
@[simp] theorem State.updCore_cur (s : State) (n : Nat) (f : Core → Core) : (s.updCore n f).cur = s.cur := rfl
@[simp] theorem State.updCore_waited (s : State) (n : Nat) (f : Core → Core) : (s.updCore n f).waited = s.waited := rfl
@[simp] theorem State.updCore_freeCtr (s : State) (n : Nat) (f : Core → Core) : (s.updCore n f).freeCtr = s.freeCtr := rfl
@[simp] theorem State.updCore_moves (s : State) (n : Nat) (f : Core → Core) : (s.updCore n f).moves = s.moves := rfl
@[simp] theorem State.updCore_choices (s : State) (n : Nat) (f : Core → Core) : (s.updCore n f).choices = s.choices := rfl
@[simp] theorem State.updCore_nextId (s : State) (n : Nat) (f : Core → Core) : (s.updCore n f).nextId = s.nextId := rfl
@[simp] theorem State.updCore_clusters (s : State) (n : Nat) (f : Core → Core) : (s.updCore n f).clusters = s.clusters := rfl
@[simp] theorem State.updCore_owners (s : State) (n : Nat) (f : Core → Core) : (s.updCore n f).owners = s.owners := rfl
@[simp] theorem State.updCore_funcs (s : State) (n : Nat) (f : Core → Core) : (s.updCore n f).funcs = s.funcs := rfl
@[simp] theorem State.updCore_memB (s : State) (n : Nat) (f : Core → Core) : (s.updCore n f).memB = s.memB := rfl
@[simp] theorem State.updCore_unitKey (s : State) (n : Nat) (f : Core → Core) : (s.updCore n f).unitKey = s.unitKey := rfl
@[simp] theorem State.updCore_poisonB (s : State) (n : Nat) (f : Core → Core) : (s.updCore n f).poisonB = s.poisonB := rfl
@[simp] theorem State.updCore_latent (s : State) (n : Nat) (f : Core → Core) : (s.updCore n f).latent = s.latent := rfl
@[simp] theorem State.updCore_memC (s : State) (n : Nat) (f : Core → Core) : (s.updCore n f).memC = s.memC := rfl
@[simp] theorem State.updCore_coherence (s : State) (n : Nat) (f : Core → Core) : (s.updCore n f).coherence = s.coherence := rfl
@[simp] theorem State.updCore_arrivals (s : State) (n : Nat) (f : Core → Core) : (s.updCore n f).arrivals = s.arrivals := rfl
@[simp] theorem State.updCore_breaks (s : State) (n : Nat) (f : Core → Core) : (s.updCore n f).breaks = s.breaks := rfl
@[simp] theorem State.updCore_copies (s : State) (n : Nat) (f : Core → Core) : (s.updCore n f).copies = s.copies := rfl
@[simp] theorem State.updCore_fills (s : State) (n : Nat) (f : Core → Core) : (s.updCore n f).fills = s.fills := rfl
@[simp] theorem State.updCore_merges (s : State) (n : Nat) (f : Core → Core) : (s.updCore n f).merges = s.merges := rfl
@[simp] theorem State.updCore_points (s : State) (n : Nat) (f : Core → Core) : (s.updCore n f).points = s.points := rfl
@[simp] theorem State.updCore_traffic (s : State) (n : Nat) (f : Core → Core) : (s.updCore n f).traffic = s.traffic := rfl
@[simp] theorem State.updCore_rows (s : State) (n : Nat) (f : Core → Core) : (s.updCore n f).rows = s.rows := rfl
@[simp] theorem State.updCore_devMsgs (s : State) (n : Nat) (f : Core → Core) : (s.updCore n f).devMsgs = s.devMsgs := rfl
@[simp] theorem State.updCore_saved (s : State) (n : Nat) (f : Core → Core) : (s.updCore n f).saved = s.saved := rfl
@[simp] theorem State.updCore_lateLoads (s : State) (n : Nat) (f : Core → Core) : (s.updCore n f).lateLoads = s.lateLoads := rfl
@[simp] theorem State.updCore_errs (s : State) (n : Nat) (f : Core → Core) : (s.updCore n f).errs = s.errs := rfl
@[simp] theorem State.updCore_eseq (s : State) (n : Nat) (f : Core → Core) : (s.updCore n f).eseq = s.eseq := rfl
@[simp] theorem State.updCore_vdtBase (s : State) (n : Nat) (f : Core → Core) : (s.updCore n f).vdtBase = s.vdtBase := rfl
@[simp] theorem State.updCore_owtBase (s : State) (n : Nat) (f : Core → Core) : (s.updCore n f).owtBase = s.owtBase := rfl
@[simp] theorem State.updCore_schBase (s : State) (n : Nat) (f : Core → Core) : (s.updCore n f).schBase = s.schBase := rfl
@[simp] theorem State.updCore_commitErr (s : State) (n : Nat) (f : Core → Core) : (s.updCore n f).commitErr = s.commitErr := rfl
@[simp] theorem State.updCore_schedEn (s : State) (n : Nat) (f : Core → Core) : (s.updCore n f).schedEn = s.schedEn := rfl
@[simp] theorem State.updCore_schedErr (s : State) (n : Nat) (f : Core → Core) : (s.updCore n f).schedErr = s.schedErr := rfl
@[simp] theorem State.updCore_nrm1 (s : State) (n : Nat) (f : Core → Core) : (s.updCore n f).nrm1 = s.nrm1 := rfl
@[simp] theorem State.updCore_rounds (s : State) (n : Nat) (f : Core → Core) : (s.updCore n f).rounds = s.rounds := rfl
@[simp] theorem State.updCore_stopPending (s : State) (n : Nat) (f : Core → Core) : (s.updCore n f).stopPending = s.stopPending := rfl
@[simp] theorem State.updCore_stopRound (s : State) (n : Nat) (f : Core → Core) : (s.updCore n f).stopRound = s.stopRound := rfl
@[simp] theorem State.updCore_boot (s : State) (n : Nat) (f : Core → Core) : (s.updCore n f).boot = s.boot := rfl
@[simp] theorem State.updCore_islands (s : State) (n : Nat) (f : Core → Core) : (s.updCore n f).islands = s.islands := rfl
@[simp] theorem State.updCore_pwrLim (s : State) (n : Nat) (f : Core → Core) : (s.updCore n f).pwrLim = s.pwrLim := rfl
@[simp] theorem State.updCore_pwrNow (s : State) (n : Nat) (f : Core → Core) : (s.updCore n f).pwrNow = s.pwrNow := rfl
@[simp] theorem State.updCore_capCnt (s : State) (n : Nat) (f : Core → Core) : (s.updCore n f).capCnt = s.capCnt := rfl
@[simp] theorem State.updCore_floorMs (s : State) (n : Nat) (f : Core → Core) : (s.updCore n f).floorMs = s.floorMs := rfl
@[simp] theorem State.updCore_floorTold (s : State) (n : Nat) (f : Core → Core) : (s.updCore n f).floorTold = s.floorTold := rfl
@[simp] theorem State.updCore_corrected (s : State) (n : Nat) (f : Core → Core) : (s.updCore n f).corrected = s.corrected := rfl
@[simp] theorem State.updCore_bar (s : State) (n : Nat) (f : Core → Core) : (s.updCore n f).bar = s.bar := rfl
@[simp] theorem State.updCore_fatal (s : State) (n : Nat) (f : Core → Core) : (s.updCore n f).fatal = s.fatal := rfl
@[simp] theorem State.updCore_hostData (s : State) (n : Nat) (f : Core → Core) : (s.updCore n f).hostData = s.hostData := rfl
@[simp] theorem State.updCore_scans (s : State) (n : Nat) (f : Core → Core) : (s.updCore n f).scans = s.scans := rfl
@[simp] theorem State.updCore_hostHeld (s : State) (n : Nat) (f : Core → Core) : (s.updCore n f).hostHeld = s.hostHeld := rfl
@[simp] theorem State.updCore_switched (s : State) (n : Nat) (f : Core → Core) : (s.updCore n f).switched = s.switched := rfl

@[simp] theorem State.setCluster_agenda (s : State) (g : Nat) (c : Cluster) : (s.setCluster g c).agenda = s.agenda := rfl
@[simp] theorem State.setCluster_cur (s : State) (g : Nat) (c : Cluster) : (s.setCluster g c).cur = s.cur := rfl
@[simp] theorem State.setCluster_waited (s : State) (g : Nat) (c : Cluster) : (s.setCluster g c).waited = s.waited := rfl
@[simp] theorem State.setCluster_freeCtr (s : State) (g : Nat) (c : Cluster) : (s.setCluster g c).freeCtr = s.freeCtr := rfl
@[simp] theorem State.setCluster_moves (s : State) (g : Nat) (c : Cluster) : (s.setCluster g c).moves = s.moves := rfl
@[simp] theorem State.setCluster_choices (s : State) (g : Nat) (c : Cluster) : (s.setCluster g c).choices = s.choices := rfl
@[simp] theorem State.setCluster_nextId (s : State) (g : Nat) (c : Cluster) : (s.setCluster g c).nextId = s.nextId := rfl
@[simp] theorem State.setCluster_cores (s : State) (g : Nat) (c : Cluster) : (s.setCluster g c).cores = s.cores := rfl
@[simp] theorem State.setCluster_owners (s : State) (g : Nat) (c : Cluster) : (s.setCluster g c).owners = s.owners := rfl
@[simp] theorem State.setCluster_funcs (s : State) (g : Nat) (c : Cluster) : (s.setCluster g c).funcs = s.funcs := rfl
@[simp] theorem State.setCluster_memB (s : State) (g : Nat) (c : Cluster) : (s.setCluster g c).memB = s.memB := rfl
@[simp] theorem State.setCluster_unitKey (s : State) (g : Nat) (c : Cluster) : (s.setCluster g c).unitKey = s.unitKey := rfl
@[simp] theorem State.setCluster_poisonB (s : State) (g : Nat) (c : Cluster) : (s.setCluster g c).poisonB = s.poisonB := rfl
@[simp] theorem State.setCluster_latent (s : State) (g : Nat) (c : Cluster) : (s.setCluster g c).latent = s.latent := rfl
@[simp] theorem State.setCluster_memC (s : State) (g : Nat) (c : Cluster) : (s.setCluster g c).memC = s.memC := rfl
@[simp] theorem State.setCluster_coherence (s : State) (g : Nat) (c : Cluster) : (s.setCluster g c).coherence = s.coherence := rfl
@[simp] theorem State.setCluster_arrivals (s : State) (g : Nat) (c : Cluster) : (s.setCluster g c).arrivals = s.arrivals := rfl
@[simp] theorem State.setCluster_breaks (s : State) (g : Nat) (c : Cluster) : (s.setCluster g c).breaks = s.breaks := rfl
@[simp] theorem State.setCluster_copies (s : State) (g : Nat) (c : Cluster) : (s.setCluster g c).copies = s.copies := rfl
@[simp] theorem State.setCluster_fills (s : State) (g : Nat) (c : Cluster) : (s.setCluster g c).fills = s.fills := rfl
@[simp] theorem State.setCluster_merges (s : State) (g : Nat) (c : Cluster) : (s.setCluster g c).merges = s.merges := rfl
@[simp] theorem State.setCluster_points (s : State) (g : Nat) (c : Cluster) : (s.setCluster g c).points = s.points := rfl
@[simp] theorem State.setCluster_traffic (s : State) (g : Nat) (c : Cluster) : (s.setCluster g c).traffic = s.traffic := rfl
@[simp] theorem State.setCluster_rows (s : State) (g : Nat) (c : Cluster) : (s.setCluster g c).rows = s.rows := rfl
@[simp] theorem State.setCluster_devMsgs (s : State) (g : Nat) (c : Cluster) : (s.setCluster g c).devMsgs = s.devMsgs := rfl
@[simp] theorem State.setCluster_saved (s : State) (g : Nat) (c : Cluster) : (s.setCluster g c).saved = s.saved := rfl
@[simp] theorem State.setCluster_lateLoads (s : State) (g : Nat) (c : Cluster) : (s.setCluster g c).lateLoads = s.lateLoads := rfl
@[simp] theorem State.setCluster_errs (s : State) (g : Nat) (c : Cluster) : (s.setCluster g c).errs = s.errs := rfl
@[simp] theorem State.setCluster_eseq (s : State) (g : Nat) (c : Cluster) : (s.setCluster g c).eseq = s.eseq := rfl
@[simp] theorem State.setCluster_vdtBase (s : State) (g : Nat) (c : Cluster) : (s.setCluster g c).vdtBase = s.vdtBase := rfl
@[simp] theorem State.setCluster_owtBase (s : State) (g : Nat) (c : Cluster) : (s.setCluster g c).owtBase = s.owtBase := rfl
@[simp] theorem State.setCluster_schBase (s : State) (g : Nat) (c : Cluster) : (s.setCluster g c).schBase = s.schBase := rfl
@[simp] theorem State.setCluster_commitErr (s : State) (g : Nat) (c : Cluster) : (s.setCluster g c).commitErr = s.commitErr := rfl
@[simp] theorem State.setCluster_schedEn (s : State) (g : Nat) (c : Cluster) : (s.setCluster g c).schedEn = s.schedEn := rfl
@[simp] theorem State.setCluster_schedErr (s : State) (g : Nat) (c : Cluster) : (s.setCluster g c).schedErr = s.schedErr := rfl
@[simp] theorem State.setCluster_nrm1 (s : State) (g : Nat) (c : Cluster) : (s.setCluster g c).nrm1 = s.nrm1 := rfl
@[simp] theorem State.setCluster_rounds (s : State) (g : Nat) (c : Cluster) : (s.setCluster g c).rounds = s.rounds := rfl
@[simp] theorem State.setCluster_stopPending (s : State) (g : Nat) (c : Cluster) : (s.setCluster g c).stopPending = s.stopPending := rfl
@[simp] theorem State.setCluster_stopRound (s : State) (g : Nat) (c : Cluster) : (s.setCluster g c).stopRound = s.stopRound := rfl
@[simp] theorem State.setCluster_boot (s : State) (g : Nat) (c : Cluster) : (s.setCluster g c).boot = s.boot := rfl
@[simp] theorem State.setCluster_islands (s : State) (g : Nat) (c : Cluster) : (s.setCluster g c).islands = s.islands := rfl
@[simp] theorem State.setCluster_pwrLim (s : State) (g : Nat) (c : Cluster) : (s.setCluster g c).pwrLim = s.pwrLim := rfl
@[simp] theorem State.setCluster_pwrNow (s : State) (g : Nat) (c : Cluster) : (s.setCluster g c).pwrNow = s.pwrNow := rfl
@[simp] theorem State.setCluster_capCnt (s : State) (g : Nat) (c : Cluster) : (s.setCluster g c).capCnt = s.capCnt := rfl
@[simp] theorem State.setCluster_floorMs (s : State) (g : Nat) (c : Cluster) : (s.setCluster g c).floorMs = s.floorMs := rfl
@[simp] theorem State.setCluster_floorTold (s : State) (g : Nat) (c : Cluster) : (s.setCluster g c).floorTold = s.floorTold := rfl
@[simp] theorem State.setCluster_corrected (s : State) (g : Nat) (c : Cluster) : (s.setCluster g c).corrected = s.corrected := rfl
@[simp] theorem State.setCluster_bar (s : State) (g : Nat) (c : Cluster) : (s.setCluster g c).bar = s.bar := rfl
@[simp] theorem State.setCluster_fatal (s : State) (g : Nat) (c : Cluster) : (s.setCluster g c).fatal = s.fatal := rfl
@[simp] theorem State.setCluster_hostData (s : State) (g : Nat) (c : Cluster) : (s.setCluster g c).hostData = s.hostData := rfl
@[simp] theorem State.setCluster_scans (s : State) (g : Nat) (c : Cluster) : (s.setCluster g c).scans = s.scans := rfl
@[simp] theorem State.setCluster_hostHeld (s : State) (g : Nat) (c : Cluster) : (s.setCluster g c).hostHeld = s.hostHeld := rfl
@[simp] theorem State.setCluster_switched (s : State) (g : Nat) (c : Cluster) : (s.setCluster g c).switched = s.switched := rfl

@[simp] theorem State.updCluster_agenda (s : State) (g : Nat) (f : Cluster → Cluster) : (s.updCluster g f).agenda = s.agenda := rfl
@[simp] theorem State.updCluster_cur (s : State) (g : Nat) (f : Cluster → Cluster) : (s.updCluster g f).cur = s.cur := rfl
@[simp] theorem State.updCluster_waited (s : State) (g : Nat) (f : Cluster → Cluster) : (s.updCluster g f).waited = s.waited := rfl
@[simp] theorem State.updCluster_freeCtr (s : State) (g : Nat) (f : Cluster → Cluster) : (s.updCluster g f).freeCtr = s.freeCtr := rfl
@[simp] theorem State.updCluster_moves (s : State) (g : Nat) (f : Cluster → Cluster) : (s.updCluster g f).moves = s.moves := rfl
@[simp] theorem State.updCluster_choices (s : State) (g : Nat) (f : Cluster → Cluster) : (s.updCluster g f).choices = s.choices := rfl
@[simp] theorem State.updCluster_nextId (s : State) (g : Nat) (f : Cluster → Cluster) : (s.updCluster g f).nextId = s.nextId := rfl
@[simp] theorem State.updCluster_cores (s : State) (g : Nat) (f : Cluster → Cluster) : (s.updCluster g f).cores = s.cores := rfl
@[simp] theorem State.updCluster_owners (s : State) (g : Nat) (f : Cluster → Cluster) : (s.updCluster g f).owners = s.owners := rfl
@[simp] theorem State.updCluster_funcs (s : State) (g : Nat) (f : Cluster → Cluster) : (s.updCluster g f).funcs = s.funcs := rfl
@[simp] theorem State.updCluster_memB (s : State) (g : Nat) (f : Cluster → Cluster) : (s.updCluster g f).memB = s.memB := rfl
@[simp] theorem State.updCluster_unitKey (s : State) (g : Nat) (f : Cluster → Cluster) : (s.updCluster g f).unitKey = s.unitKey := rfl
@[simp] theorem State.updCluster_poisonB (s : State) (g : Nat) (f : Cluster → Cluster) : (s.updCluster g f).poisonB = s.poisonB := rfl
@[simp] theorem State.updCluster_latent (s : State) (g : Nat) (f : Cluster → Cluster) : (s.updCluster g f).latent = s.latent := rfl
@[simp] theorem State.updCluster_memC (s : State) (g : Nat) (f : Cluster → Cluster) : (s.updCluster g f).memC = s.memC := rfl
@[simp] theorem State.updCluster_coherence (s : State) (g : Nat) (f : Cluster → Cluster) : (s.updCluster g f).coherence = s.coherence := rfl
@[simp] theorem State.updCluster_arrivals (s : State) (g : Nat) (f : Cluster → Cluster) : (s.updCluster g f).arrivals = s.arrivals := rfl
@[simp] theorem State.updCluster_breaks (s : State) (g : Nat) (f : Cluster → Cluster) : (s.updCluster g f).breaks = s.breaks := rfl
@[simp] theorem State.updCluster_copies (s : State) (g : Nat) (f : Cluster → Cluster) : (s.updCluster g f).copies = s.copies := rfl
@[simp] theorem State.updCluster_fills (s : State) (g : Nat) (f : Cluster → Cluster) : (s.updCluster g f).fills = s.fills := rfl
@[simp] theorem State.updCluster_merges (s : State) (g : Nat) (f : Cluster → Cluster) : (s.updCluster g f).merges = s.merges := rfl
@[simp] theorem State.updCluster_points (s : State) (g : Nat) (f : Cluster → Cluster) : (s.updCluster g f).points = s.points := rfl
@[simp] theorem State.updCluster_traffic (s : State) (g : Nat) (f : Cluster → Cluster) : (s.updCluster g f).traffic = s.traffic := rfl
@[simp] theorem State.updCluster_rows (s : State) (g : Nat) (f : Cluster → Cluster) : (s.updCluster g f).rows = s.rows := rfl
@[simp] theorem State.updCluster_devMsgs (s : State) (g : Nat) (f : Cluster → Cluster) : (s.updCluster g f).devMsgs = s.devMsgs := rfl
@[simp] theorem State.updCluster_saved (s : State) (g : Nat) (f : Cluster → Cluster) : (s.updCluster g f).saved = s.saved := rfl
@[simp] theorem State.updCluster_lateLoads (s : State) (g : Nat) (f : Cluster → Cluster) : (s.updCluster g f).lateLoads = s.lateLoads := rfl
@[simp] theorem State.updCluster_errs (s : State) (g : Nat) (f : Cluster → Cluster) : (s.updCluster g f).errs = s.errs := rfl
@[simp] theorem State.updCluster_eseq (s : State) (g : Nat) (f : Cluster → Cluster) : (s.updCluster g f).eseq = s.eseq := rfl
@[simp] theorem State.updCluster_vdtBase (s : State) (g : Nat) (f : Cluster → Cluster) : (s.updCluster g f).vdtBase = s.vdtBase := rfl
@[simp] theorem State.updCluster_owtBase (s : State) (g : Nat) (f : Cluster → Cluster) : (s.updCluster g f).owtBase = s.owtBase := rfl
@[simp] theorem State.updCluster_schBase (s : State) (g : Nat) (f : Cluster → Cluster) : (s.updCluster g f).schBase = s.schBase := rfl
@[simp] theorem State.updCluster_commitErr (s : State) (g : Nat) (f : Cluster → Cluster) : (s.updCluster g f).commitErr = s.commitErr := rfl
@[simp] theorem State.updCluster_schedEn (s : State) (g : Nat) (f : Cluster → Cluster) : (s.updCluster g f).schedEn = s.schedEn := rfl
@[simp] theorem State.updCluster_schedErr (s : State) (g : Nat) (f : Cluster → Cluster) : (s.updCluster g f).schedErr = s.schedErr := rfl
@[simp] theorem State.updCluster_nrm1 (s : State) (g : Nat) (f : Cluster → Cluster) : (s.updCluster g f).nrm1 = s.nrm1 := rfl
@[simp] theorem State.updCluster_rounds (s : State) (g : Nat) (f : Cluster → Cluster) : (s.updCluster g f).rounds = s.rounds := rfl
@[simp] theorem State.updCluster_stopPending (s : State) (g : Nat) (f : Cluster → Cluster) : (s.updCluster g f).stopPending = s.stopPending := rfl
@[simp] theorem State.updCluster_stopRound (s : State) (g : Nat) (f : Cluster → Cluster) : (s.updCluster g f).stopRound = s.stopRound := rfl
@[simp] theorem State.updCluster_boot (s : State) (g : Nat) (f : Cluster → Cluster) : (s.updCluster g f).boot = s.boot := rfl
@[simp] theorem State.updCluster_islands (s : State) (g : Nat) (f : Cluster → Cluster) : (s.updCluster g f).islands = s.islands := rfl
@[simp] theorem State.updCluster_pwrLim (s : State) (g : Nat) (f : Cluster → Cluster) : (s.updCluster g f).pwrLim = s.pwrLim := rfl
@[simp] theorem State.updCluster_pwrNow (s : State) (g : Nat) (f : Cluster → Cluster) : (s.updCluster g f).pwrNow = s.pwrNow := rfl
@[simp] theorem State.updCluster_capCnt (s : State) (g : Nat) (f : Cluster → Cluster) : (s.updCluster g f).capCnt = s.capCnt := rfl
@[simp] theorem State.updCluster_floorMs (s : State) (g : Nat) (f : Cluster → Cluster) : (s.updCluster g f).floorMs = s.floorMs := rfl
@[simp] theorem State.updCluster_floorTold (s : State) (g : Nat) (f : Cluster → Cluster) : (s.updCluster g f).floorTold = s.floorTold := rfl
@[simp] theorem State.updCluster_corrected (s : State) (g : Nat) (f : Cluster → Cluster) : (s.updCluster g f).corrected = s.corrected := rfl
@[simp] theorem State.updCluster_bar (s : State) (g : Nat) (f : Cluster → Cluster) : (s.updCluster g f).bar = s.bar := rfl
@[simp] theorem State.updCluster_fatal (s : State) (g : Nat) (f : Cluster → Cluster) : (s.updCluster g f).fatal = s.fatal := rfl
@[simp] theorem State.updCluster_hostData (s : State) (g : Nat) (f : Cluster → Cluster) : (s.updCluster g f).hostData = s.hostData := rfl
@[simp] theorem State.updCluster_scans (s : State) (g : Nat) (f : Cluster → Cluster) : (s.updCluster g f).scans = s.scans := rfl
@[simp] theorem State.updCluster_hostHeld (s : State) (g : Nat) (f : Cluster → Cluster) : (s.updCluster g f).hostHeld = s.hostHeld := rfl
@[simp] theorem State.updCluster_switched (s : State) (g : Nat) (f : Cluster → Cluster) : (s.updCluster g f).switched = s.switched := rfl

@[simp] theorem State.updOwner_agenda (s : State) (o : Nat) (f : Owner → Owner) : (s.updOwner o f).agenda = s.agenda := rfl
@[simp] theorem State.updOwner_cur (s : State) (o : Nat) (f : Owner → Owner) : (s.updOwner o f).cur = s.cur := rfl
@[simp] theorem State.updOwner_waited (s : State) (o : Nat) (f : Owner → Owner) : (s.updOwner o f).waited = s.waited := rfl
@[simp] theorem State.updOwner_freeCtr (s : State) (o : Nat) (f : Owner → Owner) : (s.updOwner o f).freeCtr = s.freeCtr := rfl
@[simp] theorem State.updOwner_moves (s : State) (o : Nat) (f : Owner → Owner) : (s.updOwner o f).moves = s.moves := rfl
@[simp] theorem State.updOwner_choices (s : State) (o : Nat) (f : Owner → Owner) : (s.updOwner o f).choices = s.choices := rfl
@[simp] theorem State.updOwner_nextId (s : State) (o : Nat) (f : Owner → Owner) : (s.updOwner o f).nextId = s.nextId := rfl
@[simp] theorem State.updOwner_cores (s : State) (o : Nat) (f : Owner → Owner) : (s.updOwner o f).cores = s.cores := rfl
@[simp] theorem State.updOwner_clusters (s : State) (o : Nat) (f : Owner → Owner) : (s.updOwner o f).clusters = s.clusters := rfl
@[simp] theorem State.updOwner_funcs (s : State) (o : Nat) (f : Owner → Owner) : (s.updOwner o f).funcs = s.funcs := rfl
@[simp] theorem State.updOwner_memB (s : State) (o : Nat) (f : Owner → Owner) : (s.updOwner o f).memB = s.memB := rfl
@[simp] theorem State.updOwner_unitKey (s : State) (o : Nat) (f : Owner → Owner) : (s.updOwner o f).unitKey = s.unitKey := rfl
@[simp] theorem State.updOwner_poisonB (s : State) (o : Nat) (f : Owner → Owner) : (s.updOwner o f).poisonB = s.poisonB := rfl
@[simp] theorem State.updOwner_latent (s : State) (o : Nat) (f : Owner → Owner) : (s.updOwner o f).latent = s.latent := rfl
@[simp] theorem State.updOwner_memC (s : State) (o : Nat) (f : Owner → Owner) : (s.updOwner o f).memC = s.memC := rfl
@[simp] theorem State.updOwner_coherence (s : State) (o : Nat) (f : Owner → Owner) : (s.updOwner o f).coherence = s.coherence := rfl
@[simp] theorem State.updOwner_arrivals (s : State) (o : Nat) (f : Owner → Owner) : (s.updOwner o f).arrivals = s.arrivals := rfl
@[simp] theorem State.updOwner_breaks (s : State) (o : Nat) (f : Owner → Owner) : (s.updOwner o f).breaks = s.breaks := rfl
@[simp] theorem State.updOwner_copies (s : State) (o : Nat) (f : Owner → Owner) : (s.updOwner o f).copies = s.copies := rfl
@[simp] theorem State.updOwner_fills (s : State) (o : Nat) (f : Owner → Owner) : (s.updOwner o f).fills = s.fills := rfl
@[simp] theorem State.updOwner_merges (s : State) (o : Nat) (f : Owner → Owner) : (s.updOwner o f).merges = s.merges := rfl
@[simp] theorem State.updOwner_points (s : State) (o : Nat) (f : Owner → Owner) : (s.updOwner o f).points = s.points := rfl
@[simp] theorem State.updOwner_traffic (s : State) (o : Nat) (f : Owner → Owner) : (s.updOwner o f).traffic = s.traffic := rfl
@[simp] theorem State.updOwner_rows (s : State) (o : Nat) (f : Owner → Owner) : (s.updOwner o f).rows = s.rows := rfl
@[simp] theorem State.updOwner_devMsgs (s : State) (o : Nat) (f : Owner → Owner) : (s.updOwner o f).devMsgs = s.devMsgs := rfl
@[simp] theorem State.updOwner_saved (s : State) (o : Nat) (f : Owner → Owner) : (s.updOwner o f).saved = s.saved := rfl
@[simp] theorem State.updOwner_lateLoads (s : State) (o : Nat) (f : Owner → Owner) : (s.updOwner o f).lateLoads = s.lateLoads := rfl
@[simp] theorem State.updOwner_errs (s : State) (o : Nat) (f : Owner → Owner) : (s.updOwner o f).errs = s.errs := rfl
@[simp] theorem State.updOwner_eseq (s : State) (o : Nat) (f : Owner → Owner) : (s.updOwner o f).eseq = s.eseq := rfl
@[simp] theorem State.updOwner_vdtBase (s : State) (o : Nat) (f : Owner → Owner) : (s.updOwner o f).vdtBase = s.vdtBase := rfl
@[simp] theorem State.updOwner_owtBase (s : State) (o : Nat) (f : Owner → Owner) : (s.updOwner o f).owtBase = s.owtBase := rfl
@[simp] theorem State.updOwner_schBase (s : State) (o : Nat) (f : Owner → Owner) : (s.updOwner o f).schBase = s.schBase := rfl
@[simp] theorem State.updOwner_commitErr (s : State) (o : Nat) (f : Owner → Owner) : (s.updOwner o f).commitErr = s.commitErr := rfl
@[simp] theorem State.updOwner_schedEn (s : State) (o : Nat) (f : Owner → Owner) : (s.updOwner o f).schedEn = s.schedEn := rfl
@[simp] theorem State.updOwner_schedErr (s : State) (o : Nat) (f : Owner → Owner) : (s.updOwner o f).schedErr = s.schedErr := rfl
@[simp] theorem State.updOwner_nrm1 (s : State) (o : Nat) (f : Owner → Owner) : (s.updOwner o f).nrm1 = s.nrm1 := rfl
@[simp] theorem State.updOwner_rounds (s : State) (o : Nat) (f : Owner → Owner) : (s.updOwner o f).rounds = s.rounds := rfl
@[simp] theorem State.updOwner_stopPending (s : State) (o : Nat) (f : Owner → Owner) : (s.updOwner o f).stopPending = s.stopPending := rfl
@[simp] theorem State.updOwner_stopRound (s : State) (o : Nat) (f : Owner → Owner) : (s.updOwner o f).stopRound = s.stopRound := rfl
@[simp] theorem State.updOwner_boot (s : State) (o : Nat) (f : Owner → Owner) : (s.updOwner o f).boot = s.boot := rfl
@[simp] theorem State.updOwner_islands (s : State) (o : Nat) (f : Owner → Owner) : (s.updOwner o f).islands = s.islands := rfl
@[simp] theorem State.updOwner_pwrLim (s : State) (o : Nat) (f : Owner → Owner) : (s.updOwner o f).pwrLim = s.pwrLim := rfl
@[simp] theorem State.updOwner_pwrNow (s : State) (o : Nat) (f : Owner → Owner) : (s.updOwner o f).pwrNow = s.pwrNow := rfl
@[simp] theorem State.updOwner_capCnt (s : State) (o : Nat) (f : Owner → Owner) : (s.updOwner o f).capCnt = s.capCnt := rfl
@[simp] theorem State.updOwner_floorMs (s : State) (o : Nat) (f : Owner → Owner) : (s.updOwner o f).floorMs = s.floorMs := rfl
@[simp] theorem State.updOwner_floorTold (s : State) (o : Nat) (f : Owner → Owner) : (s.updOwner o f).floorTold = s.floorTold := rfl
@[simp] theorem State.updOwner_corrected (s : State) (o : Nat) (f : Owner → Owner) : (s.updOwner o f).corrected = s.corrected := rfl
@[simp] theorem State.updOwner_bar (s : State) (o : Nat) (f : Owner → Owner) : (s.updOwner o f).bar = s.bar := rfl
@[simp] theorem State.updOwner_fatal (s : State) (o : Nat) (f : Owner → Owner) : (s.updOwner o f).fatal = s.fatal := rfl
@[simp] theorem State.updOwner_hostData (s : State) (o : Nat) (f : Owner → Owner) : (s.updOwner o f).hostData = s.hostData := rfl
@[simp] theorem State.updOwner_scans (s : State) (o : Nat) (f : Owner → Owner) : (s.updOwner o f).scans = s.scans := rfl
@[simp] theorem State.updOwner_hostHeld (s : State) (o : Nat) (f : Owner → Owner) : (s.updOwner o f).hostHeld = s.hostHeld := rfl
@[simp] theorem State.updOwner_switched (s : State) (o : Nat) (f : Owner → Owner) : (s.updOwner o f).switched = s.switched := rfl

@[simp] theorem State.updFunc_agenda (s : State) (i : Nat) (f : Func → Func) : (s.updFunc i f).agenda = s.agenda := rfl
@[simp] theorem State.updFunc_cur (s : State) (i : Nat) (f : Func → Func) : (s.updFunc i f).cur = s.cur := rfl
@[simp] theorem State.updFunc_waited (s : State) (i : Nat) (f : Func → Func) : (s.updFunc i f).waited = s.waited := rfl
@[simp] theorem State.updFunc_freeCtr (s : State) (i : Nat) (f : Func → Func) : (s.updFunc i f).freeCtr = s.freeCtr := rfl
@[simp] theorem State.updFunc_moves (s : State) (i : Nat) (f : Func → Func) : (s.updFunc i f).moves = s.moves := rfl
@[simp] theorem State.updFunc_choices (s : State) (i : Nat) (f : Func → Func) : (s.updFunc i f).choices = s.choices := rfl
@[simp] theorem State.updFunc_nextId (s : State) (i : Nat) (f : Func → Func) : (s.updFunc i f).nextId = s.nextId := rfl
@[simp] theorem State.updFunc_cores (s : State) (i : Nat) (f : Func → Func) : (s.updFunc i f).cores = s.cores := rfl
@[simp] theorem State.updFunc_clusters (s : State) (i : Nat) (f : Func → Func) : (s.updFunc i f).clusters = s.clusters := rfl
@[simp] theorem State.updFunc_owners (s : State) (i : Nat) (f : Func → Func) : (s.updFunc i f).owners = s.owners := rfl
@[simp] theorem State.updFunc_memB (s : State) (i : Nat) (f : Func → Func) : (s.updFunc i f).memB = s.memB := rfl
@[simp] theorem State.updFunc_unitKey (s : State) (i : Nat) (f : Func → Func) : (s.updFunc i f).unitKey = s.unitKey := rfl
@[simp] theorem State.updFunc_poisonB (s : State) (i : Nat) (f : Func → Func) : (s.updFunc i f).poisonB = s.poisonB := rfl
@[simp] theorem State.updFunc_latent (s : State) (i : Nat) (f : Func → Func) : (s.updFunc i f).latent = s.latent := rfl
@[simp] theorem State.updFunc_memC (s : State) (i : Nat) (f : Func → Func) : (s.updFunc i f).memC = s.memC := rfl
@[simp] theorem State.updFunc_coherence (s : State) (i : Nat) (f : Func → Func) : (s.updFunc i f).coherence = s.coherence := rfl
@[simp] theorem State.updFunc_arrivals (s : State) (i : Nat) (f : Func → Func) : (s.updFunc i f).arrivals = s.arrivals := rfl
@[simp] theorem State.updFunc_breaks (s : State) (i : Nat) (f : Func → Func) : (s.updFunc i f).breaks = s.breaks := rfl
@[simp] theorem State.updFunc_copies (s : State) (i : Nat) (f : Func → Func) : (s.updFunc i f).copies = s.copies := rfl
@[simp] theorem State.updFunc_fills (s : State) (i : Nat) (f : Func → Func) : (s.updFunc i f).fills = s.fills := rfl
@[simp] theorem State.updFunc_merges (s : State) (i : Nat) (f : Func → Func) : (s.updFunc i f).merges = s.merges := rfl
@[simp] theorem State.updFunc_points (s : State) (i : Nat) (f : Func → Func) : (s.updFunc i f).points = s.points := rfl
@[simp] theorem State.updFunc_traffic (s : State) (i : Nat) (f : Func → Func) : (s.updFunc i f).traffic = s.traffic := rfl
@[simp] theorem State.updFunc_rows (s : State) (i : Nat) (f : Func → Func) : (s.updFunc i f).rows = s.rows := rfl
@[simp] theorem State.updFunc_devMsgs (s : State) (i : Nat) (f : Func → Func) : (s.updFunc i f).devMsgs = s.devMsgs := rfl
@[simp] theorem State.updFunc_saved (s : State) (i : Nat) (f : Func → Func) : (s.updFunc i f).saved = s.saved := rfl
@[simp] theorem State.updFunc_lateLoads (s : State) (i : Nat) (f : Func → Func) : (s.updFunc i f).lateLoads = s.lateLoads := rfl
@[simp] theorem State.updFunc_errs (s : State) (i : Nat) (f : Func → Func) : (s.updFunc i f).errs = s.errs := rfl
@[simp] theorem State.updFunc_eseq (s : State) (i : Nat) (f : Func → Func) : (s.updFunc i f).eseq = s.eseq := rfl
@[simp] theorem State.updFunc_vdtBase (s : State) (i : Nat) (f : Func → Func) : (s.updFunc i f).vdtBase = s.vdtBase := rfl
@[simp] theorem State.updFunc_owtBase (s : State) (i : Nat) (f : Func → Func) : (s.updFunc i f).owtBase = s.owtBase := rfl
@[simp] theorem State.updFunc_schBase (s : State) (i : Nat) (f : Func → Func) : (s.updFunc i f).schBase = s.schBase := rfl
@[simp] theorem State.updFunc_commitErr (s : State) (i : Nat) (f : Func → Func) : (s.updFunc i f).commitErr = s.commitErr := rfl
@[simp] theorem State.updFunc_schedEn (s : State) (i : Nat) (f : Func → Func) : (s.updFunc i f).schedEn = s.schedEn := rfl
@[simp] theorem State.updFunc_schedErr (s : State) (i : Nat) (f : Func → Func) : (s.updFunc i f).schedErr = s.schedErr := rfl
@[simp] theorem State.updFunc_nrm1 (s : State) (i : Nat) (f : Func → Func) : (s.updFunc i f).nrm1 = s.nrm1 := rfl
@[simp] theorem State.updFunc_rounds (s : State) (i : Nat) (f : Func → Func) : (s.updFunc i f).rounds = s.rounds := rfl
@[simp] theorem State.updFunc_stopPending (s : State) (i : Nat) (f : Func → Func) : (s.updFunc i f).stopPending = s.stopPending := rfl
@[simp] theorem State.updFunc_stopRound (s : State) (i : Nat) (f : Func → Func) : (s.updFunc i f).stopRound = s.stopRound := rfl
@[simp] theorem State.updFunc_boot (s : State) (i : Nat) (f : Func → Func) : (s.updFunc i f).boot = s.boot := rfl
@[simp] theorem State.updFunc_islands (s : State) (i : Nat) (f : Func → Func) : (s.updFunc i f).islands = s.islands := rfl
@[simp] theorem State.updFunc_pwrLim (s : State) (i : Nat) (f : Func → Func) : (s.updFunc i f).pwrLim = s.pwrLim := rfl
@[simp] theorem State.updFunc_pwrNow (s : State) (i : Nat) (f : Func → Func) : (s.updFunc i f).pwrNow = s.pwrNow := rfl
@[simp] theorem State.updFunc_capCnt (s : State) (i : Nat) (f : Func → Func) : (s.updFunc i f).capCnt = s.capCnt := rfl
@[simp] theorem State.updFunc_floorMs (s : State) (i : Nat) (f : Func → Func) : (s.updFunc i f).floorMs = s.floorMs := rfl
@[simp] theorem State.updFunc_floorTold (s : State) (i : Nat) (f : Func → Func) : (s.updFunc i f).floorTold = s.floorTold := rfl
@[simp] theorem State.updFunc_corrected (s : State) (i : Nat) (f : Func → Func) : (s.updFunc i f).corrected = s.corrected := rfl
@[simp] theorem State.updFunc_bar (s : State) (i : Nat) (f : Func → Func) : (s.updFunc i f).bar = s.bar := rfl
@[simp] theorem State.updFunc_fatal (s : State) (i : Nat) (f : Func → Func) : (s.updFunc i f).fatal = s.fatal := rfl
@[simp] theorem State.updFunc_hostData (s : State) (i : Nat) (f : Func → Func) : (s.updFunc i f).hostData = s.hostData := rfl
@[simp] theorem State.updFunc_scans (s : State) (i : Nat) (f : Func → Func) : (s.updFunc i f).scans = s.scans := rfl
@[simp] theorem State.updFunc_hostHeld (s : State) (i : Nat) (f : Func → Func) : (s.updFunc i f).hostHeld = s.hostHeld := rfl
@[simp] theorem State.updFunc_switched (s : State) (i : Nat) (f : Func → Func) : (s.updFunc i f).switched = s.switched := rfl

@[simp] theorem State.updIsland_agenda (s : State) (i : Nat) (f : Island → Island) : (s.updIsland i f).agenda = s.agenda := rfl
@[simp] theorem State.updIsland_cur (s : State) (i : Nat) (f : Island → Island) : (s.updIsland i f).cur = s.cur := rfl
@[simp] theorem State.updIsland_waited (s : State) (i : Nat) (f : Island → Island) : (s.updIsland i f).waited = s.waited := rfl
@[simp] theorem State.updIsland_freeCtr (s : State) (i : Nat) (f : Island → Island) : (s.updIsland i f).freeCtr = s.freeCtr := rfl
@[simp] theorem State.updIsland_moves (s : State) (i : Nat) (f : Island → Island) : (s.updIsland i f).moves = s.moves := rfl
@[simp] theorem State.updIsland_choices (s : State) (i : Nat) (f : Island → Island) : (s.updIsland i f).choices = s.choices := rfl
@[simp] theorem State.updIsland_nextId (s : State) (i : Nat) (f : Island → Island) : (s.updIsland i f).nextId = s.nextId := rfl
@[simp] theorem State.updIsland_cores (s : State) (i : Nat) (f : Island → Island) : (s.updIsland i f).cores = s.cores := rfl
@[simp] theorem State.updIsland_clusters (s : State) (i : Nat) (f : Island → Island) : (s.updIsland i f).clusters = s.clusters := rfl
@[simp] theorem State.updIsland_owners (s : State) (i : Nat) (f : Island → Island) : (s.updIsland i f).owners = s.owners := rfl
@[simp] theorem State.updIsland_funcs (s : State) (i : Nat) (f : Island → Island) : (s.updIsland i f).funcs = s.funcs := rfl
@[simp] theorem State.updIsland_memB (s : State) (i : Nat) (f : Island → Island) : (s.updIsland i f).memB = s.memB := rfl
@[simp] theorem State.updIsland_unitKey (s : State) (i : Nat) (f : Island → Island) : (s.updIsland i f).unitKey = s.unitKey := rfl
@[simp] theorem State.updIsland_poisonB (s : State) (i : Nat) (f : Island → Island) : (s.updIsland i f).poisonB = s.poisonB := rfl
@[simp] theorem State.updIsland_latent (s : State) (i : Nat) (f : Island → Island) : (s.updIsland i f).latent = s.latent := rfl
@[simp] theorem State.updIsland_memC (s : State) (i : Nat) (f : Island → Island) : (s.updIsland i f).memC = s.memC := rfl
@[simp] theorem State.updIsland_coherence (s : State) (i : Nat) (f : Island → Island) : (s.updIsland i f).coherence = s.coherence := rfl
@[simp] theorem State.updIsland_arrivals (s : State) (i : Nat) (f : Island → Island) : (s.updIsland i f).arrivals = s.arrivals := rfl
@[simp] theorem State.updIsland_breaks (s : State) (i : Nat) (f : Island → Island) : (s.updIsland i f).breaks = s.breaks := rfl
@[simp] theorem State.updIsland_copies (s : State) (i : Nat) (f : Island → Island) : (s.updIsland i f).copies = s.copies := rfl
@[simp] theorem State.updIsland_fills (s : State) (i : Nat) (f : Island → Island) : (s.updIsland i f).fills = s.fills := rfl
@[simp] theorem State.updIsland_merges (s : State) (i : Nat) (f : Island → Island) : (s.updIsland i f).merges = s.merges := rfl
@[simp] theorem State.updIsland_points (s : State) (i : Nat) (f : Island → Island) : (s.updIsland i f).points = s.points := rfl
@[simp] theorem State.updIsland_traffic (s : State) (i : Nat) (f : Island → Island) : (s.updIsland i f).traffic = s.traffic := rfl
@[simp] theorem State.updIsland_rows (s : State) (i : Nat) (f : Island → Island) : (s.updIsland i f).rows = s.rows := rfl
@[simp] theorem State.updIsland_devMsgs (s : State) (i : Nat) (f : Island → Island) : (s.updIsland i f).devMsgs = s.devMsgs := rfl
@[simp] theorem State.updIsland_saved (s : State) (i : Nat) (f : Island → Island) : (s.updIsland i f).saved = s.saved := rfl
@[simp] theorem State.updIsland_lateLoads (s : State) (i : Nat) (f : Island → Island) : (s.updIsland i f).lateLoads = s.lateLoads := rfl
@[simp] theorem State.updIsland_errs (s : State) (i : Nat) (f : Island → Island) : (s.updIsland i f).errs = s.errs := rfl
@[simp] theorem State.updIsland_eseq (s : State) (i : Nat) (f : Island → Island) : (s.updIsland i f).eseq = s.eseq := rfl
@[simp] theorem State.updIsland_vdtBase (s : State) (i : Nat) (f : Island → Island) : (s.updIsland i f).vdtBase = s.vdtBase := rfl
@[simp] theorem State.updIsland_owtBase (s : State) (i : Nat) (f : Island → Island) : (s.updIsland i f).owtBase = s.owtBase := rfl
@[simp] theorem State.updIsland_schBase (s : State) (i : Nat) (f : Island → Island) : (s.updIsland i f).schBase = s.schBase := rfl
@[simp] theorem State.updIsland_commitErr (s : State) (i : Nat) (f : Island → Island) : (s.updIsland i f).commitErr = s.commitErr := rfl
@[simp] theorem State.updIsland_schedEn (s : State) (i : Nat) (f : Island → Island) : (s.updIsland i f).schedEn = s.schedEn := rfl
@[simp] theorem State.updIsland_schedErr (s : State) (i : Nat) (f : Island → Island) : (s.updIsland i f).schedErr = s.schedErr := rfl
@[simp] theorem State.updIsland_nrm1 (s : State) (i : Nat) (f : Island → Island) : (s.updIsland i f).nrm1 = s.nrm1 := rfl
@[simp] theorem State.updIsland_rounds (s : State) (i : Nat) (f : Island → Island) : (s.updIsland i f).rounds = s.rounds := rfl
@[simp] theorem State.updIsland_stopPending (s : State) (i : Nat) (f : Island → Island) : (s.updIsland i f).stopPending = s.stopPending := rfl
@[simp] theorem State.updIsland_stopRound (s : State) (i : Nat) (f : Island → Island) : (s.updIsland i f).stopRound = s.stopRound := rfl
@[simp] theorem State.updIsland_boot (s : State) (i : Nat) (f : Island → Island) : (s.updIsland i f).boot = s.boot := rfl
@[simp] theorem State.updIsland_pwrLim (s : State) (i : Nat) (f : Island → Island) : (s.updIsland i f).pwrLim = s.pwrLim := rfl
@[simp] theorem State.updIsland_pwrNow (s : State) (i : Nat) (f : Island → Island) : (s.updIsland i f).pwrNow = s.pwrNow := rfl
@[simp] theorem State.updIsland_capCnt (s : State) (i : Nat) (f : Island → Island) : (s.updIsland i f).capCnt = s.capCnt := rfl
@[simp] theorem State.updIsland_floorMs (s : State) (i : Nat) (f : Island → Island) : (s.updIsland i f).floorMs = s.floorMs := rfl
@[simp] theorem State.updIsland_floorTold (s : State) (i : Nat) (f : Island → Island) : (s.updIsland i f).floorTold = s.floorTold := rfl
@[simp] theorem State.updIsland_corrected (s : State) (i : Nat) (f : Island → Island) : (s.updIsland i f).corrected = s.corrected := rfl
@[simp] theorem State.updIsland_bar (s : State) (i : Nat) (f : Island → Island) : (s.updIsland i f).bar = s.bar := rfl
@[simp] theorem State.updIsland_fatal (s : State) (i : Nat) (f : Island → Island) : (s.updIsland i f).fatal = s.fatal := rfl
@[simp] theorem State.updIsland_hostData (s : State) (i : Nat) (f : Island → Island) : (s.updIsland i f).hostData = s.hostData := rfl
@[simp] theorem State.updIsland_scans (s : State) (i : Nat) (f : Island → Island) : (s.updIsland i f).scans = s.scans := rfl
@[simp] theorem State.updIsland_hostHeld (s : State) (i : Nat) (f : Island → Island) : (s.updIsland i f).hostHeld = s.hostHeld := rfl
@[simp] theorem State.updIsland_switched (s : State) (i : Nat) (f : Island → Island) : (s.updIsland i f).switched = s.switched := rfl

/-! ### Units read back -/

@[simp] theorem State.setCore_cluster (s : State) (n : Nat) (c : Core) (m : Nat) : (s.setCore n c).cluster m = s.cluster m := rfl
@[simp] theorem State.setCore_owner (s : State) (n : Nat) (c : Core) (m : Nat) : (s.setCore n c).owner m = s.owner m := rfl
@[simp] theorem State.setCore_func (s : State) (n : Nat) (c : Core) (m : Nat) : (s.setCore n c).func m = s.func m := rfl
@[simp] theorem State.setCore_island (s : State) (n : Nat) (c : Core) (m : Nat) : (s.setCore n c).island m = s.island m := rfl
@[simp] theorem State.updCore_cluster (s : State) (n : Nat) (f : Core → Core) (m : Nat) : (s.updCore n f).cluster m = s.cluster m := rfl
@[simp] theorem State.updCore_owner (s : State) (n : Nat) (f : Core → Core) (m : Nat) : (s.updCore n f).owner m = s.owner m := rfl
@[simp] theorem State.updCore_func (s : State) (n : Nat) (f : Core → Core) (m : Nat) : (s.updCore n f).func m = s.func m := rfl
@[simp] theorem State.updCore_island (s : State) (n : Nat) (f : Core → Core) (m : Nat) : (s.updCore n f).island m = s.island m := rfl
@[simp] theorem State.setCluster_core (s : State) (g : Nat) (c : Cluster) (m : Nat) : (s.setCluster g c).core m = s.core m := rfl
@[simp] theorem State.setCluster_owner (s : State) (g : Nat) (c : Cluster) (m : Nat) : (s.setCluster g c).owner m = s.owner m := rfl
@[simp] theorem State.setCluster_func (s : State) (g : Nat) (c : Cluster) (m : Nat) : (s.setCluster g c).func m = s.func m := rfl
@[simp] theorem State.setCluster_island (s : State) (g : Nat) (c : Cluster) (m : Nat) : (s.setCluster g c).island m = s.island m := rfl
@[simp] theorem State.updCluster_core (s : State) (g : Nat) (f : Cluster → Cluster) (m : Nat) : (s.updCluster g f).core m = s.core m := rfl
@[simp] theorem State.updCluster_owner (s : State) (g : Nat) (f : Cluster → Cluster) (m : Nat) : (s.updCluster g f).owner m = s.owner m := rfl
@[simp] theorem State.updCluster_func (s : State) (g : Nat) (f : Cluster → Cluster) (m : Nat) : (s.updCluster g f).func m = s.func m := rfl
@[simp] theorem State.updCluster_island (s : State) (g : Nat) (f : Cluster → Cluster) (m : Nat) : (s.updCluster g f).island m = s.island m := rfl
@[simp] theorem State.updOwner_core (s : State) (o : Nat) (f : Owner → Owner) (m : Nat) : (s.updOwner o f).core m = s.core m := rfl
@[simp] theorem State.updOwner_cluster (s : State) (o : Nat) (f : Owner → Owner) (m : Nat) : (s.updOwner o f).cluster m = s.cluster m := rfl
@[simp] theorem State.updOwner_func (s : State) (o : Nat) (f : Owner → Owner) (m : Nat) : (s.updOwner o f).func m = s.func m := rfl
@[simp] theorem State.updOwner_island (s : State) (o : Nat) (f : Owner → Owner) (m : Nat) : (s.updOwner o f).island m = s.island m := rfl
@[simp] theorem State.updFunc_core (s : State) (i : Nat) (f : Func → Func) (m : Nat) : (s.updFunc i f).core m = s.core m := rfl
@[simp] theorem State.updFunc_cluster (s : State) (i : Nat) (f : Func → Func) (m : Nat) : (s.updFunc i f).cluster m = s.cluster m := rfl
@[simp] theorem State.updFunc_owner (s : State) (i : Nat) (f : Func → Func) (m : Nat) : (s.updFunc i f).owner m = s.owner m := rfl
@[simp] theorem State.updFunc_island (s : State) (i : Nat) (f : Func → Func) (m : Nat) : (s.updFunc i f).island m = s.island m := rfl
@[simp] theorem State.updIsland_core (s : State) (i : Nat) (f : Island → Island) (m : Nat) : (s.updIsland i f).core m = s.core m := rfl
@[simp] theorem State.updIsland_cluster (s : State) (i : Nat) (f : Island → Island) (m : Nat) : (s.updIsland i f).cluster m = s.cluster m := rfl
@[simp] theorem State.updIsland_owner (s : State) (i : Nat) (f : Island → Island) (m : Nat) : (s.updIsland i f).owner m = s.owner m := rfl
@[simp] theorem State.updIsland_func (s : State) (i : Nat) (f : Island → Island) (m : Nat) : (s.updIsland i f).func m = s.func m := rfl

@[simp] theorem State.core_setCore_same (s : State) (n : Nat) (c : Core) : (s.setCore n c).core n = c := by
  simp [State.core, State.setCore]
theorem State.core_setCore_ne (s : State) {n m : Nat} (h : m ≠ n) (c : Core) : (s.setCore n c).core m = s.core m := by
  simp [State.core, State.setCore, Store.get_put_ne _ h]
@[simp] theorem State.core_updCore_same (s : State) (n : Nat) (f : Core → Core) : (s.updCore n f).core n = f (s.core n) := by
  simp [State.updCore]
theorem State.core_updCore_ne (s : State) {n m : Nat} (h : m ≠ n) (f : Core → Core) :
    (s.updCore n f).core m = s.core m := State.core_setCore_ne s h _
@[simp] theorem State.cluster_setCluster_same (s : State) (g : Nat) (c : Cluster) : (s.setCluster g c).cluster g = c := by
  simp [State.cluster, State.setCluster]
theorem State.cluster_setCluster_ne (s : State) {g h : Nat} (e : h ≠ g) (c : Cluster) :
    (s.setCluster g c).cluster h = s.cluster h := by
  simp [State.cluster, State.setCluster, Store.get_put_ne _ e]
@[simp] theorem State.cluster_updCluster_same (s : State) (g : Nat) (f : Cluster → Cluster) :
    (s.updCluster g f).cluster g = f (s.cluster g) := by simp [State.updCluster]
theorem State.cluster_updCluster_ne (s : State) {g h : Nat} (e : h ≠ g) (f : Cluster → Cluster) :
    (s.updCluster g f).cluster h = s.cluster h := State.cluster_setCluster_ne s e _
@[simp] theorem State.owner_updOwner_same (s : State) (o : Nat) (f : Owner → Owner) :
    (s.updOwner o f).owner o = f (s.owner o) := by simp [State.owner, State.updOwner]
theorem State.owner_updOwner_ne (s : State) {o p : Nat} (h : p ≠ o) (f : Owner → Owner) :
    (s.updOwner o f).owner p = s.owner p := by simp [State.owner, State.updOwner, Store.get_put_ne _ h]
@[simp] theorem State.func_updFunc_same (s : State) (i : Nat) (f : Func → Func) :
    (s.updFunc i f).func i = f (s.func i) := by simp [State.func, State.updFunc]
theorem State.func_updFunc_ne (s : State) {i j : Nat} (h : j ≠ i) (f : Func → Func) :
    (s.updFunc i f).func j = s.func j := by simp [State.func, State.updFunc, Store.get_put_ne _ h]
@[simp] theorem State.island_updIsland_same (s : State) (i : Nat) (f : Island → Island) :
    (s.updIsland i f).island i = f (s.island i) := by simp [State.island, State.updIsland]
theorem State.island_updIsland_ne (s : State) {i j : Nat} (h : j ≠ i) (f : Island → Island) :
    (s.updIsland i f).island j = s.island j := by simp [State.island, State.updIsland, Store.get_put_ne _ h]

/-! ### Updates of one register of a core -/

@[simp] theorem Core.setP_sregs (c : Core) (r : Nat) (v : Pred) : (c.setP r v).sregs = c.sregs := rfl
@[simp] theorem Core.setP_vregs (c : Core) (r : Nat) (v : Pred) : (c.setP r v).vregs = c.vregs := rfl
@[simp] theorem Core.setP_fregs (c : Core) (r : Nat) (v : Pred) : (c.setP r v).fregs = c.fregs := rfl
@[simp] theorem Core.setP_supBank (c : Core) (r : Nat) (v : Pred) : (c.setP r v).supBank = c.supBank := rfl
@[simp] theorem Core.setP_pc (c : Core) (r : Nat) (v : Pred) : (c.setP r v).pc = c.pc := rfl
@[simp] theorem Core.setP_hints (c : Core) (r : Nat) (v : Pred) : (c.setP r v).hints = c.hints := rfl
@[simp] theorem Core.setP_chainPc (c : Core) (r : Nat) (v : Pred) : (c.setP r v).chainPc = c.chainPc := rfl
@[simp] theorem Core.setP_ir (c : Core) (r : Nat) (v : Pred) : (c.setP r v).ir = c.ir := rfl
@[simp] theorem Core.setP_begun (c : Core) (r : Nat) (v : Pred) : (c.setP r v).begun = c.begun := rfl
@[simp] theorem Core.setP_ctx (c : Core) (r : Nat) (v : Pred) : (c.setP r v).ctx = c.ctx := rfl
@[simp] theorem Core.setP_handler (c : Core) (r : Nat) (v : Pred) : (c.setP r v).handler = c.handler := rfl
@[simp] theorem Core.setP_sup (c : Core) (r : Nat) (v : Pred) : (c.setP r v).sup = c.sup := rfl
@[simp] theorem Core.setP_supCount (c : Core) (r : Nat) (v : Pred) : (c.setP r v).supCount = c.supCount := rfl
@[simp] theorem Core.setP_supCause (c : Core) (r : Nat) (v : Pred) : (c.setP r v).supCause = c.supCause := rfl
@[simp] theorem Core.setP_work (c : Core) (r : Nat) (v : Pred) : (c.setP r v).work = c.work := rfl
@[simp] theorem Core.setP_lanes (c : Core) (r : Nat) (v : Pred) : (c.setP r v).lanes = c.lanes := rfl
@[simp] theorem Core.setP_demand (c : Core) (r : Nat) (v : Pred) : (c.setP r v).demand = c.demand := rfl
@[simp] theorem Core.setP_depthCur (c : Core) (r : Nat) (v : Pred) : (c.setP r v).depthCur = c.depthCur := rfl
@[simp] theorem Core.setP_depthLimit (c : Core) (r : Nat) (v : Pred) : (c.setP r v).depthLimit = c.depthLimit := rfl
@[simp] theorem Core.setP_watchdog (c : Core) (r : Nat) (v : Pred) : (c.setP r v).watchdog = c.watchdog := rfl
@[simp] theorem Core.setP_hangExp (c : Core) (r : Nat) (v : Pred) : (c.setP r v).hangExp = c.hangExp := rfl
@[simp] theorem Core.setP_round (c : Core) (r : Nat) (v : Pred) : (c.setP r v).round = c.round := rfl
@[simp] theorem Core.setP_userIndex (c : Core) (r : Nat) (v : Pred) : (c.setP r v).userIndex = c.userIndex := rfl
@[simp] theorem Core.setP_trapCause (c : Core) (r : Nat) (v : Pred) : (c.setP r v).trapCause = c.trapCause := rfl
@[simp] theorem Core.setP_trapInfo (c : Core) (r : Nat) (v : Pred) : (c.setP r v).trapInfo = c.trapInfo := rfl
@[simp] theorem Core.setP_trapPc (c : Core) (r : Nat) (v : Pred) : (c.setP r v).trapPc = c.trapPc := rfl
@[simp] theorem Core.setP_faultHandler (c : Core) (r : Nat) (v : Pred) : (c.setP r v).faultHandler = c.faultHandler := rfl
@[simp] theorem Core.setP_faultCore (c : Core) (r : Nat) (v : Pred) : (c.setP r v).faultCore = c.faultCore := rfl
@[simp] theorem Core.setP_hold (c : Core) (r : Nat) (v : Pred) : (c.setP r v).hold = c.hold := rfl
@[simp] theorem Core.setP_rangeAt (c : Core) (r : Nat) (v : Pred) : (c.setP r v).rangeAt = c.rangeAt := rfl
@[simp] theorem Core.setP_pending (c : Core) (r : Nat) (v : Pred) : (c.setP r v).pending = c.pending := rfl
@[simp] theorem Core.setP_pushRec (c : Core) (r : Nat) (v : Pred) : (c.setP r v).pushRec = c.pushRec := rfl
@[simp] theorem Core.setP_jwaitAt (c : Core) (r : Nat) (v : Pred) : (c.setP r v).jwaitAt = c.jwaitAt := rfl
@[simp] theorem Core.setP_calm (c : Core) (r : Nat) (v : Pred) : (c.setP r v).calm = c.calm := rfl
@[simp] theorem Core.setP_gate (c : Core) (r : Nat) (v : Pred) : (c.setP r v).gate = c.gate := rfl
@[simp] theorem Core.setP_pend (c : Core) (r : Nat) (v : Pred) : (c.setP r v).pend = c.pend := rfl
@[simp] theorem Core.setP_gathers (c : Core) (r : Nat) (v : Pred) : (c.setP r v).gathers = c.gathers := rfl
@[simp] theorem Core.setP_plate (c : Core) (r : Nat) (v : Pred) : (c.setP r v).plate = c.plate := rfl
@[simp] theorem Core.setP_full (c : Core) (r : Nat) (v : Pred) : (c.setP r v).full = c.full := rfl
@[simp] theorem Core.setP_rings (c : Core) (r : Nat) (v : Pred) : (c.setP r v).rings = c.rings := rfl
@[simp] theorem Core.setP_ages (c : Core) (r : Nat) (v : Pred) : (c.setP r v).ages = c.ages := rfl
@[simp] theorem Core.setP_inboxAge (c : Core) (r : Nat) (v : Pred) : (c.setP r v).inboxAge = c.inboxAge := rfl
@[simp] theorem Core.setP_lastTaken (c : Core) (r : Nat) (v : Pred) : (c.setP r v).lastTaken = c.lastTaken := rfl
@[simp] theorem Core.setP_reserved (c : Core) (r : Nat) (v : Pred) : (c.setP r v).reserved = c.reserved := rfl
@[simp] theorem Core.setP_faultBox (c : Core) (r : Nat) (v : Pred) : (c.setP r v).faultBox = c.faultBox := rfl
@[simp] theorem Core.setP_poisonReplies (c : Core) (r : Nat) (v : Pred) : (c.setP r v).poisonReplies = c.poisonReplies := rfl
@[simp] theorem Core.setP_tiles (c : Core) (r : Nat) (v : Pred) : (c.setP r v).tiles = c.tiles := rfl
@[simp] theorem Core.setP_parked (c : Core) (r : Nat) (v : Pred) : (c.setP r v).parked = c.parked := rfl
@[simp] theorem Core.setP_readyWait (c : Core) (r : Nat) (v : Pred) : (c.setP r v).readyWait = c.readyWait := rfl
@[simp] theorem Core.setP_portWait (c : Core) (r : Nat) (v : Pred) : (c.setP r v).portWait = c.portWait := rfl
@[simp] theorem Core.setP_agents (c : Core) (r : Nat) (v : Pred) : (c.setP r v).agents = c.agents := rfl
@[simp] theorem Core.setP_spoilt (c : Core) (r : Nat) (v : Pred) : (c.setP r v).spoilt = c.spoilt := rfl
@[simp] theorem Core.setP_flights (c : Core) (r : Nat) (v : Pred) : (c.setP r v).flights = c.flights := rfl
@[simp] theorem Core.setP_transfer (c : Core) (r : Nat) (v : Pred) : (c.setP r v).transfer = c.transfer := rfl
@[simp] theorem Core.setP_commits (c : Core) (r : Nat) (v : Pred) : (c.setP r v).commits = c.commits := rfl
@[simp] theorem Core.setP_failing (c : Core) (r : Nat) (v : Pred) : (c.setP r v).failing = c.failing := rfl
@[simp] theorem Core.setP_hseqWas (c : Core) (r : Nat) (v : Pred) : (c.setP r v).hseqWas = c.hseqWas := rfl
@[simp] theorem Core.setP_icache (c : Core) (r : Nat) (v : Pred) : (c.setP r v).icache = c.icache := rfl
@[simp] theorem Core.setP_ahead (c : Core) (r : Nat) (v : Pred) : (c.setP r v).ahead = c.ahead := rfl
@[simp] theorem Core.setP_tlb (c : Core) (r : Nat) (v : Pred) : (c.setP r v).tlb = c.tlb := rfl
@[simp] theorem Core.setP_stopped (c : Core) (r : Nat) (v : Pred) : (c.setP r v).stopped = c.stopped := rfl
@[simp] theorem Core.setP_blk (c : Core) (r : Nat) (v : Pred) : (c.setP r v).blk = c.blk := rfl
@[simp] theorem Core.setP_rpc (c : Core) (r : Nat) (v : Pred) : (c.setP r v).rpc = c.rpc := rfl
@[simp] theorem Core.setP_wdc (c : Core) (r : Nat) (v : Pred) : (c.setP r v).wdc = c.wdc := rfl

@[simp] theorem Core.setV_sregs (c : Core) (d i : Nat) (x : Word) : (c.setV d i x).sregs = c.sregs := rfl
@[simp] theorem Core.setV_pregs (c : Core) (d i : Nat) (x : Word) : (c.setV d i x).pregs = c.pregs := rfl
@[simp] theorem Core.setV_fregs (c : Core) (d i : Nat) (x : Word) : (c.setV d i x).fregs = c.fregs := rfl
@[simp] theorem Core.setV_supBank (c : Core) (d i : Nat) (x : Word) : (c.setV d i x).supBank = c.supBank := rfl
@[simp] theorem Core.setV_pc (c : Core) (d i : Nat) (x : Word) : (c.setV d i x).pc = c.pc := rfl
@[simp] theorem Core.setV_hints (c : Core) (d i : Nat) (x : Word) : (c.setV d i x).hints = c.hints := rfl
@[simp] theorem Core.setV_chainPc (c : Core) (d i : Nat) (x : Word) : (c.setV d i x).chainPc = c.chainPc := rfl
@[simp] theorem Core.setV_ir (c : Core) (d i : Nat) (x : Word) : (c.setV d i x).ir = c.ir := rfl
@[simp] theorem Core.setV_begun (c : Core) (d i : Nat) (x : Word) : (c.setV d i x).begun = c.begun := rfl
@[simp] theorem Core.setV_ctx (c : Core) (d i : Nat) (x : Word) : (c.setV d i x).ctx = c.ctx := rfl
@[simp] theorem Core.setV_handler (c : Core) (d i : Nat) (x : Word) : (c.setV d i x).handler = c.handler := rfl
@[simp] theorem Core.setV_sup (c : Core) (d i : Nat) (x : Word) : (c.setV d i x).sup = c.sup := rfl
@[simp] theorem Core.setV_supCount (c : Core) (d i : Nat) (x : Word) : (c.setV d i x).supCount = c.supCount := rfl
@[simp] theorem Core.setV_supCause (c : Core) (d i : Nat) (x : Word) : (c.setV d i x).supCause = c.supCause := rfl
@[simp] theorem Core.setV_work (c : Core) (d i : Nat) (x : Word) : (c.setV d i x).work = c.work := rfl
@[simp] theorem Core.setV_lanes (c : Core) (d i : Nat) (x : Word) : (c.setV d i x).lanes = c.lanes := rfl
@[simp] theorem Core.setV_demand (c : Core) (d i : Nat) (x : Word) : (c.setV d i x).demand = c.demand := rfl
@[simp] theorem Core.setV_depthCur (c : Core) (d i : Nat) (x : Word) : (c.setV d i x).depthCur = c.depthCur := rfl
@[simp] theorem Core.setV_depthLimit (c : Core) (d i : Nat) (x : Word) : (c.setV d i x).depthLimit = c.depthLimit := rfl
@[simp] theorem Core.setV_watchdog (c : Core) (d i : Nat) (x : Word) : (c.setV d i x).watchdog = c.watchdog := rfl
@[simp] theorem Core.setV_hangExp (c : Core) (d i : Nat) (x : Word) : (c.setV d i x).hangExp = c.hangExp := rfl
@[simp] theorem Core.setV_round (c : Core) (d i : Nat) (x : Word) : (c.setV d i x).round = c.round := rfl
@[simp] theorem Core.setV_userIndex (c : Core) (d i : Nat) (x : Word) : (c.setV d i x).userIndex = c.userIndex := rfl
@[simp] theorem Core.setV_trapCause (c : Core) (d i : Nat) (x : Word) : (c.setV d i x).trapCause = c.trapCause := rfl
@[simp] theorem Core.setV_trapInfo (c : Core) (d i : Nat) (x : Word) : (c.setV d i x).trapInfo = c.trapInfo := rfl
@[simp] theorem Core.setV_trapPc (c : Core) (d i : Nat) (x : Word) : (c.setV d i x).trapPc = c.trapPc := rfl
@[simp] theorem Core.setV_faultHandler (c : Core) (d i : Nat) (x : Word) : (c.setV d i x).faultHandler = c.faultHandler := rfl
@[simp] theorem Core.setV_faultCore (c : Core) (d i : Nat) (x : Word) : (c.setV d i x).faultCore = c.faultCore := rfl
@[simp] theorem Core.setV_hold (c : Core) (d i : Nat) (x : Word) : (c.setV d i x).hold = c.hold := rfl
@[simp] theorem Core.setV_rangeAt (c : Core) (d i : Nat) (x : Word) : (c.setV d i x).rangeAt = c.rangeAt := rfl
@[simp] theorem Core.setV_pending (c : Core) (d i : Nat) (x : Word) : (c.setV d i x).pending = c.pending := rfl
@[simp] theorem Core.setV_pushRec (c : Core) (d i : Nat) (x : Word) : (c.setV d i x).pushRec = c.pushRec := rfl
@[simp] theorem Core.setV_jwaitAt (c : Core) (d i : Nat) (x : Word) : (c.setV d i x).jwaitAt = c.jwaitAt := rfl
@[simp] theorem Core.setV_calm (c : Core) (d i : Nat) (x : Word) : (c.setV d i x).calm = c.calm := rfl
@[simp] theorem Core.setV_gate (c : Core) (d i : Nat) (x : Word) : (c.setV d i x).gate = c.gate := rfl
@[simp] theorem Core.setV_pend (c : Core) (d i : Nat) (x : Word) : (c.setV d i x).pend = c.pend := rfl
@[simp] theorem Core.setV_gathers (c : Core) (d i : Nat) (x : Word) : (c.setV d i x).gathers = c.gathers := rfl
@[simp] theorem Core.setV_plate (c : Core) (d i : Nat) (x : Word) : (c.setV d i x).plate = c.plate := rfl
@[simp] theorem Core.setV_full (c : Core) (d i : Nat) (x : Word) : (c.setV d i x).full = c.full := rfl
@[simp] theorem Core.setV_rings (c : Core) (d i : Nat) (x : Word) : (c.setV d i x).rings = c.rings := rfl
@[simp] theorem Core.setV_ages (c : Core) (d i : Nat) (x : Word) : (c.setV d i x).ages = c.ages := rfl
@[simp] theorem Core.setV_inboxAge (c : Core) (d i : Nat) (x : Word) : (c.setV d i x).inboxAge = c.inboxAge := rfl
@[simp] theorem Core.setV_lastTaken (c : Core) (d i : Nat) (x : Word) : (c.setV d i x).lastTaken = c.lastTaken := rfl
@[simp] theorem Core.setV_reserved (c : Core) (d i : Nat) (x : Word) : (c.setV d i x).reserved = c.reserved := rfl
@[simp] theorem Core.setV_faultBox (c : Core) (d i : Nat) (x : Word) : (c.setV d i x).faultBox = c.faultBox := rfl
@[simp] theorem Core.setV_poisonReplies (c : Core) (d i : Nat) (x : Word) : (c.setV d i x).poisonReplies = c.poisonReplies := rfl
@[simp] theorem Core.setV_tiles (c : Core) (d i : Nat) (x : Word) : (c.setV d i x).tiles = c.tiles := rfl
@[simp] theorem Core.setV_parked (c : Core) (d i : Nat) (x : Word) : (c.setV d i x).parked = c.parked := rfl
@[simp] theorem Core.setV_readyWait (c : Core) (d i : Nat) (x : Word) : (c.setV d i x).readyWait = c.readyWait := rfl
@[simp] theorem Core.setV_portWait (c : Core) (d i : Nat) (x : Word) : (c.setV d i x).portWait = c.portWait := rfl
@[simp] theorem Core.setV_agents (c : Core) (d i : Nat) (x : Word) : (c.setV d i x).agents = c.agents := rfl
@[simp] theorem Core.setV_spoilt (c : Core) (d i : Nat) (x : Word) : (c.setV d i x).spoilt = c.spoilt := rfl
@[simp] theorem Core.setV_flights (c : Core) (d i : Nat) (x : Word) : (c.setV d i x).flights = c.flights := rfl
@[simp] theorem Core.setV_transfer (c : Core) (d i : Nat) (x : Word) : (c.setV d i x).transfer = c.transfer := rfl
@[simp] theorem Core.setV_commits (c : Core) (d i : Nat) (x : Word) : (c.setV d i x).commits = c.commits := rfl
@[simp] theorem Core.setV_failing (c : Core) (d i : Nat) (x : Word) : (c.setV d i x).failing = c.failing := rfl
@[simp] theorem Core.setV_hseqWas (c : Core) (d i : Nat) (x : Word) : (c.setV d i x).hseqWas = c.hseqWas := rfl
@[simp] theorem Core.setV_icache (c : Core) (d i : Nat) (x : Word) : (c.setV d i x).icache = c.icache := rfl
@[simp] theorem Core.setV_ahead (c : Core) (d i : Nat) (x : Word) : (c.setV d i x).ahead = c.ahead := rfl
@[simp] theorem Core.setV_tlb (c : Core) (d i : Nat) (x : Word) : (c.setV d i x).tlb = c.tlb := rfl
@[simp] theorem Core.setV_stopped (c : Core) (d i : Nat) (x : Word) : (c.setV d i x).stopped = c.stopped := rfl
@[simp] theorem Core.setV_blk (c : Core) (d i : Nat) (x : Word) : (c.setV d i x).blk = c.blk := rfl
@[simp] theorem Core.setV_rpc (c : Core) (d i : Nat) (x : Word) : (c.setV d i x).rpc = c.rpc := rfl
@[simp] theorem Core.setV_wdc (c : Core) (d i : Nat) (x : Word) : (c.setV d i x).wdc = c.wdc := rfl

@[simp] theorem Core.setRing_sregs (c : Core) (j : Nat) (r : Ring) : (c.setRing j r).sregs = c.sregs := rfl
@[simp] theorem Core.setRing_vregs (c : Core) (j : Nat) (r : Ring) : (c.setRing j r).vregs = c.vregs := rfl
@[simp] theorem Core.setRing_pregs (c : Core) (j : Nat) (r : Ring) : (c.setRing j r).pregs = c.pregs := rfl
@[simp] theorem Core.setRing_fregs (c : Core) (j : Nat) (r : Ring) : (c.setRing j r).fregs = c.fregs := rfl
@[simp] theorem Core.setRing_supBank (c : Core) (j : Nat) (r : Ring) : (c.setRing j r).supBank = c.supBank := rfl
@[simp] theorem Core.setRing_pc (c : Core) (j : Nat) (r : Ring) : (c.setRing j r).pc = c.pc := rfl
@[simp] theorem Core.setRing_hints (c : Core) (j : Nat) (r : Ring) : (c.setRing j r).hints = c.hints := rfl
@[simp] theorem Core.setRing_chainPc (c : Core) (j : Nat) (r : Ring) : (c.setRing j r).chainPc = c.chainPc := rfl
@[simp] theorem Core.setRing_ir (c : Core) (j : Nat) (r : Ring) : (c.setRing j r).ir = c.ir := rfl
@[simp] theorem Core.setRing_begun (c : Core) (j : Nat) (r : Ring) : (c.setRing j r).begun = c.begun := rfl
@[simp] theorem Core.setRing_ctx (c : Core) (j : Nat) (r : Ring) : (c.setRing j r).ctx = c.ctx := rfl
@[simp] theorem Core.setRing_handler (c : Core) (j : Nat) (r : Ring) : (c.setRing j r).handler = c.handler := rfl
@[simp] theorem Core.setRing_sup (c : Core) (j : Nat) (r : Ring) : (c.setRing j r).sup = c.sup := rfl
@[simp] theorem Core.setRing_supCount (c : Core) (j : Nat) (r : Ring) : (c.setRing j r).supCount = c.supCount := rfl
@[simp] theorem Core.setRing_supCause (c : Core) (j : Nat) (r : Ring) : (c.setRing j r).supCause = c.supCause := rfl
@[simp] theorem Core.setRing_work (c : Core) (j : Nat) (r : Ring) : (c.setRing j r).work = c.work := rfl
@[simp] theorem Core.setRing_lanes (c : Core) (j : Nat) (r : Ring) : (c.setRing j r).lanes = c.lanes := rfl
@[simp] theorem Core.setRing_demand (c : Core) (j : Nat) (r : Ring) : (c.setRing j r).demand = c.demand := rfl
@[simp] theorem Core.setRing_depthCur (c : Core) (j : Nat) (r : Ring) : (c.setRing j r).depthCur = c.depthCur := rfl
@[simp] theorem Core.setRing_depthLimit (c : Core) (j : Nat) (r : Ring) : (c.setRing j r).depthLimit = c.depthLimit := rfl
@[simp] theorem Core.setRing_watchdog (c : Core) (j : Nat) (r : Ring) : (c.setRing j r).watchdog = c.watchdog := rfl
@[simp] theorem Core.setRing_hangExp (c : Core) (j : Nat) (r : Ring) : (c.setRing j r).hangExp = c.hangExp := rfl
@[simp] theorem Core.setRing_round (c : Core) (j : Nat) (r : Ring) : (c.setRing j r).round = c.round := rfl
@[simp] theorem Core.setRing_userIndex (c : Core) (j : Nat) (r : Ring) : (c.setRing j r).userIndex = c.userIndex := rfl
@[simp] theorem Core.setRing_trapCause (c : Core) (j : Nat) (r : Ring) : (c.setRing j r).trapCause = c.trapCause := rfl
@[simp] theorem Core.setRing_trapInfo (c : Core) (j : Nat) (r : Ring) : (c.setRing j r).trapInfo = c.trapInfo := rfl
@[simp] theorem Core.setRing_trapPc (c : Core) (j : Nat) (r : Ring) : (c.setRing j r).trapPc = c.trapPc := rfl
@[simp] theorem Core.setRing_faultHandler (c : Core) (j : Nat) (r : Ring) : (c.setRing j r).faultHandler = c.faultHandler := rfl
@[simp] theorem Core.setRing_faultCore (c : Core) (j : Nat) (r : Ring) : (c.setRing j r).faultCore = c.faultCore := rfl
@[simp] theorem Core.setRing_hold (c : Core) (j : Nat) (r : Ring) : (c.setRing j r).hold = c.hold := rfl
@[simp] theorem Core.setRing_rangeAt (c : Core) (j : Nat) (r : Ring) : (c.setRing j r).rangeAt = c.rangeAt := rfl
@[simp] theorem Core.setRing_pending (c : Core) (j : Nat) (r : Ring) : (c.setRing j r).pending = c.pending := rfl
@[simp] theorem Core.setRing_pushRec (c : Core) (j : Nat) (r : Ring) : (c.setRing j r).pushRec = c.pushRec := rfl
@[simp] theorem Core.setRing_jwaitAt (c : Core) (j : Nat) (r : Ring) : (c.setRing j r).jwaitAt = c.jwaitAt := rfl
@[simp] theorem Core.setRing_calm (c : Core) (j : Nat) (r : Ring) : (c.setRing j r).calm = c.calm := rfl
@[simp] theorem Core.setRing_gate (c : Core) (j : Nat) (r : Ring) : (c.setRing j r).gate = c.gate := rfl
@[simp] theorem Core.setRing_pend (c : Core) (j : Nat) (r : Ring) : (c.setRing j r).pend = c.pend := rfl
@[simp] theorem Core.setRing_gathers (c : Core) (j : Nat) (r : Ring) : (c.setRing j r).gathers = c.gathers := rfl
@[simp] theorem Core.setRing_plate (c : Core) (j : Nat) (r : Ring) : (c.setRing j r).plate = c.plate := rfl
@[simp] theorem Core.setRing_full (c : Core) (j : Nat) (r : Ring) : (c.setRing j r).full = c.full := rfl
@[simp] theorem Core.setRing_ages (c : Core) (j : Nat) (r : Ring) : (c.setRing j r).ages = c.ages := rfl
@[simp] theorem Core.setRing_inboxAge (c : Core) (j : Nat) (r : Ring) : (c.setRing j r).inboxAge = c.inboxAge := rfl
@[simp] theorem Core.setRing_lastTaken (c : Core) (j : Nat) (r : Ring) : (c.setRing j r).lastTaken = c.lastTaken := rfl
@[simp] theorem Core.setRing_reserved (c : Core) (j : Nat) (r : Ring) : (c.setRing j r).reserved = c.reserved := rfl
@[simp] theorem Core.setRing_faultBox (c : Core) (j : Nat) (r : Ring) : (c.setRing j r).faultBox = c.faultBox := rfl
@[simp] theorem Core.setRing_poisonReplies (c : Core) (j : Nat) (r : Ring) : (c.setRing j r).poisonReplies = c.poisonReplies := rfl
@[simp] theorem Core.setRing_tiles (c : Core) (j : Nat) (r : Ring) : (c.setRing j r).tiles = c.tiles := rfl
@[simp] theorem Core.setRing_parked (c : Core) (j : Nat) (r : Ring) : (c.setRing j r).parked = c.parked := rfl
@[simp] theorem Core.setRing_readyWait (c : Core) (j : Nat) (r : Ring) : (c.setRing j r).readyWait = c.readyWait := rfl
@[simp] theorem Core.setRing_portWait (c : Core) (j : Nat) (r : Ring) : (c.setRing j r).portWait = c.portWait := rfl
@[simp] theorem Core.setRing_agents (c : Core) (j : Nat) (r : Ring) : (c.setRing j r).agents = c.agents := rfl
@[simp] theorem Core.setRing_spoilt (c : Core) (j : Nat) (r : Ring) : (c.setRing j r).spoilt = c.spoilt := rfl
@[simp] theorem Core.setRing_flights (c : Core) (j : Nat) (r : Ring) : (c.setRing j r).flights = c.flights := rfl
@[simp] theorem Core.setRing_transfer (c : Core) (j : Nat) (r : Ring) : (c.setRing j r).transfer = c.transfer := rfl
@[simp] theorem Core.setRing_commits (c : Core) (j : Nat) (r : Ring) : (c.setRing j r).commits = c.commits := rfl
@[simp] theorem Core.setRing_failing (c : Core) (j : Nat) (r : Ring) : (c.setRing j r).failing = c.failing := rfl
@[simp] theorem Core.setRing_hseqWas (c : Core) (j : Nat) (r : Ring) : (c.setRing j r).hseqWas = c.hseqWas := rfl
@[simp] theorem Core.setRing_icache (c : Core) (j : Nat) (r : Ring) : (c.setRing j r).icache = c.icache := rfl
@[simp] theorem Core.setRing_ahead (c : Core) (j : Nat) (r : Ring) : (c.setRing j r).ahead = c.ahead := rfl
@[simp] theorem Core.setRing_tlb (c : Core) (j : Nat) (r : Ring) : (c.setRing j r).tlb = c.tlb := rfl
@[simp] theorem Core.setRing_stopped (c : Core) (j : Nat) (r : Ring) : (c.setRing j r).stopped = c.stopped := rfl
@[simp] theorem Core.setRing_blk (c : Core) (j : Nat) (r : Ring) : (c.setRing j r).blk = c.blk := rfl
@[simp] theorem Core.setRing_rpc (c : Core) (j : Nat) (r : Ring) : (c.setRing j r).rpc = c.rpc := rfl
@[simp] theorem Core.setRing_wdc (c : Core) (j : Nat) (r : Ring) : (c.setRing j r).wdc = c.wdc := rfl

@[simp] theorem Core.setResv_sregs (c : Core) (j n : Nat) : (c.setResv j n).sregs = c.sregs := rfl
@[simp] theorem Core.setResv_vregs (c : Core) (j n : Nat) : (c.setResv j n).vregs = c.vregs := rfl
@[simp] theorem Core.setResv_pregs (c : Core) (j n : Nat) : (c.setResv j n).pregs = c.pregs := rfl
@[simp] theorem Core.setResv_fregs (c : Core) (j n : Nat) : (c.setResv j n).fregs = c.fregs := rfl
@[simp] theorem Core.setResv_supBank (c : Core) (j n : Nat) : (c.setResv j n).supBank = c.supBank := rfl
@[simp] theorem Core.setResv_pc (c : Core) (j n : Nat) : (c.setResv j n).pc = c.pc := rfl
@[simp] theorem Core.setResv_hints (c : Core) (j n : Nat) : (c.setResv j n).hints = c.hints := rfl
@[simp] theorem Core.setResv_chainPc (c : Core) (j n : Nat) : (c.setResv j n).chainPc = c.chainPc := rfl
@[simp] theorem Core.setResv_ir (c : Core) (j n : Nat) : (c.setResv j n).ir = c.ir := rfl
@[simp] theorem Core.setResv_begun (c : Core) (j n : Nat) : (c.setResv j n).begun = c.begun := rfl
@[simp] theorem Core.setResv_ctx (c : Core) (j n : Nat) : (c.setResv j n).ctx = c.ctx := rfl
@[simp] theorem Core.setResv_handler (c : Core) (j n : Nat) : (c.setResv j n).handler = c.handler := rfl
@[simp] theorem Core.setResv_sup (c : Core) (j n : Nat) : (c.setResv j n).sup = c.sup := rfl
@[simp] theorem Core.setResv_supCount (c : Core) (j n : Nat) : (c.setResv j n).supCount = c.supCount := rfl
@[simp] theorem Core.setResv_supCause (c : Core) (j n : Nat) : (c.setResv j n).supCause = c.supCause := rfl
@[simp] theorem Core.setResv_work (c : Core) (j n : Nat) : (c.setResv j n).work = c.work := rfl
@[simp] theorem Core.setResv_lanes (c : Core) (j n : Nat) : (c.setResv j n).lanes = c.lanes := rfl
@[simp] theorem Core.setResv_demand (c : Core) (j n : Nat) : (c.setResv j n).demand = c.demand := rfl
@[simp] theorem Core.setResv_depthCur (c : Core) (j n : Nat) : (c.setResv j n).depthCur = c.depthCur := rfl
@[simp] theorem Core.setResv_depthLimit (c : Core) (j n : Nat) : (c.setResv j n).depthLimit = c.depthLimit := rfl
@[simp] theorem Core.setResv_watchdog (c : Core) (j n : Nat) : (c.setResv j n).watchdog = c.watchdog := rfl
@[simp] theorem Core.setResv_hangExp (c : Core) (j n : Nat) : (c.setResv j n).hangExp = c.hangExp := rfl
@[simp] theorem Core.setResv_round (c : Core) (j n : Nat) : (c.setResv j n).round = c.round := rfl
@[simp] theorem Core.setResv_userIndex (c : Core) (j n : Nat) : (c.setResv j n).userIndex = c.userIndex := rfl
@[simp] theorem Core.setResv_trapCause (c : Core) (j n : Nat) : (c.setResv j n).trapCause = c.trapCause := rfl
@[simp] theorem Core.setResv_trapInfo (c : Core) (j n : Nat) : (c.setResv j n).trapInfo = c.trapInfo := rfl
@[simp] theorem Core.setResv_trapPc (c : Core) (j n : Nat) : (c.setResv j n).trapPc = c.trapPc := rfl
@[simp] theorem Core.setResv_faultHandler (c : Core) (j n : Nat) : (c.setResv j n).faultHandler = c.faultHandler := rfl
@[simp] theorem Core.setResv_faultCore (c : Core) (j n : Nat) : (c.setResv j n).faultCore = c.faultCore := rfl
@[simp] theorem Core.setResv_hold (c : Core) (j n : Nat) : (c.setResv j n).hold = c.hold := rfl
@[simp] theorem Core.setResv_rangeAt (c : Core) (j n : Nat) : (c.setResv j n).rangeAt = c.rangeAt := rfl
@[simp] theorem Core.setResv_pending (c : Core) (j n : Nat) : (c.setResv j n).pending = c.pending := rfl
@[simp] theorem Core.setResv_pushRec (c : Core) (j n : Nat) : (c.setResv j n).pushRec = c.pushRec := rfl
@[simp] theorem Core.setResv_jwaitAt (c : Core) (j n : Nat) : (c.setResv j n).jwaitAt = c.jwaitAt := rfl
@[simp] theorem Core.setResv_calm (c : Core) (j n : Nat) : (c.setResv j n).calm = c.calm := rfl
@[simp] theorem Core.setResv_gate (c : Core) (j n : Nat) : (c.setResv j n).gate = c.gate := rfl
@[simp] theorem Core.setResv_pend (c : Core) (j n : Nat) : (c.setResv j n).pend = c.pend := rfl
@[simp] theorem Core.setResv_gathers (c : Core) (j n : Nat) : (c.setResv j n).gathers = c.gathers := rfl
@[simp] theorem Core.setResv_plate (c : Core) (j n : Nat) : (c.setResv j n).plate = c.plate := rfl
@[simp] theorem Core.setResv_full (c : Core) (j n : Nat) : (c.setResv j n).full = c.full := rfl
@[simp] theorem Core.setResv_rings (c : Core) (j n : Nat) : (c.setResv j n).rings = c.rings := rfl
@[simp] theorem Core.setResv_ages (c : Core) (j n : Nat) : (c.setResv j n).ages = c.ages := rfl
@[simp] theorem Core.setResv_inboxAge (c : Core) (j n : Nat) : (c.setResv j n).inboxAge = c.inboxAge := rfl
@[simp] theorem Core.setResv_lastTaken (c : Core) (j n : Nat) : (c.setResv j n).lastTaken = c.lastTaken := rfl
@[simp] theorem Core.setResv_faultBox (c : Core) (j n : Nat) : (c.setResv j n).faultBox = c.faultBox := rfl
@[simp] theorem Core.setResv_poisonReplies (c : Core) (j n : Nat) : (c.setResv j n).poisonReplies = c.poisonReplies := rfl
@[simp] theorem Core.setResv_tiles (c : Core) (j n : Nat) : (c.setResv j n).tiles = c.tiles := rfl
@[simp] theorem Core.setResv_parked (c : Core) (j n : Nat) : (c.setResv j n).parked = c.parked := rfl
@[simp] theorem Core.setResv_readyWait (c : Core) (j n : Nat) : (c.setResv j n).readyWait = c.readyWait := rfl
@[simp] theorem Core.setResv_portWait (c : Core) (j n : Nat) : (c.setResv j n).portWait = c.portWait := rfl
@[simp] theorem Core.setResv_agents (c : Core) (j n : Nat) : (c.setResv j n).agents = c.agents := rfl
@[simp] theorem Core.setResv_spoilt (c : Core) (j n : Nat) : (c.setResv j n).spoilt = c.spoilt := rfl
@[simp] theorem Core.setResv_flights (c : Core) (j n : Nat) : (c.setResv j n).flights = c.flights := rfl
@[simp] theorem Core.setResv_transfer (c : Core) (j n : Nat) : (c.setResv j n).transfer = c.transfer := rfl
@[simp] theorem Core.setResv_commits (c : Core) (j n : Nat) : (c.setResv j n).commits = c.commits := rfl
@[simp] theorem Core.setResv_failing (c : Core) (j n : Nat) : (c.setResv j n).failing = c.failing := rfl
@[simp] theorem Core.setResv_hseqWas (c : Core) (j n : Nat) : (c.setResv j n).hseqWas = c.hseqWas := rfl
@[simp] theorem Core.setResv_icache (c : Core) (j n : Nat) : (c.setResv j n).icache = c.icache := rfl
@[simp] theorem Core.setResv_ahead (c : Core) (j n : Nat) : (c.setResv j n).ahead = c.ahead := rfl
@[simp] theorem Core.setResv_tlb (c : Core) (j n : Nat) : (c.setResv j n).tlb = c.tlb := rfl
@[simp] theorem Core.setResv_stopped (c : Core) (j n : Nat) : (c.setResv j n).stopped = c.stopped := rfl
@[simp] theorem Core.setResv_blk (c : Core) (j n : Nat) : (c.setResv j n).blk = c.blk := rfl
@[simp] theorem Core.setResv_rpc (c : Core) (j n : Nat) : (c.setResv j n).rpc = c.rpc := rfl
@[simp] theorem Core.setResv_wdc (c : Core) (j n : Nat) : (c.setResv j n).wdc = c.wdc := rfl

@[simp] theorem Core.setTile_sregs (c : Core) (t : Nat) (x : Tile) : (c.setTile t x).sregs = c.sregs := rfl
@[simp] theorem Core.setTile_vregs (c : Core) (t : Nat) (x : Tile) : (c.setTile t x).vregs = c.vregs := rfl
@[simp] theorem Core.setTile_pregs (c : Core) (t : Nat) (x : Tile) : (c.setTile t x).pregs = c.pregs := rfl
@[simp] theorem Core.setTile_fregs (c : Core) (t : Nat) (x : Tile) : (c.setTile t x).fregs = c.fregs := rfl
@[simp] theorem Core.setTile_supBank (c : Core) (t : Nat) (x : Tile) : (c.setTile t x).supBank = c.supBank := rfl
@[simp] theorem Core.setTile_pc (c : Core) (t : Nat) (x : Tile) : (c.setTile t x).pc = c.pc := rfl
@[simp] theorem Core.setTile_hints (c : Core) (t : Nat) (x : Tile) : (c.setTile t x).hints = c.hints := rfl
@[simp] theorem Core.setTile_chainPc (c : Core) (t : Nat) (x : Tile) : (c.setTile t x).chainPc = c.chainPc := rfl
@[simp] theorem Core.setTile_ir (c : Core) (t : Nat) (x : Tile) : (c.setTile t x).ir = c.ir := rfl
@[simp] theorem Core.setTile_begun (c : Core) (t : Nat) (x : Tile) : (c.setTile t x).begun = c.begun := rfl
@[simp] theorem Core.setTile_ctx (c : Core) (t : Nat) (x : Tile) : (c.setTile t x).ctx = c.ctx := rfl
@[simp] theorem Core.setTile_handler (c : Core) (t : Nat) (x : Tile) : (c.setTile t x).handler = c.handler := rfl
@[simp] theorem Core.setTile_sup (c : Core) (t : Nat) (x : Tile) : (c.setTile t x).sup = c.sup := rfl
@[simp] theorem Core.setTile_supCount (c : Core) (t : Nat) (x : Tile) : (c.setTile t x).supCount = c.supCount := rfl
@[simp] theorem Core.setTile_supCause (c : Core) (t : Nat) (x : Tile) : (c.setTile t x).supCause = c.supCause := rfl
@[simp] theorem Core.setTile_work (c : Core) (t : Nat) (x : Tile) : (c.setTile t x).work = c.work := rfl
@[simp] theorem Core.setTile_lanes (c : Core) (t : Nat) (x : Tile) : (c.setTile t x).lanes = c.lanes := rfl
@[simp] theorem Core.setTile_demand (c : Core) (t : Nat) (x : Tile) : (c.setTile t x).demand = c.demand := rfl
@[simp] theorem Core.setTile_depthCur (c : Core) (t : Nat) (x : Tile) : (c.setTile t x).depthCur = c.depthCur := rfl
@[simp] theorem Core.setTile_depthLimit (c : Core) (t : Nat) (x : Tile) : (c.setTile t x).depthLimit = c.depthLimit := rfl
@[simp] theorem Core.setTile_watchdog (c : Core) (t : Nat) (x : Tile) : (c.setTile t x).watchdog = c.watchdog := rfl
@[simp] theorem Core.setTile_hangExp (c : Core) (t : Nat) (x : Tile) : (c.setTile t x).hangExp = c.hangExp := rfl
@[simp] theorem Core.setTile_round (c : Core) (t : Nat) (x : Tile) : (c.setTile t x).round = c.round := rfl
@[simp] theorem Core.setTile_userIndex (c : Core) (t : Nat) (x : Tile) : (c.setTile t x).userIndex = c.userIndex := rfl
@[simp] theorem Core.setTile_trapCause (c : Core) (t : Nat) (x : Tile) : (c.setTile t x).trapCause = c.trapCause := rfl
@[simp] theorem Core.setTile_trapInfo (c : Core) (t : Nat) (x : Tile) : (c.setTile t x).trapInfo = c.trapInfo := rfl
@[simp] theorem Core.setTile_trapPc (c : Core) (t : Nat) (x : Tile) : (c.setTile t x).trapPc = c.trapPc := rfl
@[simp] theorem Core.setTile_faultHandler (c : Core) (t : Nat) (x : Tile) : (c.setTile t x).faultHandler = c.faultHandler := rfl
@[simp] theorem Core.setTile_faultCore (c : Core) (t : Nat) (x : Tile) : (c.setTile t x).faultCore = c.faultCore := rfl
@[simp] theorem Core.setTile_hold (c : Core) (t : Nat) (x : Tile) : (c.setTile t x).hold = c.hold := rfl
@[simp] theorem Core.setTile_rangeAt (c : Core) (t : Nat) (x : Tile) : (c.setTile t x).rangeAt = c.rangeAt := rfl
@[simp] theorem Core.setTile_pending (c : Core) (t : Nat) (x : Tile) : (c.setTile t x).pending = c.pending := rfl
@[simp] theorem Core.setTile_pushRec (c : Core) (t : Nat) (x : Tile) : (c.setTile t x).pushRec = c.pushRec := rfl
@[simp] theorem Core.setTile_jwaitAt (c : Core) (t : Nat) (x : Tile) : (c.setTile t x).jwaitAt = c.jwaitAt := rfl
@[simp] theorem Core.setTile_calm (c : Core) (t : Nat) (x : Tile) : (c.setTile t x).calm = c.calm := rfl
@[simp] theorem Core.setTile_gate (c : Core) (t : Nat) (x : Tile) : (c.setTile t x).gate = c.gate := rfl
@[simp] theorem Core.setTile_pend (c : Core) (t : Nat) (x : Tile) : (c.setTile t x).pend = c.pend := rfl
@[simp] theorem Core.setTile_gathers (c : Core) (t : Nat) (x : Tile) : (c.setTile t x).gathers = c.gathers := rfl
@[simp] theorem Core.setTile_plate (c : Core) (t : Nat) (x : Tile) : (c.setTile t x).plate = c.plate := rfl
@[simp] theorem Core.setTile_full (c : Core) (t : Nat) (x : Tile) : (c.setTile t x).full = c.full := rfl
@[simp] theorem Core.setTile_rings (c : Core) (t : Nat) (x : Tile) : (c.setTile t x).rings = c.rings := rfl
@[simp] theorem Core.setTile_ages (c : Core) (t : Nat) (x : Tile) : (c.setTile t x).ages = c.ages := rfl
@[simp] theorem Core.setTile_inboxAge (c : Core) (t : Nat) (x : Tile) : (c.setTile t x).inboxAge = c.inboxAge := rfl
@[simp] theorem Core.setTile_lastTaken (c : Core) (t : Nat) (x : Tile) : (c.setTile t x).lastTaken = c.lastTaken := rfl
@[simp] theorem Core.setTile_reserved (c : Core) (t : Nat) (x : Tile) : (c.setTile t x).reserved = c.reserved := rfl
@[simp] theorem Core.setTile_faultBox (c : Core) (t : Nat) (x : Tile) : (c.setTile t x).faultBox = c.faultBox := rfl
@[simp] theorem Core.setTile_poisonReplies (c : Core) (t : Nat) (x : Tile) : (c.setTile t x).poisonReplies = c.poisonReplies := rfl
@[simp] theorem Core.setTile_parked (c : Core) (t : Nat) (x : Tile) : (c.setTile t x).parked = c.parked := rfl
@[simp] theorem Core.setTile_readyWait (c : Core) (t : Nat) (x : Tile) : (c.setTile t x).readyWait = c.readyWait := rfl
@[simp] theorem Core.setTile_portWait (c : Core) (t : Nat) (x : Tile) : (c.setTile t x).portWait = c.portWait := rfl
@[simp] theorem Core.setTile_agents (c : Core) (t : Nat) (x : Tile) : (c.setTile t x).agents = c.agents := rfl
@[simp] theorem Core.setTile_spoilt (c : Core) (t : Nat) (x : Tile) : (c.setTile t x).spoilt = c.spoilt := rfl
@[simp] theorem Core.setTile_flights (c : Core) (t : Nat) (x : Tile) : (c.setTile t x).flights = c.flights := rfl
@[simp] theorem Core.setTile_transfer (c : Core) (t : Nat) (x : Tile) : (c.setTile t x).transfer = c.transfer := rfl
@[simp] theorem Core.setTile_commits (c : Core) (t : Nat) (x : Tile) : (c.setTile t x).commits = c.commits := rfl
@[simp] theorem Core.setTile_failing (c : Core) (t : Nat) (x : Tile) : (c.setTile t x).failing = c.failing := rfl
@[simp] theorem Core.setTile_hseqWas (c : Core) (t : Nat) (x : Tile) : (c.setTile t x).hseqWas = c.hseqWas := rfl
@[simp] theorem Core.setTile_icache (c : Core) (t : Nat) (x : Tile) : (c.setTile t x).icache = c.icache := rfl
@[simp] theorem Core.setTile_ahead (c : Core) (t : Nat) (x : Tile) : (c.setTile t x).ahead = c.ahead := rfl
@[simp] theorem Core.setTile_tlb (c : Core) (t : Nat) (x : Tile) : (c.setTile t x).tlb = c.tlb := rfl
@[simp] theorem Core.setTile_stopped (c : Core) (t : Nat) (x : Tile) : (c.setTile t x).stopped = c.stopped := rfl
@[simp] theorem Core.setTile_blk (c : Core) (t : Nat) (x : Tile) : (c.setTile t x).blk = c.blk := rfl
@[simp] theorem Core.setTile_rpc (c : Core) (t : Nat) (x : Tile) : (c.setTile t x).rpc = c.rpc := rfl
@[simp] theorem Core.setTile_wdc (c : Core) (t : Nat) (x : Tile) : (c.setTile t x).wdc = c.wdc := rfl

@[simp] theorem Core.plateWrite_sregs (c : Core) {w : Nat} (a n : Nat) (x : BitVec w) : (c.plateWrite a n x).sregs = c.sregs := rfl
@[simp] theorem Core.plateWrite_vregs (c : Core) {w : Nat} (a n : Nat) (x : BitVec w) : (c.plateWrite a n x).vregs = c.vregs := rfl
@[simp] theorem Core.plateWrite_pregs (c : Core) {w : Nat} (a n : Nat) (x : BitVec w) : (c.plateWrite a n x).pregs = c.pregs := rfl
@[simp] theorem Core.plateWrite_fregs (c : Core) {w : Nat} (a n : Nat) (x : BitVec w) : (c.plateWrite a n x).fregs = c.fregs := rfl
@[simp] theorem Core.plateWrite_supBank (c : Core) {w : Nat} (a n : Nat) (x : BitVec w) : (c.plateWrite a n x).supBank = c.supBank := rfl
@[simp] theorem Core.plateWrite_pc (c : Core) {w : Nat} (a n : Nat) (x : BitVec w) : (c.plateWrite a n x).pc = c.pc := rfl
@[simp] theorem Core.plateWrite_hints (c : Core) {w : Nat} (a n : Nat) (x : BitVec w) : (c.plateWrite a n x).hints = c.hints := rfl
@[simp] theorem Core.plateWrite_chainPc (c : Core) {w : Nat} (a n : Nat) (x : BitVec w) : (c.plateWrite a n x).chainPc = c.chainPc := rfl
@[simp] theorem Core.plateWrite_ir (c : Core) {w : Nat} (a n : Nat) (x : BitVec w) : (c.plateWrite a n x).ir = c.ir := rfl
@[simp] theorem Core.plateWrite_begun (c : Core) {w : Nat} (a n : Nat) (x : BitVec w) : (c.plateWrite a n x).begun = c.begun := rfl
@[simp] theorem Core.plateWrite_ctx (c : Core) {w : Nat} (a n : Nat) (x : BitVec w) : (c.plateWrite a n x).ctx = c.ctx := rfl
@[simp] theorem Core.plateWrite_handler (c : Core) {w : Nat} (a n : Nat) (x : BitVec w) : (c.plateWrite a n x).handler = c.handler := rfl
@[simp] theorem Core.plateWrite_sup (c : Core) {w : Nat} (a n : Nat) (x : BitVec w) : (c.plateWrite a n x).sup = c.sup := rfl
@[simp] theorem Core.plateWrite_supCount (c : Core) {w : Nat} (a n : Nat) (x : BitVec w) : (c.plateWrite a n x).supCount = c.supCount := rfl
@[simp] theorem Core.plateWrite_supCause (c : Core) {w : Nat} (a n : Nat) (x : BitVec w) : (c.plateWrite a n x).supCause = c.supCause := rfl
@[simp] theorem Core.plateWrite_work (c : Core) {w : Nat} (a n : Nat) (x : BitVec w) : (c.plateWrite a n x).work = c.work := rfl
@[simp] theorem Core.plateWrite_lanes (c : Core) {w : Nat} (a n : Nat) (x : BitVec w) : (c.plateWrite a n x).lanes = c.lanes := rfl
@[simp] theorem Core.plateWrite_demand (c : Core) {w : Nat} (a n : Nat) (x : BitVec w) : (c.plateWrite a n x).demand = c.demand := rfl
@[simp] theorem Core.plateWrite_depthCur (c : Core) {w : Nat} (a n : Nat) (x : BitVec w) : (c.plateWrite a n x).depthCur = c.depthCur := rfl
@[simp] theorem Core.plateWrite_depthLimit (c : Core) {w : Nat} (a n : Nat) (x : BitVec w) : (c.plateWrite a n x).depthLimit = c.depthLimit := rfl
@[simp] theorem Core.plateWrite_watchdog (c : Core) {w : Nat} (a n : Nat) (x : BitVec w) : (c.plateWrite a n x).watchdog = c.watchdog := rfl
@[simp] theorem Core.plateWrite_hangExp (c : Core) {w : Nat} (a n : Nat) (x : BitVec w) : (c.plateWrite a n x).hangExp = c.hangExp := rfl
@[simp] theorem Core.plateWrite_round (c : Core) {w : Nat} (a n : Nat) (x : BitVec w) : (c.plateWrite a n x).round = c.round := rfl
@[simp] theorem Core.plateWrite_userIndex (c : Core) {w : Nat} (a n : Nat) (x : BitVec w) : (c.plateWrite a n x).userIndex = c.userIndex := rfl
@[simp] theorem Core.plateWrite_trapCause (c : Core) {w : Nat} (a n : Nat) (x : BitVec w) : (c.plateWrite a n x).trapCause = c.trapCause := rfl
@[simp] theorem Core.plateWrite_trapInfo (c : Core) {w : Nat} (a n : Nat) (x : BitVec w) : (c.plateWrite a n x).trapInfo = c.trapInfo := rfl
@[simp] theorem Core.plateWrite_trapPc (c : Core) {w : Nat} (a n : Nat) (x : BitVec w) : (c.plateWrite a n x).trapPc = c.trapPc := rfl
@[simp] theorem Core.plateWrite_faultHandler (c : Core) {w : Nat} (a n : Nat) (x : BitVec w) : (c.plateWrite a n x).faultHandler = c.faultHandler := rfl
@[simp] theorem Core.plateWrite_faultCore (c : Core) {w : Nat} (a n : Nat) (x : BitVec w) : (c.plateWrite a n x).faultCore = c.faultCore := rfl
@[simp] theorem Core.plateWrite_hold (c : Core) {w : Nat} (a n : Nat) (x : BitVec w) : (c.plateWrite a n x).hold = c.hold := rfl
@[simp] theorem Core.plateWrite_rangeAt (c : Core) {w : Nat} (a n : Nat) (x : BitVec w) : (c.plateWrite a n x).rangeAt = c.rangeAt := rfl
@[simp] theorem Core.plateWrite_pending (c : Core) {w : Nat} (a n : Nat) (x : BitVec w) : (c.plateWrite a n x).pending = c.pending := rfl
@[simp] theorem Core.plateWrite_pushRec (c : Core) {w : Nat} (a n : Nat) (x : BitVec w) : (c.plateWrite a n x).pushRec = c.pushRec := rfl
@[simp] theorem Core.plateWrite_jwaitAt (c : Core) {w : Nat} (a n : Nat) (x : BitVec w) : (c.plateWrite a n x).jwaitAt = c.jwaitAt := rfl
@[simp] theorem Core.plateWrite_calm (c : Core) {w : Nat} (a n : Nat) (x : BitVec w) : (c.plateWrite a n x).calm = c.calm := rfl
@[simp] theorem Core.plateWrite_gate (c : Core) {w : Nat} (a n : Nat) (x : BitVec w) : (c.plateWrite a n x).gate = c.gate := rfl
@[simp] theorem Core.plateWrite_pend (c : Core) {w : Nat} (a n : Nat) (x : BitVec w) : (c.plateWrite a n x).pend = c.pend := rfl
@[simp] theorem Core.plateWrite_gathers (c : Core) {w : Nat} (a n : Nat) (x : BitVec w) : (c.plateWrite a n x).gathers = c.gathers := rfl
@[simp] theorem Core.plateWrite_full (c : Core) {w : Nat} (a n : Nat) (x : BitVec w) : (c.plateWrite a n x).full = c.full := rfl
@[simp] theorem Core.plateWrite_rings (c : Core) {w : Nat} (a n : Nat) (x : BitVec w) : (c.plateWrite a n x).rings = c.rings := rfl
@[simp] theorem Core.plateWrite_ages (c : Core) {w : Nat} (a n : Nat) (x : BitVec w) : (c.plateWrite a n x).ages = c.ages := rfl
@[simp] theorem Core.plateWrite_inboxAge (c : Core) {w : Nat} (a n : Nat) (x : BitVec w) : (c.plateWrite a n x).inboxAge = c.inboxAge := rfl
@[simp] theorem Core.plateWrite_lastTaken (c : Core) {w : Nat} (a n : Nat) (x : BitVec w) : (c.plateWrite a n x).lastTaken = c.lastTaken := rfl
@[simp] theorem Core.plateWrite_reserved (c : Core) {w : Nat} (a n : Nat) (x : BitVec w) : (c.plateWrite a n x).reserved = c.reserved := rfl
@[simp] theorem Core.plateWrite_faultBox (c : Core) {w : Nat} (a n : Nat) (x : BitVec w) : (c.plateWrite a n x).faultBox = c.faultBox := rfl
@[simp] theorem Core.plateWrite_poisonReplies (c : Core) {w : Nat} (a n : Nat) (x : BitVec w) : (c.plateWrite a n x).poisonReplies = c.poisonReplies := rfl
@[simp] theorem Core.plateWrite_tiles (c : Core) {w : Nat} (a n : Nat) (x : BitVec w) : (c.plateWrite a n x).tiles = c.tiles := rfl
@[simp] theorem Core.plateWrite_parked (c : Core) {w : Nat} (a n : Nat) (x : BitVec w) : (c.plateWrite a n x).parked = c.parked := rfl
@[simp] theorem Core.plateWrite_readyWait (c : Core) {w : Nat} (a n : Nat) (x : BitVec w) : (c.plateWrite a n x).readyWait = c.readyWait := rfl
@[simp] theorem Core.plateWrite_portWait (c : Core) {w : Nat} (a n : Nat) (x : BitVec w) : (c.plateWrite a n x).portWait = c.portWait := rfl
@[simp] theorem Core.plateWrite_agents (c : Core) {w : Nat} (a n : Nat) (x : BitVec w) : (c.plateWrite a n x).agents = c.agents := rfl
@[simp] theorem Core.plateWrite_spoilt (c : Core) {w : Nat} (a n : Nat) (x : BitVec w) : (c.plateWrite a n x).spoilt = c.spoilt := rfl
@[simp] theorem Core.plateWrite_flights (c : Core) {w : Nat} (a n : Nat) (x : BitVec w) : (c.plateWrite a n x).flights = c.flights := rfl
@[simp] theorem Core.plateWrite_transfer (c : Core) {w : Nat} (a n : Nat) (x : BitVec w) : (c.plateWrite a n x).transfer = c.transfer := rfl
@[simp] theorem Core.plateWrite_commits (c : Core) {w : Nat} (a n : Nat) (x : BitVec w) : (c.plateWrite a n x).commits = c.commits := rfl
@[simp] theorem Core.plateWrite_failing (c : Core) {w : Nat} (a n : Nat) (x : BitVec w) : (c.plateWrite a n x).failing = c.failing := rfl
@[simp] theorem Core.plateWrite_hseqWas (c : Core) {w : Nat} (a n : Nat) (x : BitVec w) : (c.plateWrite a n x).hseqWas = c.hseqWas := rfl
@[simp] theorem Core.plateWrite_icache (c : Core) {w : Nat} (a n : Nat) (x : BitVec w) : (c.plateWrite a n x).icache = c.icache := rfl
@[simp] theorem Core.plateWrite_ahead (c : Core) {w : Nat} (a n : Nat) (x : BitVec w) : (c.plateWrite a n x).ahead = c.ahead := rfl
@[simp] theorem Core.plateWrite_tlb (c : Core) {w : Nat} (a n : Nat) (x : BitVec w) : (c.plateWrite a n x).tlb = c.tlb := rfl
@[simp] theorem Core.plateWrite_stopped (c : Core) {w : Nat} (a n : Nat) (x : BitVec w) : (c.plateWrite a n x).stopped = c.stopped := rfl
@[simp] theorem Core.plateWrite_blk (c : Core) {w : Nat} (a n : Nat) (x : BitVec w) : (c.plateWrite a n x).blk = c.blk := rfl
@[simp] theorem Core.plateWrite_rpc (c : Core) {w : Nat} (a n : Nat) (x : BitVec w) : (c.plateWrite a n x).rpc = c.rpc := rfl
@[simp] theorem Core.plateWrite_wdc (c : Core) {w : Nat} (a n : Nat) (x : BitVec w) : (c.plateWrite a n x).wdc = c.wdc := rfl

@[simp] theorem Core.setFe_sregs (c : Core) (a : Nat) (b : Bool) : (c.setFe a b).sregs = c.sregs := rfl
@[simp] theorem Core.setFe_vregs (c : Core) (a : Nat) (b : Bool) : (c.setFe a b).vregs = c.vregs := rfl
@[simp] theorem Core.setFe_pregs (c : Core) (a : Nat) (b : Bool) : (c.setFe a b).pregs = c.pregs := rfl
@[simp] theorem Core.setFe_fregs (c : Core) (a : Nat) (b : Bool) : (c.setFe a b).fregs = c.fregs := rfl
@[simp] theorem Core.setFe_supBank (c : Core) (a : Nat) (b : Bool) : (c.setFe a b).supBank = c.supBank := rfl
@[simp] theorem Core.setFe_pc (c : Core) (a : Nat) (b : Bool) : (c.setFe a b).pc = c.pc := rfl
@[simp] theorem Core.setFe_hints (c : Core) (a : Nat) (b : Bool) : (c.setFe a b).hints = c.hints := rfl
@[simp] theorem Core.setFe_chainPc (c : Core) (a : Nat) (b : Bool) : (c.setFe a b).chainPc = c.chainPc := rfl
@[simp] theorem Core.setFe_ir (c : Core) (a : Nat) (b : Bool) : (c.setFe a b).ir = c.ir := rfl
@[simp] theorem Core.setFe_begun (c : Core) (a : Nat) (b : Bool) : (c.setFe a b).begun = c.begun := rfl
@[simp] theorem Core.setFe_ctx (c : Core) (a : Nat) (b : Bool) : (c.setFe a b).ctx = c.ctx := rfl
@[simp] theorem Core.setFe_handler (c : Core) (a : Nat) (b : Bool) : (c.setFe a b).handler = c.handler := rfl
@[simp] theorem Core.setFe_sup (c : Core) (a : Nat) (b : Bool) : (c.setFe a b).sup = c.sup := rfl
@[simp] theorem Core.setFe_supCount (c : Core) (a : Nat) (b : Bool) : (c.setFe a b).supCount = c.supCount := rfl
@[simp] theorem Core.setFe_supCause (c : Core) (a : Nat) (b : Bool) : (c.setFe a b).supCause = c.supCause := rfl
@[simp] theorem Core.setFe_work (c : Core) (a : Nat) (b : Bool) : (c.setFe a b).work = c.work := rfl
@[simp] theorem Core.setFe_lanes (c : Core) (a : Nat) (b : Bool) : (c.setFe a b).lanes = c.lanes := rfl
@[simp] theorem Core.setFe_demand (c : Core) (a : Nat) (b : Bool) : (c.setFe a b).demand = c.demand := rfl
@[simp] theorem Core.setFe_depthCur (c : Core) (a : Nat) (b : Bool) : (c.setFe a b).depthCur = c.depthCur := rfl
@[simp] theorem Core.setFe_depthLimit (c : Core) (a : Nat) (b : Bool) : (c.setFe a b).depthLimit = c.depthLimit := rfl
@[simp] theorem Core.setFe_watchdog (c : Core) (a : Nat) (b : Bool) : (c.setFe a b).watchdog = c.watchdog := rfl
@[simp] theorem Core.setFe_hangExp (c : Core) (a : Nat) (b : Bool) : (c.setFe a b).hangExp = c.hangExp := rfl
@[simp] theorem Core.setFe_round (c : Core) (a : Nat) (b : Bool) : (c.setFe a b).round = c.round := rfl
@[simp] theorem Core.setFe_userIndex (c : Core) (a : Nat) (b : Bool) : (c.setFe a b).userIndex = c.userIndex := rfl
@[simp] theorem Core.setFe_trapCause (c : Core) (a : Nat) (b : Bool) : (c.setFe a b).trapCause = c.trapCause := rfl
@[simp] theorem Core.setFe_trapInfo (c : Core) (a : Nat) (b : Bool) : (c.setFe a b).trapInfo = c.trapInfo := rfl
@[simp] theorem Core.setFe_trapPc (c : Core) (a : Nat) (b : Bool) : (c.setFe a b).trapPc = c.trapPc := rfl
@[simp] theorem Core.setFe_faultHandler (c : Core) (a : Nat) (b : Bool) : (c.setFe a b).faultHandler = c.faultHandler := rfl
@[simp] theorem Core.setFe_faultCore (c : Core) (a : Nat) (b : Bool) : (c.setFe a b).faultCore = c.faultCore := rfl
@[simp] theorem Core.setFe_hold (c : Core) (a : Nat) (b : Bool) : (c.setFe a b).hold = c.hold := rfl
@[simp] theorem Core.setFe_rangeAt (c : Core) (a : Nat) (b : Bool) : (c.setFe a b).rangeAt = c.rangeAt := rfl
@[simp] theorem Core.setFe_pending (c : Core) (a : Nat) (b : Bool) : (c.setFe a b).pending = c.pending := rfl
@[simp] theorem Core.setFe_pushRec (c : Core) (a : Nat) (b : Bool) : (c.setFe a b).pushRec = c.pushRec := rfl
@[simp] theorem Core.setFe_jwaitAt (c : Core) (a : Nat) (b : Bool) : (c.setFe a b).jwaitAt = c.jwaitAt := rfl
@[simp] theorem Core.setFe_calm (c : Core) (a : Nat) (b : Bool) : (c.setFe a b).calm = c.calm := rfl
@[simp] theorem Core.setFe_gate (c : Core) (a : Nat) (b : Bool) : (c.setFe a b).gate = c.gate := rfl
@[simp] theorem Core.setFe_pend (c : Core) (a : Nat) (b : Bool) : (c.setFe a b).pend = c.pend := rfl
@[simp] theorem Core.setFe_gathers (c : Core) (a : Nat) (b : Bool) : (c.setFe a b).gathers = c.gathers := rfl
@[simp] theorem Core.setFe_plate (c : Core) (a : Nat) (b : Bool) : (c.setFe a b).plate = c.plate := rfl
@[simp] theorem Core.setFe_rings (c : Core) (a : Nat) (b : Bool) : (c.setFe a b).rings = c.rings := rfl
@[simp] theorem Core.setFe_ages (c : Core) (a : Nat) (b : Bool) : (c.setFe a b).ages = c.ages := rfl
@[simp] theorem Core.setFe_inboxAge (c : Core) (a : Nat) (b : Bool) : (c.setFe a b).inboxAge = c.inboxAge := rfl
@[simp] theorem Core.setFe_lastTaken (c : Core) (a : Nat) (b : Bool) : (c.setFe a b).lastTaken = c.lastTaken := rfl
@[simp] theorem Core.setFe_reserved (c : Core) (a : Nat) (b : Bool) : (c.setFe a b).reserved = c.reserved := rfl
@[simp] theorem Core.setFe_faultBox (c : Core) (a : Nat) (b : Bool) : (c.setFe a b).faultBox = c.faultBox := rfl
@[simp] theorem Core.setFe_poisonReplies (c : Core) (a : Nat) (b : Bool) : (c.setFe a b).poisonReplies = c.poisonReplies := rfl
@[simp] theorem Core.setFe_tiles (c : Core) (a : Nat) (b : Bool) : (c.setFe a b).tiles = c.tiles := rfl
@[simp] theorem Core.setFe_parked (c : Core) (a : Nat) (b : Bool) : (c.setFe a b).parked = c.parked := rfl
@[simp] theorem Core.setFe_readyWait (c : Core) (a : Nat) (b : Bool) : (c.setFe a b).readyWait = c.readyWait := rfl
@[simp] theorem Core.setFe_portWait (c : Core) (a : Nat) (b : Bool) : (c.setFe a b).portWait = c.portWait := rfl
@[simp] theorem Core.setFe_agents (c : Core) (a : Nat) (b : Bool) : (c.setFe a b).agents = c.agents := rfl
@[simp] theorem Core.setFe_spoilt (c : Core) (a : Nat) (b : Bool) : (c.setFe a b).spoilt = c.spoilt := rfl
@[simp] theorem Core.setFe_flights (c : Core) (a : Nat) (b : Bool) : (c.setFe a b).flights = c.flights := rfl
@[simp] theorem Core.setFe_transfer (c : Core) (a : Nat) (b : Bool) : (c.setFe a b).transfer = c.transfer := rfl
@[simp] theorem Core.setFe_commits (c : Core) (a : Nat) (b : Bool) : (c.setFe a b).commits = c.commits := rfl
@[simp] theorem Core.setFe_failing (c : Core) (a : Nat) (b : Bool) : (c.setFe a b).failing = c.failing := rfl
@[simp] theorem Core.setFe_hseqWas (c : Core) (a : Nat) (b : Bool) : (c.setFe a b).hseqWas = c.hseqWas := rfl
@[simp] theorem Core.setFe_icache (c : Core) (a : Nat) (b : Bool) : (c.setFe a b).icache = c.icache := rfl
@[simp] theorem Core.setFe_ahead (c : Core) (a : Nat) (b : Bool) : (c.setFe a b).ahead = c.ahead := rfl
@[simp] theorem Core.setFe_tlb (c : Core) (a : Nat) (b : Bool) : (c.setFe a b).tlb = c.tlb := rfl
@[simp] theorem Core.setFe_stopped (c : Core) (a : Nat) (b : Bool) : (c.setFe a b).stopped = c.stopped := rfl
@[simp] theorem Core.setFe_blk (c : Core) (a : Nat) (b : Bool) : (c.setFe a b).blk = c.blk := rfl
@[simp] theorem Core.setFe_rpc (c : Core) (a : Nat) (b : Bool) : (c.setFe a b).rpc = c.rpc := rfl
@[simp] theorem Core.setFe_wdc (c : Core) (a : Nat) (b : Bool) : (c.setFe a b).wdc = c.wdc := rfl

/-- A write of a scalar register changes the bank in force and nothing else (R11, R277). -/
theorem Core.setS_eq (c : Core) (r : BitVec 5) (v : Word) :
    c.setS r v = { c with sregs := (c.setS r v).sregs, supBank := (c.setS r v).supBank } := by
  unfold Core.setS; split <;> [rfl; (split <;> rfl)]

@[simp] theorem Core.setS_vregs (c : Core) (r : BitVec 5) (v : Word) : (c.setS r v).vregs = c.vregs := by rw [Core.setS_eq]
@[simp] theorem Core.setS_pregs (c : Core) (r : BitVec 5) (v : Word) : (c.setS r v).pregs = c.pregs := by rw [Core.setS_eq]
@[simp] theorem Core.setS_fregs (c : Core) (r : BitVec 5) (v : Word) : (c.setS r v).fregs = c.fregs := by rw [Core.setS_eq]
@[simp] theorem Core.setS_pc (c : Core) (r : BitVec 5) (v : Word) : (c.setS r v).pc = c.pc := by rw [Core.setS_eq]
@[simp] theorem Core.setS_hints (c : Core) (r : BitVec 5) (v : Word) : (c.setS r v).hints = c.hints := by rw [Core.setS_eq]
@[simp] theorem Core.setS_chainPc (c : Core) (r : BitVec 5) (v : Word) : (c.setS r v).chainPc = c.chainPc := by rw [Core.setS_eq]
@[simp] theorem Core.setS_ir (c : Core) (r : BitVec 5) (v : Word) : (c.setS r v).ir = c.ir := by rw [Core.setS_eq]
@[simp] theorem Core.setS_begun (c : Core) (r : BitVec 5) (v : Word) : (c.setS r v).begun = c.begun := by rw [Core.setS_eq]
@[simp] theorem Core.setS_ctx (c : Core) (r : BitVec 5) (v : Word) : (c.setS r v).ctx = c.ctx := by rw [Core.setS_eq]
@[simp] theorem Core.setS_handler (c : Core) (r : BitVec 5) (v : Word) : (c.setS r v).handler = c.handler := by rw [Core.setS_eq]
@[simp] theorem Core.setS_sup (c : Core) (r : BitVec 5) (v : Word) : (c.setS r v).sup = c.sup := by rw [Core.setS_eq]
@[simp] theorem Core.setS_supCount (c : Core) (r : BitVec 5) (v : Word) : (c.setS r v).supCount = c.supCount := by rw [Core.setS_eq]
@[simp] theorem Core.setS_supCause (c : Core) (r : BitVec 5) (v : Word) : (c.setS r v).supCause = c.supCause := by rw [Core.setS_eq]
@[simp] theorem Core.setS_work (c : Core) (r : BitVec 5) (v : Word) : (c.setS r v).work = c.work := by rw [Core.setS_eq]
@[simp] theorem Core.setS_lanes (c : Core) (r : BitVec 5) (v : Word) : (c.setS r v).lanes = c.lanes := by rw [Core.setS_eq]
@[simp] theorem Core.setS_demand (c : Core) (r : BitVec 5) (v : Word) : (c.setS r v).demand = c.demand := by rw [Core.setS_eq]
@[simp] theorem Core.setS_depthCur (c : Core) (r : BitVec 5) (v : Word) : (c.setS r v).depthCur = c.depthCur := by rw [Core.setS_eq]
@[simp] theorem Core.setS_depthLimit (c : Core) (r : BitVec 5) (v : Word) : (c.setS r v).depthLimit = c.depthLimit := by rw [Core.setS_eq]
@[simp] theorem Core.setS_watchdog (c : Core) (r : BitVec 5) (v : Word) : (c.setS r v).watchdog = c.watchdog := by rw [Core.setS_eq]
@[simp] theorem Core.setS_hangExp (c : Core) (r : BitVec 5) (v : Word) : (c.setS r v).hangExp = c.hangExp := by rw [Core.setS_eq]
@[simp] theorem Core.setS_round (c : Core) (r : BitVec 5) (v : Word) : (c.setS r v).round = c.round := by rw [Core.setS_eq]
@[simp] theorem Core.setS_userIndex (c : Core) (r : BitVec 5) (v : Word) : (c.setS r v).userIndex = c.userIndex := by rw [Core.setS_eq]
@[simp] theorem Core.setS_trapCause (c : Core) (r : BitVec 5) (v : Word) : (c.setS r v).trapCause = c.trapCause := by rw [Core.setS_eq]
@[simp] theorem Core.setS_trapInfo (c : Core) (r : BitVec 5) (v : Word) : (c.setS r v).trapInfo = c.trapInfo := by rw [Core.setS_eq]
@[simp] theorem Core.setS_trapPc (c : Core) (r : BitVec 5) (v : Word) : (c.setS r v).trapPc = c.trapPc := by rw [Core.setS_eq]
@[simp] theorem Core.setS_faultHandler (c : Core) (r : BitVec 5) (v : Word) : (c.setS r v).faultHandler = c.faultHandler := by rw [Core.setS_eq]
@[simp] theorem Core.setS_faultCore (c : Core) (r : BitVec 5) (v : Word) : (c.setS r v).faultCore = c.faultCore := by rw [Core.setS_eq]
@[simp] theorem Core.setS_hold (c : Core) (r : BitVec 5) (v : Word) : (c.setS r v).hold = c.hold := by rw [Core.setS_eq]
@[simp] theorem Core.setS_rangeAt (c : Core) (r : BitVec 5) (v : Word) : (c.setS r v).rangeAt = c.rangeAt := by rw [Core.setS_eq]
@[simp] theorem Core.setS_pending (c : Core) (r : BitVec 5) (v : Word) : (c.setS r v).pending = c.pending := by rw [Core.setS_eq]
@[simp] theorem Core.setS_pushRec (c : Core) (r : BitVec 5) (v : Word) : (c.setS r v).pushRec = c.pushRec := by rw [Core.setS_eq]
@[simp] theorem Core.setS_jwaitAt (c : Core) (r : BitVec 5) (v : Word) : (c.setS r v).jwaitAt = c.jwaitAt := by rw [Core.setS_eq]
@[simp] theorem Core.setS_calm (c : Core) (r : BitVec 5) (v : Word) : (c.setS r v).calm = c.calm := by rw [Core.setS_eq]
@[simp] theorem Core.setS_gate (c : Core) (r : BitVec 5) (v : Word) : (c.setS r v).gate = c.gate := by rw [Core.setS_eq]
@[simp] theorem Core.setS_pend (c : Core) (r : BitVec 5) (v : Word) : (c.setS r v).pend = c.pend := by rw [Core.setS_eq]
@[simp] theorem Core.setS_gathers (c : Core) (r : BitVec 5) (v : Word) : (c.setS r v).gathers = c.gathers := by rw [Core.setS_eq]
@[simp] theorem Core.setS_plate (c : Core) (r : BitVec 5) (v : Word) : (c.setS r v).plate = c.plate := by rw [Core.setS_eq]
@[simp] theorem Core.setS_full (c : Core) (r : BitVec 5) (v : Word) : (c.setS r v).full = c.full := by rw [Core.setS_eq]
@[simp] theorem Core.setS_rings (c : Core) (r : BitVec 5) (v : Word) : (c.setS r v).rings = c.rings := by rw [Core.setS_eq]
@[simp] theorem Core.setS_ages (c : Core) (r : BitVec 5) (v : Word) : (c.setS r v).ages = c.ages := by rw [Core.setS_eq]
@[simp] theorem Core.setS_inboxAge (c : Core) (r : BitVec 5) (v : Word) : (c.setS r v).inboxAge = c.inboxAge := by rw [Core.setS_eq]
@[simp] theorem Core.setS_lastTaken (c : Core) (r : BitVec 5) (v : Word) : (c.setS r v).lastTaken = c.lastTaken := by rw [Core.setS_eq]
@[simp] theorem Core.setS_reserved (c : Core) (r : BitVec 5) (v : Word) : (c.setS r v).reserved = c.reserved := by rw [Core.setS_eq]
@[simp] theorem Core.setS_faultBox (c : Core) (r : BitVec 5) (v : Word) : (c.setS r v).faultBox = c.faultBox := by rw [Core.setS_eq]
@[simp] theorem Core.setS_poisonReplies (c : Core) (r : BitVec 5) (v : Word) : (c.setS r v).poisonReplies = c.poisonReplies := by rw [Core.setS_eq]
@[simp] theorem Core.setS_tiles (c : Core) (r : BitVec 5) (v : Word) : (c.setS r v).tiles = c.tiles := by rw [Core.setS_eq]
@[simp] theorem Core.setS_parked (c : Core) (r : BitVec 5) (v : Word) : (c.setS r v).parked = c.parked := by rw [Core.setS_eq]
@[simp] theorem Core.setS_readyWait (c : Core) (r : BitVec 5) (v : Word) : (c.setS r v).readyWait = c.readyWait := by rw [Core.setS_eq]
@[simp] theorem Core.setS_portWait (c : Core) (r : BitVec 5) (v : Word) : (c.setS r v).portWait = c.portWait := by rw [Core.setS_eq]
@[simp] theorem Core.setS_agents (c : Core) (r : BitVec 5) (v : Word) : (c.setS r v).agents = c.agents := by rw [Core.setS_eq]
@[simp] theorem Core.setS_spoilt (c : Core) (r : BitVec 5) (v : Word) : (c.setS r v).spoilt = c.spoilt := by rw [Core.setS_eq]
@[simp] theorem Core.setS_flights (c : Core) (r : BitVec 5) (v : Word) : (c.setS r v).flights = c.flights := by rw [Core.setS_eq]
@[simp] theorem Core.setS_transfer (c : Core) (r : BitVec 5) (v : Word) : (c.setS r v).transfer = c.transfer := by rw [Core.setS_eq]
@[simp] theorem Core.setS_commits (c : Core) (r : BitVec 5) (v : Word) : (c.setS r v).commits = c.commits := by rw [Core.setS_eq]
@[simp] theorem Core.setS_failing (c : Core) (r : BitVec 5) (v : Word) : (c.setS r v).failing = c.failing := by rw [Core.setS_eq]
@[simp] theorem Core.setS_hseqWas (c : Core) (r : BitVec 5) (v : Word) : (c.setS r v).hseqWas = c.hseqWas := by rw [Core.setS_eq]
@[simp] theorem Core.setS_icache (c : Core) (r : BitVec 5) (v : Word) : (c.setS r v).icache = c.icache := by rw [Core.setS_eq]
@[simp] theorem Core.setS_ahead (c : Core) (r : BitVec 5) (v : Word) : (c.setS r v).ahead = c.ahead := by rw [Core.setS_eq]
@[simp] theorem Core.setS_tlb (c : Core) (r : BitVec 5) (v : Word) : (c.setS r v).tlb = c.tlb := by rw [Core.setS_eq]
@[simp] theorem Core.setS_stopped (c : Core) (r : BitVec 5) (v : Word) : (c.setS r v).stopped = c.stopped := by rw [Core.setS_eq]
@[simp] theorem Core.setS_blk (c : Core) (r : BitVec 5) (v : Word) : (c.setS r v).blk = c.blk := by rw [Core.setS_eq]
@[simp] theorem Core.setS_rpc (c : Core) (r : BitVec 5) (v : Word) : (c.setS r v).rpc = c.rpc := by rw [Core.setS_eq]
@[simp] theorem Core.setS_wdc (c : Core) (r : BitVec 5) (v : Word) : (c.setS r v).wdc = c.wdc := by rw [Core.setS_eq]

/-- A write of a register named at issue changes one bank and nothing else. -/
theorem Core.setSReg_eq (c : Core) (r : SReg) (v : Word) :
    c.setSReg r v = { c with sregs := (c.setSReg r v).sregs, supBank := (c.setSReg r v).supBank } := by
  unfold Core.setSReg; split <;> [rfl; (split <;> rfl)]

@[simp] theorem Core.setSReg_vregs (c : Core) (r : SReg) (v : Word) : (c.setSReg r v).vregs = c.vregs := by rw [Core.setSReg_eq]
@[simp] theorem Core.setSReg_pregs (c : Core) (r : SReg) (v : Word) : (c.setSReg r v).pregs = c.pregs := by rw [Core.setSReg_eq]
@[simp] theorem Core.setSReg_fregs (c : Core) (r : SReg) (v : Word) : (c.setSReg r v).fregs = c.fregs := by rw [Core.setSReg_eq]
@[simp] theorem Core.setSReg_pc (c : Core) (r : SReg) (v : Word) : (c.setSReg r v).pc = c.pc := by rw [Core.setSReg_eq]
@[simp] theorem Core.setSReg_hints (c : Core) (r : SReg) (v : Word) : (c.setSReg r v).hints = c.hints := by rw [Core.setSReg_eq]
@[simp] theorem Core.setSReg_chainPc (c : Core) (r : SReg) (v : Word) : (c.setSReg r v).chainPc = c.chainPc := by rw [Core.setSReg_eq]
@[simp] theorem Core.setSReg_ir (c : Core) (r : SReg) (v : Word) : (c.setSReg r v).ir = c.ir := by rw [Core.setSReg_eq]
@[simp] theorem Core.setSReg_begun (c : Core) (r : SReg) (v : Word) : (c.setSReg r v).begun = c.begun := by rw [Core.setSReg_eq]
@[simp] theorem Core.setSReg_ctx (c : Core) (r : SReg) (v : Word) : (c.setSReg r v).ctx = c.ctx := by rw [Core.setSReg_eq]
@[simp] theorem Core.setSReg_handler (c : Core) (r : SReg) (v : Word) : (c.setSReg r v).handler = c.handler := by rw [Core.setSReg_eq]
@[simp] theorem Core.setSReg_sup (c : Core) (r : SReg) (v : Word) : (c.setSReg r v).sup = c.sup := by rw [Core.setSReg_eq]
@[simp] theorem Core.setSReg_supCount (c : Core) (r : SReg) (v : Word) : (c.setSReg r v).supCount = c.supCount := by rw [Core.setSReg_eq]
@[simp] theorem Core.setSReg_supCause (c : Core) (r : SReg) (v : Word) : (c.setSReg r v).supCause = c.supCause := by rw [Core.setSReg_eq]
@[simp] theorem Core.setSReg_work (c : Core) (r : SReg) (v : Word) : (c.setSReg r v).work = c.work := by rw [Core.setSReg_eq]
@[simp] theorem Core.setSReg_lanes (c : Core) (r : SReg) (v : Word) : (c.setSReg r v).lanes = c.lanes := by rw [Core.setSReg_eq]
@[simp] theorem Core.setSReg_demand (c : Core) (r : SReg) (v : Word) : (c.setSReg r v).demand = c.demand := by rw [Core.setSReg_eq]
@[simp] theorem Core.setSReg_depthCur (c : Core) (r : SReg) (v : Word) : (c.setSReg r v).depthCur = c.depthCur := by rw [Core.setSReg_eq]
@[simp] theorem Core.setSReg_depthLimit (c : Core) (r : SReg) (v : Word) : (c.setSReg r v).depthLimit = c.depthLimit := by rw [Core.setSReg_eq]
@[simp] theorem Core.setSReg_watchdog (c : Core) (r : SReg) (v : Word) : (c.setSReg r v).watchdog = c.watchdog := by rw [Core.setSReg_eq]
@[simp] theorem Core.setSReg_hangExp (c : Core) (r : SReg) (v : Word) : (c.setSReg r v).hangExp = c.hangExp := by rw [Core.setSReg_eq]
@[simp] theorem Core.setSReg_round (c : Core) (r : SReg) (v : Word) : (c.setSReg r v).round = c.round := by rw [Core.setSReg_eq]
@[simp] theorem Core.setSReg_userIndex (c : Core) (r : SReg) (v : Word) : (c.setSReg r v).userIndex = c.userIndex := by rw [Core.setSReg_eq]
@[simp] theorem Core.setSReg_trapCause (c : Core) (r : SReg) (v : Word) : (c.setSReg r v).trapCause = c.trapCause := by rw [Core.setSReg_eq]
@[simp] theorem Core.setSReg_trapInfo (c : Core) (r : SReg) (v : Word) : (c.setSReg r v).trapInfo = c.trapInfo := by rw [Core.setSReg_eq]
@[simp] theorem Core.setSReg_trapPc (c : Core) (r : SReg) (v : Word) : (c.setSReg r v).trapPc = c.trapPc := by rw [Core.setSReg_eq]
@[simp] theorem Core.setSReg_faultHandler (c : Core) (r : SReg) (v : Word) : (c.setSReg r v).faultHandler = c.faultHandler := by rw [Core.setSReg_eq]
@[simp] theorem Core.setSReg_faultCore (c : Core) (r : SReg) (v : Word) : (c.setSReg r v).faultCore = c.faultCore := by rw [Core.setSReg_eq]
@[simp] theorem Core.setSReg_hold (c : Core) (r : SReg) (v : Word) : (c.setSReg r v).hold = c.hold := by rw [Core.setSReg_eq]
@[simp] theorem Core.setSReg_rangeAt (c : Core) (r : SReg) (v : Word) : (c.setSReg r v).rangeAt = c.rangeAt := by rw [Core.setSReg_eq]
@[simp] theorem Core.setSReg_pending (c : Core) (r : SReg) (v : Word) : (c.setSReg r v).pending = c.pending := by rw [Core.setSReg_eq]
@[simp] theorem Core.setSReg_pushRec (c : Core) (r : SReg) (v : Word) : (c.setSReg r v).pushRec = c.pushRec := by rw [Core.setSReg_eq]
@[simp] theorem Core.setSReg_jwaitAt (c : Core) (r : SReg) (v : Word) : (c.setSReg r v).jwaitAt = c.jwaitAt := by rw [Core.setSReg_eq]
@[simp] theorem Core.setSReg_calm (c : Core) (r : SReg) (v : Word) : (c.setSReg r v).calm = c.calm := by rw [Core.setSReg_eq]
@[simp] theorem Core.setSReg_gate (c : Core) (r : SReg) (v : Word) : (c.setSReg r v).gate = c.gate := by rw [Core.setSReg_eq]
@[simp] theorem Core.setSReg_pend (c : Core) (r : SReg) (v : Word) : (c.setSReg r v).pend = c.pend := by rw [Core.setSReg_eq]
@[simp] theorem Core.setSReg_gathers (c : Core) (r : SReg) (v : Word) : (c.setSReg r v).gathers = c.gathers := by rw [Core.setSReg_eq]
@[simp] theorem Core.setSReg_plate (c : Core) (r : SReg) (v : Word) : (c.setSReg r v).plate = c.plate := by rw [Core.setSReg_eq]
@[simp] theorem Core.setSReg_full (c : Core) (r : SReg) (v : Word) : (c.setSReg r v).full = c.full := by rw [Core.setSReg_eq]
@[simp] theorem Core.setSReg_rings (c : Core) (r : SReg) (v : Word) : (c.setSReg r v).rings = c.rings := by rw [Core.setSReg_eq]
@[simp] theorem Core.setSReg_ages (c : Core) (r : SReg) (v : Word) : (c.setSReg r v).ages = c.ages := by rw [Core.setSReg_eq]
@[simp] theorem Core.setSReg_inboxAge (c : Core) (r : SReg) (v : Word) : (c.setSReg r v).inboxAge = c.inboxAge := by rw [Core.setSReg_eq]
@[simp] theorem Core.setSReg_lastTaken (c : Core) (r : SReg) (v : Word) : (c.setSReg r v).lastTaken = c.lastTaken := by rw [Core.setSReg_eq]
@[simp] theorem Core.setSReg_reserved (c : Core) (r : SReg) (v : Word) : (c.setSReg r v).reserved = c.reserved := by rw [Core.setSReg_eq]
@[simp] theorem Core.setSReg_faultBox (c : Core) (r : SReg) (v : Word) : (c.setSReg r v).faultBox = c.faultBox := by rw [Core.setSReg_eq]
@[simp] theorem Core.setSReg_poisonReplies (c : Core) (r : SReg) (v : Word) : (c.setSReg r v).poisonReplies = c.poisonReplies := by rw [Core.setSReg_eq]
@[simp] theorem Core.setSReg_tiles (c : Core) (r : SReg) (v : Word) : (c.setSReg r v).tiles = c.tiles := by rw [Core.setSReg_eq]
@[simp] theorem Core.setSReg_parked (c : Core) (r : SReg) (v : Word) : (c.setSReg r v).parked = c.parked := by rw [Core.setSReg_eq]
@[simp] theorem Core.setSReg_readyWait (c : Core) (r : SReg) (v : Word) : (c.setSReg r v).readyWait = c.readyWait := by rw [Core.setSReg_eq]
@[simp] theorem Core.setSReg_portWait (c : Core) (r : SReg) (v : Word) : (c.setSReg r v).portWait = c.portWait := by rw [Core.setSReg_eq]
@[simp] theorem Core.setSReg_agents (c : Core) (r : SReg) (v : Word) : (c.setSReg r v).agents = c.agents := by rw [Core.setSReg_eq]
@[simp] theorem Core.setSReg_spoilt (c : Core) (r : SReg) (v : Word) : (c.setSReg r v).spoilt = c.spoilt := by rw [Core.setSReg_eq]
@[simp] theorem Core.setSReg_flights (c : Core) (r : SReg) (v : Word) : (c.setSReg r v).flights = c.flights := by rw [Core.setSReg_eq]
@[simp] theorem Core.setSReg_transfer (c : Core) (r : SReg) (v : Word) : (c.setSReg r v).transfer = c.transfer := by rw [Core.setSReg_eq]
@[simp] theorem Core.setSReg_commits (c : Core) (r : SReg) (v : Word) : (c.setSReg r v).commits = c.commits := by rw [Core.setSReg_eq]
@[simp] theorem Core.setSReg_failing (c : Core) (r : SReg) (v : Word) : (c.setSReg r v).failing = c.failing := by rw [Core.setSReg_eq]
@[simp] theorem Core.setSReg_hseqWas (c : Core) (r : SReg) (v : Word) : (c.setSReg r v).hseqWas = c.hseqWas := by rw [Core.setSReg_eq]
@[simp] theorem Core.setSReg_icache (c : Core) (r : SReg) (v : Word) : (c.setSReg r v).icache = c.icache := by rw [Core.setSReg_eq]
@[simp] theorem Core.setSReg_ahead (c : Core) (r : SReg) (v : Word) : (c.setSReg r v).ahead = c.ahead := by rw [Core.setSReg_eq]
@[simp] theorem Core.setSReg_tlb (c : Core) (r : SReg) (v : Word) : (c.setSReg r v).tlb = c.tlb := by rw [Core.setSReg_eq]
@[simp] theorem Core.setSReg_stopped (c : Core) (r : SReg) (v : Word) : (c.setSReg r v).stopped = c.stopped := by rw [Core.setSReg_eq]
@[simp] theorem Core.setSReg_blk (c : Core) (r : SReg) (v : Word) : (c.setSReg r v).blk = c.blk := by rw [Core.setSReg_eq]
@[simp] theorem Core.setSReg_rpc (c : Core) (r : SReg) (v : Word) : (c.setSReg r v).rpc = c.rpc := by rw [Core.setSReg_eq]
@[simp] theorem Core.setSReg_wdc (c : Core) (r : SReg) (v : Word) : (c.setSReg r v).wdc = c.wdc := by rw [Core.setSReg_eq]

/-! ### Bytes of a plate -/

/-- The plate's bytes after a write (R59). -/
theorem Core.plateByte_plateWrite {w : Nat} (c : Core) (a n : Nat) (x : BitVec w) (y : Nat) :
    (c.plateWrite a n x).plateByte y = if a ≤ y ∧ y < a + n then byteAt x (y - a) else c.plateByte y := by
  simp only [Core.plateByte, Core.plateWrite, memRead_writeBytes]
  split <;> rfl

/-- A write keeps the plate's canonical form. -/
theorem Core.plate_wf_plateWrite {w : Nat} {c : Core} (h : Memory.wf zeroMem c.plate = true) (a n : Nat) (x : BitVec w) :
    Memory.wf zeroMem (c.plateWrite a n x).plate = true := Memory.wf_writeBytes h x a n

/-- A full/empty bit reads as it was set (R62). -/
theorem Core.fe_setFe_same (c : Core) (a : Nat) (b : Bool) : (c.setFe a b).fe a = b := by
  cases b <;> simp [Core.fe, Core.setFe, Store.get]

end Sys2Proof.Machine
end

