-- ==== Sys2Proof/Laws/Memory.lean ====
section
/-!
SUPPORT. Laws of main memory: what image B reads as after a write under the same key (spec/25_errors_and_containment.md R345,
R347), and that every memory operation keeps its canonical form.
-/
namespace Sys2Proof.Machine

/-- Image B is in canonical form. -/
def State.bWf (s : State) : Prop := Memory.wf bMem s.memB = true

/-- An update that leaves image B alone keeps its form. -/
theorem State.bWf_congr {s t : State} (e : t.memB = s.memB) (h : s.bWf) : t.bWf := by
  unfold State.bWf at *; rw [e]; exact h

/-! ### Reading back -/

/-- A fold of writes at consecutive addresses, read. -/
theorem memRead_fill (f : Nat → Byte) (base n : Nat) (m : List Host.Cell) (y : Nat) :
    memRead bMem ((List.range n).foldl (fun m i => memWrite bMem m (base + i) (f (base + i))) m) y =
      if base ≤ y ∧ y < base + n then some (f y) else memRead bMem m y := by
  induction n with
  | zero => simp
  | succ n ih =>
    rw [List.range_succ, List.foldl_append, List.foldl_cons, List.foldl_nil, memRead_memWrite, ih]
    by_cases h : y = base + n
    · subst h; simp
    · have : (base ≤ y ∧ y < base + n) ↔ (base ≤ y ∧ y < base + (n + 1)) := by omega
      simp [h, this]

/-- A unit under the key that reads it. -/
theorem State.bByte_of_key {s : State} {key : KeyVal} {pa : Nat} (h : Store.find (pa / 64) s.unitKey = some key) :
    s.bByte key pa = (memRead bMem s.memB pa).getD (Config.resetByte s.boot.resets pa) := by
  simp [State.bByte, State.bRaw, h]

@[simp] theorem State.bRekey_boot (s : State) (key : KeyVal) (u : Nat) : (s.bRekey key u).boot = s.boot := by
  unfold State.bRekey; split <;> (try split) <;> rfl

/-- The key of a unit after it is brought under `key`; other units keep theirs. -/
theorem State.bRekey_unitKey (s : State) (key : KeyVal) (u v : Nat) :
    Store.find v (s.bRekey key u).unitKey = if v = u then some key else Store.find v s.unitKey := by
  unfold State.bRekey
  split
  · rename_i k hk
    split
    · rename_i e; subst e
      by_cases h : v = u
      · subst h; simp [hk]
      · simp [h]
    · simp [Store.find_put]
  · simp [Store.find_put]

/-- Bringing a unit under a key changes no byte that the key reads (R347). -/
theorem State.bByte_bRekey (s : State) (key : KeyVal) (u pa : Nat) : (s.bRekey key u).bByte key pa = s.bByte key pa := by
  by_cases h : pa / 64 = u
  · subst h
    rw [State.bByte_of_key (by simp [State.bRekey_unitKey]), State.bRekey_boot]
    unfold State.bRekey
    split
    · rename_i k hk
      split
      · rename_i e; subst e; simp [State.bByte, State.bRaw, hk]
      · simp only [memRead_fill (s.bByte key)]
        have : 64 * (pa / 64) ≤ pa ∧ pa < 64 * (pa / 64) + 64 := by omega
        simp [this]
    · rename_i hk; simp [State.bByte, State.bRaw, hk]
  · have hk : Store.find (pa / 64) (s.bRekey key u).unitKey = Store.find (pa / 64) s.unitKey := by
      simp [State.bRekey_unitKey, h]
    have hr : ∀ a, a / 64 = pa / 64 → (s.bRekey key u).bRaw a = s.bRaw a := by
      intro a ha
      have hm : memRead bMem (s.bRekey key u).memB a = memRead bMem s.memB a := by
        unfold State.bRekey
        split
        · split
          · rfl
          · simp only [memRead_fill (s.bByte key)]
            have : ¬(64 * u ≤ a ∧ a < 64 * u + 64) := by omega
            simp [this]
        · rfl
      simp only [State.bRaw, hm, State.bRekey_boot]
    have ho : ∀ k, otherKey k key (s.bRekey key u).bRaw pa = otherKey k key s.bRaw pa := by
      intro k
      have : joinBytes (s.bRekey key u).bRaw (pa - pa % 16) 16 = joinBytes s.bRaw (pa - pa % 16) 16 :=
        joinBytes_congr fun y hy hz => hr y (by omega)
      simp only [otherKey, this]
    simp only [State.bByte, hk, hr pa rfl, ho]

/-- One byte written under a key is read under it, and no other byte changes. -/
theorem State.bByte_bWriteByte (s : State) (key : KeyVal) (pa : Nat) (v : Byte) (y : Nat) :
    (s.bWriteByte key pa v).bByte key y = if y = pa then v else s.bByte key y := by
  have raw : ∀ a, a ≠ pa → (s.bWriteByte key pa v).bRaw a = (s.bRekey key (pa / 64)).bRaw a := by
    intro a ha
    simp [State.bRaw, State.bWriteByte, memRead_memWrite_ne _ _ ha]
  have h : (s.bWriteByte key pa v).bByte key y =
      if y = pa then v else (s.bRekey key (pa / 64)).bByte key y := by
    by_cases e : y = pa
    · subst e
      rw [State.bByte_of_key]
      · simp [State.bWriteByte, memRead_memWrite_same]
      · simp [State.bWriteByte, State.bRekey_unitKey]
    · simp only [e, if_false]
      by_cases u : y / 64 = pa / 64
      · have hk : ∀ t : State, Store.find (y / 64) t.unitKey = some key → t.bByte key y = t.bRaw y := by
          intro t ht; simp [State.bByte, ht]
        have hw : (s.bWriteByte key pa v).unitKey = (s.bRekey key (pa / 64)).unitKey := rfl
        rw [hk _ (by rw [hw, State.bRekey_unitKey]; simp [u]), hk _ (by rw [State.bRekey_unitKey]; simp [u]), raw y e]
      · have hj : ∀ k, otherKey k key (s.bWriteByte key pa v).bRaw y = otherKey k key (s.bRekey key (pa / 64)).bRaw y := by
          intro k
          have : joinBytes (s.bWriteByte key pa v).bRaw (y - y % 16) 16 =
              joinBytes (s.bRekey key (pa / 64)).bRaw (y - y % 16) 16 :=
            joinBytes_congr fun z hz hz' => raw z (by omega)
          simp only [otherKey, this]
        have hw : (s.bWriteByte key pa v).unitKey = (s.bRekey key (pa / 64)).unitKey := rfl
        simp only [State.bByte, hw, raw y e, hj]
  rw [h, State.bByte_bRekey]

/-- The bytes of image B after a write under the same key. -/
theorem State.bByte_bWrite {w : Nat} (s : State) (key : KeyVal) (x : BitVec w) (pa n y : Nat) :
    (s.bWrite key x pa n).bByte key y = if pa ≤ y ∧ y < pa + n then byteAt x (y - pa) else s.bByte key y := by
  induction n with
  | zero => simp [State.bWrite]
  | succ n ih =>
    rw [State.bWrite, State.bByte_bWriteByte, ih]
    by_cases h : y = pa + n
    · subst h; simp
    · have : (pa ≤ y ∧ y < pa + n) ↔ (pa ≤ y ∧ y < pa + (n + 1)) := by omega
      simp [h, this]

/-! ### The canonical form -/

theorem State.bWf_bRekey {s : State} (h : s.bWf) (key : KeyVal) (u : Nat) : (s.bRekey key u).bWf := by
  unfold State.bRekey
  split
  · split
    · exact h
    · exact Memory.wf_foldl _ _ _ h
  · exact State.bWf_congr rfl h

theorem State.bWf_bWriteByte {s : State} (h : s.bWf) (key : KeyVal) (pa : Nat) (v : Byte) : (s.bWriteByte key pa v).bWf :=
  Memory.wf_memWrite (State.bWf_bRekey h key (pa / 64)) _ _

theorem State.bWf_bWrite {w : Nat} {s : State} (h : s.bWf) (key : KeyVal) (x : BitVec w) (pa n : Nat) :
    (s.bWrite key x pa n).bWf := by
  induction n with
  | zero => exact h
  | succ n ih => exact State.bWf_bWriteByte ih _ _ _

/-- A fold of operations that keep the form keeps it. -/
theorem State.bWf_foldl {α : Type} (f : State → α → State) (hf : ∀ s a, s.bWf → (f s a).bWf) (l : List α) {s : State}
    (h : s.bWf) : (l.foldl f s).bWf := by
  induction l generalizing s with
  | nil => exact h
  | cons a l ih => exact ih (hf s a h)

/-- The detection of an error leaves image B alone. -/
theorem State.memB_detectLine (s : State) (line : Nat) (inC : Bool) (o : Nat) (va : Word) (n cause : Nat) :
    (s.detectLine line inC o va n cause).memB = s.memB := by
  unfold State.detectLine; split <;> rfl

theorem State.memB_fillLine (s : State) (line o : Nat) (sup : Bool) : (s.fillLine line o sup).memB = s.memB := by
  unfold State.fillLine; split
  · rfl
  · exact State.memB_detectLine s line false o 0 0 0

/-- A request on its way changes nothing but the list of them. -/
theorem State.cross_eq (s : State) (o who line : Nat) (path : List (Nat × Nat)) (entered : Bool) :
    ∃ l, s.cross o who line path entered = { s with traffic := l } := by
  exact ⟨_, rfl⟩

theorem State.memB_cross (s : State) (o who line : Nat) (path : List (Nat × Nat)) (entered : Bool) :
    (s.cross o who line path entered).memB = s.memB := by
  obtain ⟨l, h⟩ := s.cross_eq o who line path entered
  rw [h]

theorem State.memB_chargeBack (s : State) (o line : Nat) (path : List (Nat × Nat)) : (s.chargeBack o line path).memB = s.memB := by
  unfold State.chargeBack
  rw [State.memB_cross]
  split <;> [(split <;> rfl); rfl]

theorem State.memB_soil (s : State) (o line : Nat) : (s.soil o line).memB = s.memB := rfl

theorem State.memB_joinOrder (s : State) (d : Dest) (o pa n : Nat) : (s.joinOrder d o pa n).memB = s.memB := rfl

theorem State.memB_clearPoison (s : State) (img : Image) (line : Nat) : (s.clearPoison img line).memB = s.memB := by
  unfold State.clearPoison
  cases img with
  | b => rfl
  | c => dsimp only; split <;> rfl

theorem State.bWf_markSector {s : State} (h : s.bWf) (o pa : Nat) : (s.markSector o pa).bWf := by
  unfold State.markSector
  extract_lets e
  refine State.bWf_foldl _ (fun s j hs => ?_) _ h
  dsimp only
  split
  · exact State.bWf_bWrite hs _ _ _ _
  · exact hs

theorem State.bWf_writeBackLine {s : State} (h : s.bWf) (line : Nat) (o : Option Nat) : (s.writeBackLine line o).bWf := by
  unfold State.writeBackLine
  split
  · exact h
  · rename_i l _
    split
    · extract_lets q d r k key u v
      have hr : r.bWf := State.bWf_congr ((State.memB_chargeBack _ _ _ _).trans (State.memB_detectLine s line true l.owner 0 0 0)) h
      have hk : k.bWf := by
        dsimp only [k]; split
        · exact State.bWf_congr (State.memB_soil _ _ _) hr
        · exact hr
      have hf : ∀ (s : State) (i : Nat), s.bWf → (s.bWriteByte key (128 * line + i) (l.data.getD i 0)).bWf :=
        fun s i hs => State.bWf_bWriteByte hs _ _ _
      have hu : u.bWf := State.bWf_foldl _ hf _ hk
      have more : ∀ (u : State) (c : Store CLine) (p : Store (BitVec 32)), u.bWf →
          ({ u with memC := c, poisonB := p } : State).bWf := fun u c p hu => State.bWf_congr rfl hu
      have hv : v.bWf := more u _ _ hu
      exact State.bWf_markSector hv _ _
    · exact h

theorem State.bWf_dropLine {s : State} (h : s.bWf) (line : Nat) : (s.dropLine line).bWf :=
  State.bWf_congr rfl h

theorem State.bWf_cWrite {w : Nat} {s : State} (h : s.bWf) (o : Nat) (sup : Bool) (x : BitVec w) (pa n : Nat) :
    (s.cWrite o sup x pa n).bWf := by
  have e : (s.cWrite o sup x pa n).memB = s.memB := State.memB_fillLine s (pa / 128) o sup
  exact State.bWf_congr e h

theorem State.bWf_imgWrite {w : Nat} {s : State} (h : s.bWf) (img : Image) (o : Nat) (sup : Bool) (x : BitVec w)
    (pa n : Nat) : (s.imgWrite img o sup x pa n).bWf := by
  have hj : (s.joinOrder (.main img) o pa n).bWf := h
  cases img with
  | c =>
    simp only [State.imgWrite]
    split
    · exact State.bWf_congr (State.memB_clearPoison _ _ _) (State.bWf_cWrite hj _ _ _ _ _)
    · exact State.bWf_cWrite hj _ _ _ _ _
  | b =>
    unfold State.imgWrite
    extract_lets s0 d u v
    have hd : d.bWf := by
      dsimp only [d]; split
      · exact hj
      · exact State.bWf_congr (State.memB_detectLine _ _ _ _ _ _ _) hj
    have hu : u.bWf := State.bWf_bWrite hd _ _ _ _
    refine State.bWf_markSector ?_ _ _
    dsimp only [v]; split
    · exact State.bWf_congr (State.memB_clearPoison _ _ _) hu
    · exact hu

theorem State.bWf_evict {s : State} (h : s.bWf) (c : Copy) : (s.evict c).bWf := by
  have gone : ∀ u : State, u.bWf → ({ u with copies := u.copies.filter (· != c) } : State).bWf := fun u hu => State.bWf_congr rfl hu
  unfold State.evict
  split
  · apply gone; split
    · exact State.bWf_congr (State.memB_chargeBack _ _ _ _) h
    · exact h
  · split
    · apply gone; split
      · exact State.bWf_writeBackLine h _ _
      · exact h
    · exact State.bWf_dropLine (gone _ (State.bWf_writeBackLine h _ _)) _

theorem State.bWf_allocate {s : State} (h : s.bWf) (cls inst set line o : Nat) (ways : List Nat) (dirty : Bool) :
    (s.allocate cls inst set line o ways dirty).bWf := by
  unfold State.allocate
  split
  · exact h
  · extract_lets w held ctr u
    have hu : u.bWf := State.bWf_congr rfl h
    have more : ∀ (u : State) (l : List Copy), u.bWf → ({ u with copies := l } : State).bWf :=
      fun u l hu => State.bWf_congr rfl hu
    split
    · exact more _ _ hu
    · rename_i v _ _
      apply more
      dsimp only [v]
      split
      · exact State.bWf_evict hu _
      · exact hu

theorem State.bWf_touchClass {s : State} (h : s.bWf) (n o cls line tc : Nat) (alloc : Bool) :
    (s.touchClass n o cls line tc alloc).bWf := by
  unfold State.touchClass
  dsimp only
  split
  · exact h
  · split
    · exact h
    · split
      · split
        · exact State.bWf_evict h _
        · refine State.bWf_allocate ?_ _ _ _ _ _ _ _
          exact State.bWf_congr rfl h
      · split
        · exact State.bWf_allocate h _ _ _ _ _ _ _
        · exact h

theorem State.bWf_touchLocked {s : State} (h : s.bWf) (line : Nat) : (s.touchLocked line).bWf := by
  unfold State.touchLocked
  split
  · exact h
  · exact State.bWf_congr rfl h

theorem State.bWf_touch {s : State} (h : s.bWf) (n o line cache : Nat) (tier : Tier) (stream : Bool) (op : CacheOp)
    (tc : Nat) : (s.touch n o line cache tier stream op tc).bWf := by
  unfold State.touch
  extract_lets u v
  have hu : u.bWf := by
    dsimp only [u]; split
    · exact State.bWf_touchClass h _ _ _ _ _ _
    · exact h
  have hv : v.bWf := by
    dsimp only [v]; split
    · exact State.bWf_touchClass hu _ _ _ _ _ _
    · exact hu
  split
  · split
    · have hw : ∀ a, (v.touchClass n o 3 line tc a).bWf := fun a => State.bWf_touchClass hv _ _ _ _ _ _
      split
      · exact State.bWf_congr (State.memB_soil _ _ _) (hw _)
      · exact hw _
    · exact State.bWf_touchLocked hv _
  · exact hv

theorem State.bWf_setTlb {s : State} (h : s.bWf) (l : List Trans) (k : Walker) : (s.setTlb l k).bWf := by
  cases k <;> exact State.bWf_congr rfl h

theorem State.bWf_kilnWrite {w : Nat} {s : State} (h : s.bWf) (o : Nat) (x : BitVec w) (pa k : Nat) :
    (s.kilnWrite o x pa k).bWf := by
  have hk : (s.kilnOp o pa).bWf := State.bWf_congr (State.memB_cross ..) h
  exact State.bWf_markSector (State.bWf_congr (State.memB_joinOrder _ _ _ _ _) (State.bWf_bWrite hk _ _ _ _)) _ _

theorem State.bWf_pushFrame {s : State} (h : s.bWf) (o stack f : Nat) (va : Word) (n : Nat) : (s.pushFrame o stack f va n).bWf := by
  unfold State.pushFrame
  dsimp only
  split
  · exact State.bWf_kilnWrite (State.bWf_kilnWrite h _ _ _ _) _ _ _ _
  · exact State.bWf_congr (t := s.kilnOp o stack) (State.memB_cross ..) h

end Sys2Proof.Machine
end

