-- ==== Sys2Proof/Laws/Ops.lean ====
section
/-!
SUPPORT. What each shared operation can do, said once: event rows, encoded instructions under their guard, taking a trap,
returning from one, the passing of time, and a step.
-/
namespace Sys2Proof.Machine

/-! ### Event rows -/

/-- An event row answers a next state exactly when its move is enabled. -/
theorem event_next {name : String} {m : Option State} {t : State} : event name m = .next t ↔ m = some t := by
  cases m <;> simp [event]

/-- It never faults. -/
theorem event_no_fault (name : String) (m : Option State) (r : Fault) : event name m ≠ .fault r := by
  cases m <;> simp [event]

@[simp] theorem onlyIf_some {b : Bool} {s t : State} : onlyIf b s = some t ↔ b = true ∧ s = t := by
  cases b <;> simp [onlyIf]

/-! ### Encoded instructions -/

@[simp] theorem Act.finish_done (n : Nat) (s : State) :
    (Act.done s).finish n = s.updCore n fun c => { c with pc := c.pc + 4, hints := [], begun := false } := rfl
@[simp] theorem Act.finish_jump (n : Nat) (s : State) (t : Word) :
    (Act.jump s t).finish n = s.updCore n fun c => { c with pc := t, hints := [], ahead := [], begun := false } := rfl
@[simp] theorem Act.finish_stall (n : Nat) (s : State) : (Act.stall s).finish n = s := rfl
@[simp] theorem Act.finish_left (n : Nat) (s : State) : (Act.left s).finish n = s := rfl
@[simp] theorem Act.finish_trap (n : Nat) (s : State) (cause : BitVec 8) (info : Word) :
    (Act.trap s cause info).finish n = s.raiseTrap n cause info (s.core n).chainStart := rfl

/-- A scalar instruction whose guard holds. -/
theorem scalarOp_on {gd : Guard} {s : State} (h : (s.core s.cur).on gd = true) (f : State → Nat → Act) :
    scalarOp gd s f = .next ((f s s.cur).finish s.cur) := by simp [scalarOp, h]

/-- A scalar instruction whose guard fails only lets the core go on (R13). -/
theorem scalarOp_off {gd : Guard} {s : State} (h : (s.core s.cur).on gd = false) (f : State → Nat → Act) :
    scalarOp gd s f = .next (s.nextWord s.cur) := by simp [scalarOp, h, State.nextWord]

/-- An instruction that only changes registers of its core. -/
theorem regOp_on {gd : Guard} {s : State} (h : (s.core s.cur).on gd = true) (f : Core → Core) :
    regOp gd s f = .next ((s.updCore s.cur f).nextWord s.cur) := by
  rw [regOp, scalarOp_on h]; rfl

/-- A privileged instruction in supervisor mode. -/
theorem privOp_sup {s : State} (h : (s.core s.cur).sup = true) (i : Instr) (gd : Guard) (f : State → Nat → Act) :
    privOp i gd s f = scalarOp gd s f := by simp [privOp, h]

/-- A privileged instruction in user mode takes trap 0x02 (R171 step 6). -/
theorem privOp_user {s : State} (h : (s.core s.cur).sup = false) (i : Instr) (gd : Guard) (f : State → Nat → Act) :
    privOp i gd s f =
      .next (s.raiseTrap s.cur 0x02 (illegalInfo 7 (encodeWord i)) (s.core s.cur).chainStart) := by
  simp [privOp, h]

/-! ### Traps (R277 to R279) -/

/-- With no trap waiting at an instruction that has not been woken, the trap raised is the one taken. -/
theorem State.raiseTrap_eq {s : State} {n : Nat} (h : (s.core n).pending = none) (hb : (s.core n).begun = false) (cause : BitVec 8)
    (info pc : Word) : s.raiseTrap n cause info pc = s.takeTrap n cause info pc := by simp [State.raiseTrap, State.giveUp, h, hb]

/-- A trap in user mode with a supervisor entry, of no state-transfer handler: the trap registers are written, SUP is 1, and the
core goes on there. -/
theorem State.takeTrap_user {s : State} {n : Nat} (hu : (s.core n).sup = false) (he : Vd.trapEnt (s.vdOf n) ≠ 0)
    (hx : (s.core n).handler.bind Handler.transfer = none) (cause : BitVec 8) (info pc : Word) :
    s.takeTrap n cause info pc = s.setCore n { s.core n with
      trapCause := cause, trapInfo := info, trapPc := pc &&& 0x000FFFFFFFFFFFFC, hold := .none, rangeAt := 0, begun := false
      hints := [], pending := none, pushRec := none, sup := true, supCount := 0, supCause := cause, pc := Vd.trapEnt (s.vdOf n)
      ahead := [] } := by
  simp only [State.takeTrap, hu, he, hx, if_false, Bool.false_eq_true, Option.isSome_none, decide_false, Bool.or_self]
  simp only [State.updCore, State.core_setCore_same]
  have put2 : ∀ (k : Nat) (x y : Core) (l : Store Core), Store.put k x (Store.put k y l) = Store.put k x l := by
    intro k x y l
    induction l with
    | nil => simp [Store.put]
    | cons c l ih =>
      obtain ⟨j, z⟩ := c
      by_cases h1 : k < j
      · simp [Store.put, h1]
      · by_cases h2 : j = k
        · subst h2; simp [Store.put]
        · simp [Store.put, h1, h2, ih]
  simp only [State.setCore, put2]

/-- A trap in supervisor mode is a double trap: the context is killed (R278). -/
theorem State.takeTrap_double {s : State} {n : Nat} (hs : (s.core n).sup = true) (cause : BitVec 8) (info pc : Word) :
    s.takeTrap n cause info pc =
      (s.killOwner (s.core n).own).report 0x08 (s.core n).supCause.toNat (some (s.core n).own) 0 n (cause.setWidth 64)
        true := by simp [State.takeTrap, hs]

/-- A return from a trap that another chain may follow (R279). -/
theorem State.returnFromTrap_eq {s : State} {n : Nat} (h6 : (s.core n).trapCause ≠ 0x06) (h9 : (s.core n).trapCause ≠ 0x09)
    (hp : (s.core n).trapPc &&& 0x000FFFFFFFFFFFFC ≠ 0) :
    s.returnFromTrap n =
      s.setCore n { s.core n with sup := false, hints := [], pc := (s.core n).trapPc, ahead := [] } := by
  simp only [State.returnFromTrap]
  rw [if_neg (by simpa only [Bool.or_eq_true, decide_eq_true_eq, not_or] using ⟨⟨h6, h9⟩, hp⟩)]

/-! ### Steps -/

/-- A step's cycles pass in the state its move leads to. -/
theorem ticked_next {o : Outcome} {u : State} : ticked o = .next u ↔ ∃ t, o = .next t ∧ u = t.tick := by
  cases o <;> simp [ticked, eq_comm]

/-- An issue is marked in `waited` only. -/
theorem markIssued_next {s : State} {o : Outcome} {u : State} :
    markIssued s o = .next u ↔ ∃ t, o = .next t ∧ u = s.issued t := by
  cases o <;> simp [markIssued, eq_comm]

/-- Everything a step can do: it counts the corrections, makes the move asked for, or the machine's own, and cycles pass. -/
theorem step_cases {s t : State} (h : step s = .next t) :
    ∃ u, t = u.tick ∧
      ((∃ i rest, s.agenda = i :: rest ∧ i.hasWord = false ∧ exec i { s.correct with agenda := rest } = .next u) ∨
        (s.agenda = [] ∧ s.correct.ownMove = .next u)) := by
  simp only [step, State.advance] at h
  obtain ⟨u, hu, rfl⟩ := ticked_next.mp h
  refine ⟨u, rfl, ?_⟩
  split at hu
  · rename_i i rest ha
    simp only [State.agendaMove] at hu
    split at hu
    · cases hu
    · rename_i hw; exact .inl ⟨i, rest, ha, by simpa using hw, hu⟩
  · rename_i ha; exact .inr ⟨ha, hu⟩

/-- Time leaves image B alone. -/
theorem State.tick_memB (s : State) : s.tick.memB = s.memB := by
  have h : ∀ (l : List Nat) (t : State), (l.foldl (fun (t : State) i =>
      t.updIsland i fun x => { x with cycles := x.cycles + BitVec.ofNat 64 (s.delta i) }) t).memB = t.memB := by
    intro l
    induction l with
    | nil => intro t; rfl
    | cons a l ih => intro t; rw [List.foldl_cons, ih, State.updIsland_memB]
  unfold State.tick
  extract_lets u
  have hu : u.memB = s.memB := h (List.range 48) s
  clear_value u
  exact hu

/-! ### Requests at arbitration points -/

/-- A request that goes on to its next point changes nothing but the list of requests on their way. -/
theorem State.goOn_eq (s : State) (x : Traffic) : ∃ l, s.goOn x = { s with traffic := l } := by
  unfold State.goOn; split
  · exact ⟨_, rfl⟩
  · exact ⟨_, rfl⟩

/-- A grant to a requester that is no core, at a point other than a bank scheduler, changes nothing else. -/
theorem State.grantAccess_eq {s : State} {k i who : Nat} (h : s.granted k i who = none) (hk : k ≠ 4) :
    ∃ l, s.grantAccess k i who = { s with traffic := l } := by
  unfold State.grantAccess
  rw [h]
  cases s.grantedCross k i who with
  | none => exact ⟨s.traffic, rfl⟩
  | some x => simpa [hk] using s.goOn_eq x

/-! ### Choices, the coherence order, share breaks -/

/-- A choice uses up the next entry of the list, and changes nothing else. -/
theorem State.choose_eq (s : State) : s.choose = (s.choices.headD 0, { s with choices := s.choices.tail }) := by
  unfold State.choose
  split
  · rename_i h; simp [h]
  · rename_i h; cases s; simp_all

/-- An engine that chooses not to read ahead makes the next move of its row or run (R91, R92). -/
theorem State.readAhead_none {s : State} (h : s.choices.headD 0 = 0) (later : Nat → Option Nat) (rd : State → Nat → Eng Unit)
    (next : State → Eng Unit) : s.readAhead later rd next = next { s with choices := s.choices.tail } := by
  rw [State.readAhead, State.choose_eq, h]

/-- A write that joins the coherence order changes no contents. -/
theorem State.joinOrder_eq (s : State) (d : Dest) (o pa n : Nat) :
    s.joinOrder d o pa n = { s with coherence := s.coherence ++ [⟨d, pa, n, o⟩] } := rfl

/-- A share break that makes a step, or ends, changes only the list of breaks. -/
theorem State.setBreak_eq (s : State) (b : Break) (x : BreakStep) : ∃ l, s.setBreak b x = { s with breaks := l } := ⟨_, rfl⟩
theorem State.endBreak_eq (s : State) (b : Break) : ∃ l, s.endBreak b = { s with breaks := l } := ⟨_, rfl⟩

/-! ### A word that gives up its slot -/

/-- A word that was not woken holds no slot, so that its trap gives none up. -/
@[simp] theorem State.giveUp_of_fresh {s : State} {n : Nat} (h : (s.core n).begun = false) : s.giveUp n = s := by
  simp [State.giveUp, h]

/-- Giving up a slot changes only the cores' requests at ports and the slots kept for them. -/
theorem State.unwait_eq (s : State) (who : Nat) : ∃ l, s.unwait who = { s with cores := l } := by
  unfold State.unwait; split <;> exact ⟨_, rfl⟩

/-- Issue runs the dispatch's meaning of every instruction that has a word. -/
theorem runInstr_eq_exec (i : Instr) (s : State) : i.hasWord = true → runInstr i s = exec i s := by
  apply Instr.casesOn (motive := fun i => i.hasWord = true → runInstr i s = exec i s) i
  all_goals intros
  all_goals first | rfl | exact absurd (by assumption) Bool.false_ne_true

end Sys2Proof.Machine
end

