-- ==== Sys2Proof/Tests/Slice0.lean ====
section
/-!
SUPPORT. Tests of single words and single steps, with results taken from the spec, and for every claim a state and operands
that meet its hypotheses.
-/
namespace Sys2Proof.Tests
open Sys2Proof Sys2Proof.Machine Sys2Proof.Claims
set_option Elab.async false

/-! ### Helpers -/

/-- A handler of `core`. -/
def handler : Handler := ⟨0, 2, 0x400, 0x1000, 0, false, none, [], 0x400000, 0⟩
/-- A ring of 8 slots of a core's plate, with no record. -/
def ring : Ring := { Ring.free with log2n := 3, base := 16 }
/-- A core that runs a handler of owner 1, with an inbox, a ready ring and a program ring of eight slots each. -/
def core : Core := { Core.reset with
  ctx := some 1, pc := 0x1000, chainPc := 0x1000, handler := some handler
  rings := ((Core.reset.rings.set 0 { ring with base := 32 }).set 1 { ring with base := 40 }).set 2 { ring with base := 16, tail := 1, disp := 1 } }
/-- The module with that core, changed by `f`. -/
def with_ (f : Core → Core) : State := { State.reset with cores := [(0, f core)] }
/-- The outcome is a next state that `p` accepts. -/
def after (o : Host.Outcome State Fault Refusal) (p : State → Bool) : Bool :=
  match o with
  | .next t => p t
  | _ => false

/-! ### WellFormed -/

theorem test_wf_refuses :
    Instr.wf (.sel .none 0 16 0 0) = false ∧ Instr.wf (.cmp .none 16 0 0 0 0 0) = false ∧
    Instr.wf (.cmp .none 0 0 0 0 0 6) = false ∧ Instr.wf (.cmpImm .none 0 0 7 0 0) = false ∧
    Instr.wf (.cmpImm .none 16 0 0 0 0) = false ∧ Instr.wf (.pand .none 0 16 0) = false ∧
    Instr.wf (.por .none 0 0 16) = false ∧ Instr.wf (.pxor .none 16 0 0) = false ∧
    Instr.wf (.pnot .none 0 16) = false ∧ Instr.wf (.pset .none 16) = false ∧ Instr.wf (.pclr .none 31) = false ∧
    Instr.wf (.pins .none 0 0 4) = false ∧ Instr.wf (.pins .none 16 0 0) = false ∧ Instr.wf (.pext .none 0 0 4) = false ∧
    Instr.wf (.pext .none 0 16 0) = false ∧ Instr.wf (.pcnt .none 0 16) = false ∧ Instr.wf (.rdctl .none 0 8) = false ∧
    Instr.wf (.wrctl .none 0 0x1F) = false := by decide

theorem test_wf_refuses_memory_and_vector :
    Instr.wf (.ldAcq .none 0 0 0 5) = false ∧ Instr.wf (.stRel .none 0 0 0 7) = false ∧ Instr.wf (.fence .none 5) = false ∧
    Instr.wf (.fenceAll .none 5) = false ∧ Instr.wf (.vcmp .none 16 0 0 0 0) = false ∧
    Instr.wf (.vcmp .none 0 0 0 0 6) = false ∧ Instr.wf (.vcvt .none 0 0 0 14) = false ∧
    Instr.wf (.vcvn .none 1 0 2 7) = false ∧ Instr.wf (.vcvn .none 1 0 2 13) = false ∧
    Instr.wf (.vcvn .none 2 0 2 9) = false ∧ Instr.wf (.vpack6 .none 2 0 2) = false ∧
    Instr.wf (.fmtld .none 8 0) = false ∧ Instr.wf (.fmtrd .none 0 8) = false ∧ Instr.wf (.claim .none 0 1 16) = false ∧
    Instr.wf (.vrelease .none 0 1 16) = false := by decide

theorem test_wf_refuses_trees_hints_and_moves :
    Instr.wf (.wclr .none 8 0) = false ∧ Instr.wf (.wget .none 3 0 0) = false ∧ Instr.wf (.wsum .none 0 0) = false ∧
    Instr.wf (.wpre .none 2 8 0) = false ∧ Instr.wf (.wdraw .none 31 0) = false ∧ Instr.wf (.wst .none 0 8 0) = false ∧
    Instr.wf (.pdrop .none 16 0) = false ∧ Instr.wf (.rmode 6) = false ∧ Instr.wf (.cpol 3) = false ∧
    Instr.wf (.order 0x00) = false ∧ Instr.wf (.order 0x0D) = false ∧ Instr.wf (.etype 14) = false ∧
    Instr.wf (.etype 0x8000) = false ∧ Instr.wf (.arbitrationSlot 10 0) = false ∧ Instr.wf (.frequencyChange 32 0) = false ∧
    Instr.wf (.commitVdEntry 64) = false ∧ Instr.wf (.correctedCounterClear 21) = false ∧
    Instr.wf (.thermalThrottle 48) = false := by decide

/-! ### Words, with the fields of R150 and R157 to R170 written in: guard (p3), d 6, a 3, b 5, and a value for each other -/

theorem test_words_major_01 :
    decode 0x8C130CB0 = .ok (.add64 (.pos 3) 6 3 5 1) ∧
    decode 0x8C130CB1 = .ok (.sub64 (.pos 3) 6 3 5 1) ∧
    decode 0x8C130CB2 = .ok (.and64 (.pos 3) 6 3 5 1) ∧
    decode 0x8C130CB3 = .ok (.or64 (.pos 3) 6 3 5 1) ∧
    decode 0x8C130CB4 = .ok (.xor64 (.pos 3) 6 3 5 1) ∧
    decode 0x8C130CB5 = .ok (.andn64 (.pos 3) 6 3 5 1) ∧
    decode 0x8C130CB6 = .ok (.shl64 (.pos 3) 6 3 5 1) ∧
    decode 0x8C130CB7 = .ok (.shr64 (.pos 3) 6 3 5 1) ∧
    decode 0x8C130CB8 = .ok (.rotl64 (.pos 3) 6 3 5 1) ∧
    decode 0x8C130CB9 = .ok (.rotr64 (.pos 3) 6 3 5 1) ∧
    decode 0x8C130CBA = .ok (.min64 (.pos 3) 6 3 5 1) ∧
    decode 0x8C130CBB = .ok (.max64 (.pos 3) 6 3 5 1) ∧
    decode 0x8C130C1C = .ok (.popc64 (.pos 3) 6 3 1) ∧
    decode 0x8C130C1D = .ok (.clz64 (.pos 3) 6 3 1) ∧
    decode 0x8C130C1E = .ok (.ctz64 (.pos 3) 6 3 1) := by decide

theorem test_words_major_02 :
    decode 0x8C230CB0 = .ok (.add32 (.pos 3) 6 3 5 1) ∧
    decode 0x8C230CB1 = .ok (.sub32 (.pos 3) 6 3 5 1) ∧
    decode 0x8C230CB2 = .ok (.and32 (.pos 3) 6 3 5 1) ∧
    decode 0x8C230CB3 = .ok (.or32 (.pos 3) 6 3 5 1) ∧
    decode 0x8C230CB4 = .ok (.xor32 (.pos 3) 6 3 5 1) ∧
    decode 0x8C230CB5 = .ok (.andn32 (.pos 3) 6 3 5 1) ∧
    decode 0x8C230CB6 = .ok (.shl32 (.pos 3) 6 3 5 1) ∧
    decode 0x8C230CB7 = .ok (.shr32 (.pos 3) 6 3 5 1) ∧
    decode 0x8C230CB8 = .ok (.rotl32 (.pos 3) 6 3 5 1) ∧
    decode 0x8C230CB9 = .ok (.rotr32 (.pos 3) 6 3 5 1) ∧
    decode 0x8C230CBA = .ok (.min32 (.pos 3) 6 3 5 1) ∧
    decode 0x8C230CBB = .ok (.max32 (.pos 3) 6 3 5 1) ∧
    decode 0x8C230C1C = .ok (.popc32 (.pos 3) 6 3 1) ∧
    decode 0x8C230C1D = .ok (.clz32 (.pos 3) 6 3 1) ∧
    decode 0x8C230C1E = .ok (.ctz32 (.pos 3) 6 3 1) := by decide

theorem test_words_major_03 :
    decode 0x8C330CB0 = .ok (.mul64 (.pos 3) 6 3 5 1) ∧
    decode 0x8C330CB1 = .ok (.mulh64 (.pos 3) 6 3 5 1) ∧
    decode 0x8C330CB2 = .ok (.div64 (.pos 3) 6 3 5 1) ∧
    decode 0x8C330CB3 = .ok (.rem64 (.pos 3) 6 3 5 1) ∧
    decode 0x8C330CB8 = .ok (.mul32 (.pos 3) 6 3 5 1) ∧
    decode 0x8C330CB9 = .ok (.mulh32 (.pos 3) 6 3 5 1) ∧
    decode 0x8C330CBA = .ok (.div32 (.pos 3) 6 3 5 1) ∧
    decode 0x8C330CBB = .ok (.rem32 (.pos 3) 6 3 5 1) := by decide

theorem test_words_major_04_to_06 :
    decode 0x8C430CA7 = .ok (.sel (.pos 3) 6 3 5 7) ∧
    decode 0x8C530E05 = .ok (.addImm (.pos 3) 6 3 517) ∧
    decode 0x8C630C25 = .ok (.shlImm (.pos 3) 6 3 37) ∧
    decode 0x8C630C65 = .ok (.shrN64Imm (.pos 3) 6 3 37) ∧
    decode 0x8C630CA5 = .ok (.shrI64Imm (.pos 3) 6 3 37) ∧
    decode 0x8C630CE5 = .ok (.rotlImm (.pos 3) 6 3 37) ∧
    decode 0x8C630D25 = .ok (.andImm (.pos 3) 6 3 37) ∧
    decode 0x8C630D65 = .ok (.orImm (.pos 3) 6 3 37) ∧
    decode 0x8C630DA5 = .ok (.xorImm (.pos 3) 6 3 37) := by decide

theorem test_words_major_07_to_0b :
    decode 0x8C734005 = .ok (.li (.pos 3) 6 16389) ∧
    decode 0x8C834005 = .ok (.lsi (.pos 3) 6 16389) ∧
    decode 0x8C930CBB = .ok (.cmp (.pos 3) 6 3 5 1 1 3) ∧
    decode 0x8CA30DE5 = .ok (.cmpImm (.pos 3) 6 3 3 1 37) ∧
    decode 0x8CB30CA0 = .ok (.pand (.pos 3) 6 3 5) ∧
    decode 0x8CB30CA1 = .ok (.por (.pos 3) 6 3 5) ∧
    decode 0x8CB30CA2 = .ok (.pxor (.pos 3) 6 3 5) ∧
    decode 0x8CB30CA3 = .ok (.pandn (.pos 3) 6 3 5) ∧
    decode 0x8CB30CA4 = .ok (.porn (.pos 3) 6 3 5) ∧
    decode 0x8CB30C05 = .ok (.pnot (.pos 3) 6 3) ∧
    decode 0x8CB30006 = .ok (.pset (.pos 3) 6) ∧
    decode 0x8CB30007 = .ok (.pclr (.pos 3) 6) ∧
    decode 0x8CB30C68 = .ok (.pins (.pos 3) 6 3 3) ∧
    decode 0x8CB30C49 = .ok (.pext (.pos 3) 6 3 2) ∧
    decode 0x8CB30C0A = .ok (.pcnt (.pos 3) 6 3) ∧
    decode 0x8CB30050 = .ok (.rdctl (.pos 3) 6 2) ∧
    decode 0x8CB30211 = .ok (.wrctl (.pos 3) 6 16) := by decide

theorem test_words_major_10_to_18 :
    decode 0x8D080005 = .ok (.br (.pos 3) 524293) ∧
    decode 0x8D180005 = .ok (.jal (.pos 3) 524293) ∧
    decode 0x8D230E05 = .ok (.jalr (.pos 3) 6 3 517) ∧
    decode 0x8D300000 = .ok (.endH (.pos 3)) ∧
    decode 0x8D300001 = .ok (.yieldH (.pos 3)) ∧
    decode 0x8D830C45 = .ok (.ldB (.pos 3) 6 3 69) ∧
    decode 0x8D830CC5 = .ok (.ldH (.pos 3) 6 3 69) ∧
    decode 0x8D830D45 = .ok (.ldW (.pos 3) 6 3 69) ∧
    decode 0x8D830DC5 = .ok (.ldD (.pos 3) 6 3 69) ∧
    decode 0x8D830E45 = .ok (.ldBS (.pos 3) 6 3 69) ∧
    decode 0x8D830EC5 = .ok (.ldHS (.pos 3) 6 3 69) ∧
    decode 0x8D830F45 = .ok (.ldWS (.pos 3) 6 3 69) := by decide

theorem test_words_major_19_to_1a :
    decode 0x8D930C45 = .ok (.stB (.pos 3) 6 3 69) ∧
    decode 0x8D930CC5 = .ok (.stH (.pos 3) 6 3 69) ∧
    decode 0x8D930D45 = .ok (.stW (.pos 3) 6 3 69) ∧
    decode 0x8D930DC5 = .ok (.stD (.pos 3) 6 3 69) ∧
    decode 0x8DA30D30 = .ok (.ldAcq (.pos 3) 6 3 2 3) ∧
    decode 0x8DA30F30 = .ok (.stRel (.pos 3) 6 3 2 3) := by decide

theorem test_words_major_1b :
    decode 0x8DB30C65 = .ok (.ldff (.pos 3) 6 3 1 37) ∧
    decode 0x8DB30CE5 = .ok (.ldfe (.pos 3) 6 3 1 37) ∧
    decode 0x8DB30D65 = .ok (.fet (.pos 3) 6 3 1 37) ∧
    decode 0x8DB30E65 = .ok (.stef (.pos 3) 6 3 1 37) ∧
    decode 0x8DB30EE5 = .ok (.stxf (.pos 3) 6 3 1 37) ∧
    decode 0x8DB30F65 = .ok (.stxe (.pos 3) 6 3 1 37) := by decide

theorem test_words_major_1c :
    decode 0x8DC30CA0 = .ok (.aswapD (.pos 3) 6 3 5) ∧
    decode 0x8DC30CA1 = .ok (.acasD (.pos 3) 6 3 5) ∧
    decode 0x8DC30CA2 = .ok (.aadd64 (.pos 3) 6 3 5) ∧
    decode 0x8DC30CA3 = .ok (.aandD (.pos 3) 6 3 5) ∧
    decode 0x8DC30CA4 = .ok (.aorD (.pos 3) 6 3 5) ∧
    decode 0x8DC30CA5 = .ok (.axorD (.pos 3) 6 3 5) ∧
    decode 0x8DC30CA6 = .ok (.aminI64 (.pos 3) 6 3 5) ∧
    decode 0x8DC30CA7 = .ok (.amaxI64 (.pos 3) 6 3 5) ∧
    decode 0x8DC30CA8 = .ok (.aminN64 (.pos 3) 6 3 5) ∧
    decode 0x8DC30CA9 = .ok (.amaxN64 (.pos 3) 6 3 5) ∧
    decode 0x8DC30CAA = .ok (.aadd32 (.pos 3) 6 3 5) ∧
    decode 0x8DC30CAB = .ok (.aswapW (.pos 3) 6 3 5) ∧
    decode 0x8DC30CAC = .ok (.acasW (.pos 3) 6 3 5) ∧
    decode 0x8DC30CAD = .ok (.adecw (.pos 3) 6 3 5) ∧
    decode 0x8DC30CAE = .ok (.aaddF32 (.pos 3) 6 3 5) ∧
    decode 0x8DC30CAF = .ok (.aaddF64 (.pos 3) 6 3 5) ∧
    decode 0x8DC01872 = .ok (.qadd64 (.pos 3) 6 3) ∧
    decode 0x8DC01873 = .ok (.qandD (.pos 3) 6 3) ∧
    decode 0x8DC01874 = .ok (.qorD (.pos 3) 6 3) ∧
    decode 0x8DC01875 = .ok (.qxorD (.pos 3) 6 3) ∧
    decode 0x8DC01876 = .ok (.qminI64 (.pos 3) 6 3) ∧
    decode 0x8DC01877 = .ok (.qmaxI64 (.pos 3) 6 3) ∧
    decode 0x8DC01878 = .ok (.qminN64 (.pos 3) 6 3) ∧
    decode 0x8DC01879 = .ok (.qmaxN64 (.pos 3) 6 3) ∧
    decode 0x8DC0187A = .ok (.qadd32 (.pos 3) 6 3) ∧
    decode 0x8DC0187D = .ok (.qdecw (.pos 3) 6 3) ∧
    decode 0x8DC0187E = .ok (.qaddF32 (.pos 3) 6 3) ∧
    decode 0x8DC0187F = .ok (.qaddF64 (.pos 3) 6 3) := by decide

theorem test_words_major_1d :
    decode 0x8DD20000 = .ok (.fence (.pos 3) 4) ∧
    decode 0x8DD20001 = .ok (.fenceAll (.pos 3) 4) ∧
    decode 0x8DD01862 = .ok (.cleanRange (.pos 3) 6 3) ∧
    decode 0x8DD01863 = .ok (.invalRange (.pos 3) 6 3) ∧
    decode 0x8DD01864 = .ok (.flushRange (.pos 3) 6 3) ∧
    decode 0x8DD01865 = .ok (.icsync (.pos 3) 6 3) ∧
    decode 0x8DD01866 = .ok (.icinvRange (.pos 3) 6 3) := by decide

theorem test_words_major_1e_to_20 :
    decode 0x8DE01860 = .ok (.send (.pos 3) 6 3) ∧
    decode 0x8DE01861 = .ok (.rpush (.pos 3) 6 3) ∧
    decode 0x8DE30CA2 = .ok (.rpop (.pos 3) 6 3 5) ∧
    decode 0x8DE30063 = .ok (.rpeek (.pos 3) 6 3) ∧
    decode 0x8DE01864 = .ok (.aldD (.pos 3) 6 3) ∧
    decode 0x8E030C02 = .ok (.vld (.pos 3) 6 3 2) ∧
    decode 0x8E030CA6 = .ok (.vlds (.pos 3) 6 3 5 2) ∧
    decode 0x8E030CAA = .ok (.vldx (.pos 3) 6 3 5 2) ∧
    decode 0x8E030C12 = .ok (.vst (.pos 3) 6 3 2) ∧
    decode 0x8E030CB6 = .ok (.vsts (.pos 3) 6 3 5 2) ∧
    decode 0x8E030CBA = .ok (.vstx (.pos 3) 6 3 5 2) := by decide

theorem test_words_major_21 :
    decode 0x8E130CB0 = .ok (.vaddFp (.pos 3) 6 3 5 2) ∧
    decode 0x8E130CB1 = .ok (.vsubFp (.pos 3) 6 3 5 2) ∧
    decode 0x8E130CB2 = .ok (.vmulFp (.pos 3) 6 3 5 2) ∧
    decode 0x8E130CB3 = .ok (.vdiv (.pos 3) 6 3 5 2) ∧
    decode 0x8E130CB4 = .ok (.vminFp (.pos 3) 6 3 5 2) ∧
    decode 0x8E130CB5 = .ok (.vmaxFp (.pos 3) 6 3 5 2) ∧
    decode 0x8E130C16 = .ok (.vsqrt (.pos 3) 6 3 2) ∧
    decode 0x8E130C17 = .ok (.vabsFp (.pos 3) 6 3 2) := by decide

theorem test_words_major_22_to_23 :
    decode 0x8E230CA7 = .ok (.vfma (.pos 3) 6 3 5 7) ∧
    decode 0x8E330CB0 = .ok (.vaddInt (.pos 3) 6 3 5 1) ∧
    decode 0x8E330CB1 = .ok (.vsubInt (.pos 3) 6 3 5 1) ∧
    decode 0x8E330CB2 = .ok (.vmulInt (.pos 3) 6 3 5 1) ∧
    decode 0x8E330CB3 = .ok (.vmulh (.pos 3) 6 3 5 1) ∧
    decode 0x8E330CB4 = .ok (.vminInt (.pos 3) 6 3 5 1) ∧
    decode 0x8E330CB5 = .ok (.vmaxInt (.pos 3) 6 3 5 1) ∧
    decode 0x8E330CB6 = .ok (.vand (.pos 3) 6 3 5 1) ∧
    decode 0x8E330CB7 = .ok (.vor (.pos 3) 6 3 5 1) ∧
    decode 0x8E330CB8 = .ok (.vxor (.pos 3) 6 3 5 1) ∧
    decode 0x8E330CB9 = .ok (.vandn (.pos 3) 6 3 5 1) ∧
    decode 0x8E330CBA = .ok (.vshl (.pos 3) 6 3 5 1) ∧
    decode 0x8E330CBB = .ok (.vshr (.pos 3) 6 3 5 1) ∧
    decode 0x8E330CBC = .ok (.vrotl (.pos 3) 6 3 5 1) ∧
    decode 0x8E330C0D = .ok (.vabsInt (.pos 3) 6 3) ∧
    decode 0x8E330CBE = .ok (.vadds (.pos 3) 6 3 5 1) ∧
    decode 0x8E330CBF = .ok (.vsubs (.pos 3) 6 3 5 1) := by decide

theorem test_words_major_24_to_26 :
    decode 0x8E430CB3 = .ok (.vcmp (.pos 3) 6 3 5 1 3) ∧
    decode 0x8E530CA9 = .ok (.vcvt (.pos 3) 6 3 5 9) ∧
    decode 0x8E530CB9 = .ok (.vcvn (.pos 3) 6 3 5 9) ∧
    decode 0x8E630C00 = .ok (.vrsum (.pos 3) 6 3) ∧
    decode 0x8E630C01 = .ok (.vrmin (.pos 3) 6 3) ∧
    decode 0x8E630C02 = .ok (.vrmax (.pos 3) 6 3) ∧
    decode 0x8E630C03 = .ok (.vrand (.pos 3) 6 3) ∧
    decode 0x8E630C04 = .ok (.vror (.pos 3) 6 3) ∧
    decode 0x8E630C05 = .ok (.vrxor (.pos 3) 6 3) ∧
    decode 0x8E630C10 = .ok (.vssum (.pos 3) 6 3) ∧
    decode 0x8E630C11 = .ok (.vsmin (.pos 3) 6 3) ∧
    decode 0x8E630C12 = .ok (.vsmax (.pos 3) 6 3) ∧
    decode 0x8E630C13 = .ok (.vsand (.pos 3) 6 3) ∧
    decode 0x8E630C14 = .ok (.vsor (.pos 3) 6 3) ∧
    decode 0x8E630C15 = .ok (.vsxor (.pos 3) 6 3) := by decide

theorem test_words_major_27 :
    decode 0x8E730C00 = .ok (.vbcast (.pos 3) 6 3) ∧
    decode 0x8E730CA1 = .ok (.vslideup (.pos 3) 6 3 5) ∧
    decode 0x8E730CA2 = .ok (.vslidedn (.pos 3) 6 3 5) ∧
    decode 0x8E730CA3 = .ok (.vperm (.pos 3) 6 3 5) ∧
    decode 0x8E730C04 = .ok (.vmov (.pos 3) 6 3) ∧
    decode 0x8E730CA5 = .ok (.vext (.pos 3) 6 3 5) ∧
    decode 0x8E730CA6 = .ok (.vins (.pos 3) 6 3 5) ∧
    decode 0x8E730CA7 = .ok (.vpack6 (.pos 3) 6 3 5) ∧
    decode 0x8E730CA8 = .ok (.vunp6 (.pos 3) 6 3 5) ∧
    decode 0x8E730C09 = .ok (.vpack4 (.pos 3) 6 3) ∧
    decode 0x8E730C0A = .ok (.vunp4 (.pos 3) 6 3) ∧
    decode 0x8E73000B = .ok (.vidx (.pos 3) 6) ∧
    decode 0x8E730C0C = .ok (.fmtld (.pos 3) 6 3) ∧
    decode 0x8E730C0D = .ok (.fmtrd (.pos 3) 6 3) := by decide

theorem test_words_major_28_to_29 :
    decode 0x8E830C10 = .ok (.vrcp (.pos 3) 6 3 2) ∧
    decode 0x8E830C11 = .ok (.vrsqrt (.pos 3) 6 3 2) ∧
    decode 0x8E830C12 = .ok (.vexp2 (.pos 3) 6 3 2) ∧
    decode 0x8E830C13 = .ok (.vlog2 (.pos 3) 6 3 2) ∧
    decode 0x8E930040 = .ok (.claim (.pos 3) 6 0 64) ∧
    decode 0x8E930240 = .ok (.vrelease (.pos 3) 6 0 64) := by decide

theorem test_words_major_30_to_31 :
    decode 0x8F030C00 = .ok (.mjob (.pos 3) 6 3) ∧
    decode 0x8F030C01 = .ok (.cjob (.pos 3) 6 3) ∧
    decode 0x8F030C02 = .ok (.coll (.pos 3) 6 3) ∧
    decode 0x8F001803 = .ok (.jcancel (.pos 3) 6) ∧
    decode 0x8F130C00 = .ok (.jpoll (.pos 3) 6 3) ∧
    decode 0x8F130C01 = .ok (.jwait (.pos 3) 6 3) := by decide

theorem test_words_major_32_to_33 :
    decode 0x8F230C00 = .ok (.subs (.pos 3) 6 3) ∧
    decode 0x8F230C01 = .ok (.rack (.pos 3) 6 3) ∧
    decode 0x8F201802 = .ok (.unsubs (.pos 3) 6) ∧
    decode 0x8F201803 = .ok (.unrack (.pos 3) 6) ∧
    decode 0x8F301800 = .ok (.aclr (.pos 3) 6) ∧
    decode 0x8F330CA1 = .ok (.ardr (.pos 3) 6 3 5) ∧
    decode 0x8F330CA2 = .ok (.awrr (.pos 3) 6 3 5) := by decide

theorem test_words_major_34 :
    decode 0x8F430C00 = .ok (.wclr (.pos 3) 6 3) ∧
    decode 0x8F430CA1 = .ok (.wld (.pos 3) 6 3 5) ∧
    decode 0x8F430CA2 = .ok (.wldv (.pos 3) 6 3 5) ∧
    decode 0x8F430CA3 = .ok (.wset (.pos 3) 6 3 5) ∧
    decode 0x8F430CA4 = .ok (.wadd (.pos 3) 6 3 5) ∧
    decode 0x8F430C05 = .ok (.wexp (.pos 3) 6 3) ∧
    decode 0x8F430C06 = .ok (.wcut (.pos 3) 6 3) ∧
    decode 0x8F430C07 = .ok (.wuncut (.pos 3) 6 3) := by decide

theorem test_words_major_35 :
    decode 0x8F530CA0 = .ok (.wget (.pos 3) 6 3 5) ∧
    decode 0x8F530C01 = .ok (.wsum (.pos 3) 6 3) ∧
    decode 0x8F530CA2 = .ok (.wpre (.pos 3) 6 3 5) ∧
    decode 0x8F530CA3 = .ok (.wfind (.pos 3) 6 3 5) ∧
    decode 0x8F530C04 = .ok (.wseq (.pos 3) 6 3) ∧
    decode 0x8F530CA5 = .ok (.wst (.pos 3) 6 3 5) := by decide

theorem test_words_major_36_to_37 :
    decode 0x8F630000 = .ok (.rnd (.pos 3) 6) ∧
    decode 0x8F630001 = .ok (.rndV (.pos 3) 6) ∧
    decode 0x8F630C02 = .ok (.pdrop (.pos 3) 6 3) ∧
    decode 0x8F630C03 = .ok (.wdraw (.pos 3) 6 3) ∧
    decode 0x8F701860 = .ok (.splice (.pos 3) 6 3) ∧
    decode 0x8F701861 = .ok (.rbind (.pos 3) 6 3) ∧
    decode 0x8F7000C2 = .ok (.runbind (.pos 3) 6) := by decide

theorem test_words_major_38_to_39 :
    decode 0x8F801800 = .ok (.trap (.pos 3) 6) ∧
    decode 0x8F800001 = .ok (.reseedPlace (.pos 3)) ∧
    decode 0x8F830CA2 = .ok (.plprobe (.pos 3) 6 3 5) ∧
    decode 0x8F801863 = .ok (.excq (.pos 3) 6 3) ∧
    decode 0x8F900000 = .ok (.rft (.pos 3)) ∧
    decode 0x8F901861 = .ok (.tinv (.pos 3) 6 3) ∧
    decode 0x8F901802 = .ok (.aspill (.pos 3) 6) ∧
    decode 0x8F901863 = .ok (.atag (.pos 3) 6 3) ∧
    decode 0x8F901804 = .ok (.wspill (.pos 3) 6) ∧
    decode 0x8F901865 = .ok (.wtag (.pos 3) 6 3) ∧
    decode 0x8F901866 = .ok (.keyld (.pos 3) 6 3) ∧
    decode 0x8F901867 = .ok (.saltld (.pos 3) 6 3) := by decide

theorem test_words_major_3f :
    decode 0x03F08005 = .ok (.immx 32773) ∧
    decode 0x03F10003 = .ok (.rmode 3) ∧
    decode 0x03F20002 = .ok (.cpol 2) ∧
    decode 0x03F3000A = .ok (.order 10) ∧
    decode 0x03F4000A = .ok (.etype 10) := by decide
/-- The worked encodings of the manual (R172 and the chapters' examples). -/
theorem test_worked_encodings :
    decodeFetched [0x03F02468] 0x00735678 = .instr (.li .none 6 0x5678) ∧
    decodeFetched [] 0x8C539C01 = .instr (.addImm (.pos 3) 7 7 1) ∧
    decodeFetched [] 0xCC539FFF = .instr (.addImm (.neg 3) 7 7 0x3FF) ∧
    decodeFetched [0x03F10001] 0x02118428 = .instr (.vaddFp .none 3 1 1 1) ∧
    decodeFetched [] 0x03550804 = .instr (.wseq .none 10 2) ∧
    decodeFetched [] 0x01A315B0 = .instr (.ldAcq .none 6 5 3 3) ∧
    decodeFetched [] 0x003214C2 = .instr (.div64 .none 4 5 6 0) ∧
    decodeFetched [] 0x00418885 = .instr (.sel .none 3 2 4 5) ∧
    decodeFetched [] 0x00A19548 = .instr (.cmpImm .none 3 5 2 1 8) ∧
    decodeFetched [] 0x00B28010 = .instr (.rdctl .none 5 0) ∧
    decodeFetched [] 0x0193D580 = .instr (.stD .none 7 21 0) ∧
    decodeFetched [] 0x01D08000 = .instr (.fence .none 1) ∧
    decodeFetched [] 0x02948040 = .instr (.claim .none 9 0 64) ∧
    decodeFetched [] 0x01D00C85 = .instr (.icsync .none 3 4) ∧
    decodeFetched [] 0x03800C83 = .instr (.excq .none 3 4) ∧
    decodeFetched [] 0x01E00D24 = .instr (.aldD .none 3 9) ∧
    decodeFetched [] 0x01207800 = .instr (.jalr .none 0 30 0) := by decide

/-- The table of R172. -/
theorem test_illegal_words :
    decodeFetched [] 0x00000000 = .illegal 0x000000000 ∧ decodeFetched [] 0x0C100003 = .illegal 0x20C100003 ∧
    decodeFetched [] 0x0010001F = .illegal 0x10010001F ∧ decodeFetched [0x03F10006] 0x02118428 = .illegal 0x403F10006 ∧
    decodeFetched [0x03F10001] 0x00539C01 = .illegal 0x503F10001 ∧
    decodeFetched [0x03F00000, 0x03F10000] 0x03F20001 = .illegal 0x603F20001 := by decide

/-! ### Scalar results, from the examples of R174 to R184 -/

/-- Registers s5 and s6 hold `x` and `y`. -/
def two (x y : Word) : State := with_ fun c => (c.setS 5 x).setS 6 y

theorem test_shl32_counts_modulo_32 :
    after (exec (.shl32 .none 7 5 6 0) (two 0x40000001 33)) (fun t => t.me.s 7 == 0xFFFFFFFF80000002) = true ∧
    after (exec (.shl32 .none 7 5 6 1) (two 0x40000001 33)) (fun t => t.me.s 7 == 0x80000002) = true := by decide

theorem test_division_rounds_to_zero :
    after (exec (.div64 .none 7 5 6 0) (two (-7) 2)) (fun t => t.me.s 7 == -3) = true ∧
    after (exec (.rem64 .none 7 5 6 0) (two (-7) 2)) (fun t => t.me.s 7 == -1) = true ∧
    after (exec (.rem64 .none 7 5 6 0) (two 7 (-2))) (fun t => t.me.s 7 == 1) = true := by decide

theorem test_division_corners :
    after (exec (.div64 .none 7 5 6 0) (two 0x8000000000000000 (-1))) (fun t => t.me.s 7 == 0x8000000000000000) = true ∧
    after (exec (.rem64 .none 7 5 6 0) (two 0x8000000000000000 (-1))) (fun t => t.me.s 7 == 0) = true ∧
    after (exec (.div64 .none 7 5 6 1) (two 7 0)) (fun t => t.me.s 7 == -1) = true ∧
    after (exec (.rem64 .none 7 5 6 1) (two 7 0)) (fun t => t.me.s 7 == 7) = true ∧
    after (exec (.div32 .none 7 5 6 0) (two 0x180000000 0xFFFFFFFF)) (fun t => t.me.s 7 == 0xFFFFFFFF80000000) = true ∧
    after (exec (.mulh64 .none 7 5 6 0) (two (-1) 1)) (fun t => t.me.s 7 == -1) = true ∧
    after (exec (.mulh64 .none 7 5 6 1) (two (-1) 2)) (fun t => t.me.s 7 == 1) = true := by decide

theorem test_li_with_immx :
    after (exec (.li .none 6 0x5678) (with_ fun c => { c with hints := [0x03F02468] }))
      (fun t => t.me.s 6 == 0x12345678 && t.me.pc == 0x1004 && t.me.hints == []) = true := by decide

theorem test_lsi_shifts_in :
    after (exec (.lsi .none 5 0x7FFF) (two 3 0)) (fun t => t.me.s 5 == 0x1FFFF) = true := by decide

theorem test_cmp_reads_sign :
    after (exec (.cmp .none 1 5 6 0 0 2) (two (-1) 1)) (fun t => t.me.p 1 == BitVec.allOnes 256) = true ∧
    after (exec (.cmp .none 1 5 6 1 0 2) (two (-1) 1)) (fun t => t.me.p 1 == 0) = true := by decide

theorem test_zero_register_discards :
    after (exec (.addImm .none 0 5 1) (two 3 0)) (fun t => t.me.s 0 == 0 && t.me.sregs == (two 3 0).me.sregs) = true := by
  decide

theorem test_failed_guard_does_nothing :
    after (exec (.addImm (.pos 3) 7 5 1) (two 3 0)) (fun t => t.me.s 7 == 0 && t.me.pc == 0x1004) = true ∧
    after (exec (.addImm (.neg 3) 7 5 1) (two 3 0)) (fun t => t.me.s 7 == 4) = true := by decide

theorem test_jal_links :
    after (exec (.jal .none 0xFFFFF) (two 0 0)) (fun t => t.me.pc == 0x0FFC && t.me.s 30 == 0x1004) = true := by decide

theorem test_jalr_traps_unaligned :
    after (exec (.jalr .none 1 5 0) (two 0x2002 0)) (fun t => t.me.trapCause == 3 && t.me.trapInfo == 0x2002) = true := by
  decide +kernel

theorem test_wrctl_clamps_watchdog :
    after (exec (.wrctl .none 5 0x010) (two 0 0)) (fun t => t.me.watchdog == 1024) = true ∧
    after (exec (.wrctl .none 5 0x013) (two 7 0)) (fun t => t.me.round == 0) = true := by decide

theorem test_rft_traps_in_user_mode :
    after (exec (.rft .none) (with_ fun c => { c with chainPc := 0x1000 }))
      (fun t => t.me.trapCause == 2 && t.me.trapInfo == 0x703900000) = true := by decide +kernel

/-! ### Witnesses: for each claim with hypotheses, a state and operands that meet them, clause by clause -/

/-- A number with the bytes `v` at byte `i`, for each pair listed: an entry of R321. -/
def bytes (l : List (Nat × Nat)) : Nat := (l.map fun p => p.2 * 2 ^ (8 * p.1)).sum
/-- A virtual device of owner 1 on cluster 0, whose trap entry is 0x2000. -/
def device : Func := { Func.reset 0 1 with
  entry := BitVec.ofNat 2048 (bytes [(0, 1), (32, 1), (36, 0x11), (72, 0x2000)]), slice := .running }
/-- The same device without a trap entry. -/
def deviceNoTrap : Func := { device with entry := BitVec.ofNat 2048 (bytes [(0, 1), (32, 1), (36, 0x11)]) }
/-- Owner 1, valid, whose context runs on cores 0 to 7. -/
def owner1 : Owner := { Owner.reset 0 1 with
  entry := BitVec.ofNat 4096 (bytes [(17, 1), (256, 0xFF)]), entryNext := BitVec.ofNat 4096 (bytes [(17, 1), (256, 0xFF)]), started := true }
/-- The module with that device, that owner, and one core. -/
def housed (f : Core → Core) : State := { with_ f with funcs := [(1, device)], owners := [(1, owner1)] }

theorem witness_EncodingRoundTrip : (Instr.add64 (.neg 15) 31 31 31 1).wf = true ∧
    (Instr.add64 (.neg 15) 31 31 31 1).hasWord = true ∧ (Instr.etype 13).wf = true ∧ (Instr.etype 13).hasWord = true := by
  decide

theorem witness_DecodingLosesNothing : decode 0xCC539FFF = .ok (.addImm (.neg 3) 7 7 0x3FF) := by decide

theorem witness_IntegerResults : intForm (.rotr32 (.neg 3) 7 5 6 1) = some (32, 9, .neg 3, 7, 5, 6, 1) ∧
    (two 1 33).me.on (.neg 3) = true := ⟨rfl, by decide⟩

theorem witness_MultiplyDivideResults : mulDivForm (.rem64 .none 0 5 6 0) = some (64, 3, .none, 0, 5, 6, 0) ∧
    (two 0x8000000000000000 (-1)).me.on .none = true := ⟨rfl, by decide⟩

theorem witness_SelectAndImmediateResults :
    immForm (two 3 0).me (.lsi .none 5 0x7FFF) = some (.none, 5, 0x1FFFF) ∧ (two 3 0).me.on .none = true := by decide

theorem witness_CompareAndPredicateResults :
    (Instr.pset .none 15).wf = true ∧ ((predForm (two 3 0).me (.pset .none 15)).map fun x => (x.1, x.2.1)) = some (.none, 15) ∧
    (Instr.pcnt .none 7 15).wf = true ∧ predRead (two 3 0).me (.pcnt .none 7 15) = some (.none, 7, 0) ∧
    (two 3 0).me.on .none = true := by decide

/-- A core in supervisor mode. -/
def super : State := housed fun c => { c with sup := true, trapPc := 0x1040, trapCause := 1 }

theorem witness_GuardsAndChains :
    let i := Instr.add64 (.pos 3) 7 5 6 0
    i.hasWord = true ∧ isHint (encodeWord i) = false ∧ laneGuarded (encodeWord i) = false ∧
    decodeGuard (fGuard (encodeWord i)) = some (.pos 3) ∧ (with_ id).me.on (.pos 3) = false ∧ privileged i = false ∧
    privileged (.rft (.pos 3)) = true ∧ super.me.on (.pos 3) = false ∧ super.me.sup = true := by decide

theorem witness_GuardsAndChains_hints :
    hintWord (.cpol 1) = some 0x03F20001 ∧ (with_ fun c => { c with hints := [0x03F00005] }).me.hints.length < 2 ∧
    2 ≤ (with_ fun c => { c with hints := [0x03F00005, 0x03F10001] }).me.hints.length ∧
    badPayload [0x03F00005, 0x03F10001, 0x03F20001] = none ∧ (with_ id).me.pending = none := by decide

theorem witness_RegisterZeroAndBanks : (24 : BitVec 5) ≠ 0 ∧ (23 : BitVec 5) ≠ 24 ∧ 24 ≤ (24 : BitVec 5).toNat ∧
    (23 : BitVec 5).toNat < 24 := by decide

/-- A fence of every scope, not yet performed. -/
def fence : Access := ⟨0, .fence false 4, .plate 0, 0, 0, 0, .s, .hbm, false, 0, 1, false, false, none, false, false, [], false, false⟩

theorem witness_ControlRegisterReads : (with_ id).me.on .none = true ∧
    (7 : BitVec 10).toNat ∈ [3, 6, 7] ∧ (with_ fun c => { c with pend := [fence] }).me.fencePending = true ∧
    (with_ id).me.fencePending = false ∧ (with_ id).me.hold = .none ∧
    ctlPlain (with_ id) 0 (0x22 : BitVec 10).toNat = some 0 ∧ ctlPlain super 0 (1 : BitVec 10).toNat = some 0x10101 ∧
    ctlPlain (with_ id) 0 (6 : BitVec 10).toNat = some 0 ∧ ctlPlain (with_ id) 0 (0x1E : BitVec 10).toNat = some 0 ∧
    (∀ b, (with_ id).me.hold ≠ .blocked b) := by
  refine ⟨?_, ?_, ?_, ?_, ?_, ?_, ?_, ?_, ?_, fun b h => ?_⟩
  all_goals first | decide +kernel | cases h

theorem witness_ControlRegisterWrites : super.me.on .none = true ∧ listedCtl (0x23 : BitVec 10).toNat = true ∧
    listedCtl (0x04 : BitVec 10).toNat = true ∧ listedCtl (0x1E : BitVec 10).toNat = true ∧
    (0x23 : BitVec 10).toNat ∉ [0, 1, 2, 3, 5, 6, 7, 0x1E] ∧ super.me.sup = true ∧
    (0x1E : BitVec 10).toNat ∈ [0, 1, 2, 3, 5, 6, 7, 0x1E] ∧ super.me.pending = none := by decide +kernel

theorem witness_PrivilegedInUserModeTraps : privileged (.wrctl .none 5 0x20) = true ∧
    privileged (.wrctl .none 5 0x23) = true ∧ privileged (.rft .none) = true ∧ (with_ id).me.sup = false ∧
    (with_ id).me.pending = none := by decide +kernel

theorem witness_BranchesAndCalls : (with_ id).me.on .none = true ∧
    (branchTo ((two 0x2000 0).me.s 5) (immSigned (two 0x2000 0).me 10 (0x3FF : BitVec 10).toNat)).toNat % 4 = 0 ∧
    (branchTo ((two 0x2003 0).me.s 5) (immSigned (two 0x2003 0).me 10 (0 : BitVec 10).toNat)).toNat % 4 ≠ 0 ∧
    (two 0x2003 0).me.pending = none := by decide +kernel

theorem witness_HandlerEnds : (with_ id).me.on .none = true ∧ (with_ id).me.handler = some handler ∧ handler.frames = [] ∧
    handler.transfer = none ∧ handler.fromFault = false ∧ handler.ring < 16 := by decide +kernel

theorem witness_HandlerEnds_inline :
    let s := with_ fun c => { c with handler := some { handler with frames := [0x000E000000001000] } }
    s.me.on .none = true ∧ s.me.handler = some { handler with frames := [0x000E000000001000] } ∧ s.me.frameFree = true := by
  decide +kernel

theorem witness_HandlerEnds_fault :
    let s := with_ fun c => { c with
      handler := some { handler with fromFault := true, slot := 4096 + 64 * 5 }, rings := c.rings.set 0 { ring with base := 128 } }
    s.me.on .none = true ∧ (s.me.handler.any fun x => x.fromFault && x.frames == [] && x.transfer.isNone &&
      x.slot == (s.me.ring 0).base.toNat * 64 - 4096 + 64 * 5) = true := by decide +kernel

/-- A core that runs the state-transfer handler of the splice at ring 2, its words from `l`. -/
def transferring (l : List Word) (f : Core → Core) : State := with_ fun c =>
  f { ((List.range 8).foldl (fun (d : Core) i => d.plateWrite (1024 + 8 * i) 8 (l.getD i 0)) c) with
    handler := some { handler with transfer := some ⟨0, 2, [2], []⟩ }
    rings := c.rings.set 2 { ring with mode := 1, tail := 1 } }

theorem witness_HandlerEnds_transfer :
    let s := transferring [0x0000000900000004, 7, 0x0B, 0x5000, 0x6000, 0x40, 0, 0] id
    let t := s.setCore 1 { core with readyWait := [⟨0x000E000000101000, 1, 0⟩] }
    s.me.on .none = true ∧ (s.me.handler.any fun x => x.frames == [] && x.transfer == some ⟨0, 2, [2], []⟩) = true ∧
    s.mayEnd s.cur = true ∧ Splice.op ((s.core 0).headRec 2) ≠ 1 ∧ (s.core 0).stage 2 = [2] ∧
    ((s.core 0).ring 2).applied ≠ 0xFFFFFFFF ∧ (s.core 0).sup = false ∧ t.mayEnd t.cur = false := by decide +kernel

theorem witness_TrapsTaken : ((housed id).core 0).sup = false ∧ Vd.trapEnt ((housed id).vdOf 0) ≠ 0 := by decide +kernel

theorem witness_TrapsTaken_fault_core :
    let s : State := { housed fun c => { c with faultHandler := 0x300, faultCore := 7 } with funcs := [(1, deviceNoTrap)] }
    (s.core 0).sup = false ∧ Vd.trapEnt (s.vdOf 0) = 0 ∧ (s.core 0).handler = some handler ∧ handler.transfer = none ∧
    handler.fromFault = false ∧ (s.core 0).faultHandler ≠ 0 ∧
    Own.hasCore (s.owner (s.core 0).own).entry (s.core 0).faultCore.toNat = true := by decide +kernel

theorem witness_TrapsTaken_double : Store.rising super.cores = true ∧
    ∃ c, Store.find 0 super.cores = some c ∧ c.sup = true ∧ c.ctx = some 1 :=
  ⟨by decide, _, rfl, rfl, rfl⟩

theorem witness_ReturnFromTrap : super.me.on .none = true ∧ super.me.sup = true ∧
    ¬(super.me.trapCause = 0x06 ∨ super.me.trapCause = 0x09 ∨ super.me.trapPc &&& 0x000FFFFFFFFFFFFC = 0) ∧
    (housed fun c => { c with sup := true, trapCause := 6 }).me.trapCause = 0x06 := by decide +kernel

/-- `calm`, from what can be decided of it. -/
theorem calm_of {s : State} (h : (s.me.pend = [] ∧ s.me.gathers = [] ∧ s.me.pending = none) ∧
    s.cores.all (fun p => p.2.readyWait.isEmpty) = true ∧ s.me.parked = [] ∧
    (∀ x ∈ s.me.tiles.toList, x.state ≠ .filling) ∧ s.cur < 2048) : calm s :=
  ⟨h.1, fun σ => by
    rw [State.pushWaits, List.any_eq_false]
    intro p hp
    simp [List.isEmpty_iff.1 (List.all_eq_true.1 h.2.1 p hp)], h.2.2.1, h.2.2.2.1, h.2.2.2.2⟩

theorem roomAt_of {s : State} {t j : Nat} (h : (s.core t).hasRoom j = true ∧ s.windowRoom s.cur t = true ∧
    ((s.point 9 t).paused = false ∧ s.changing 9 t = false) ∧ (s.core t).portWait = [] ∧ s.portRequests t = [] ∧
    s.limited s.me.own 9 t = false) : roomAt s t j := h

/-- A translation of owner 1 for the page at 0x5000, readable and writable, at frame 0x7000. -/
def page : Trans := ⟨1, false, 5, 12, 0x700F⟩
/-- s5 holds `x`, s6 holds `y`, and the core holds that translation. -/
def paged (x y : Word) : State := with_ fun c => { (c.setS 5 x).setS 6 y with tlb := [page] }
/-- s5 names the plate offset `off` of the own core, and s6 holds `y`. -/
def plated (off : Nat) (y : Word) : State := two (plateVa 0 off) y

theorem witness_OwnPlateLoads :
    loadForm (plated 0x1FFFF 0).me (.ldBS .none 7 5 0) = some (.none, 7, plateVa 0 0x1FFFF, 1, true, false) ∧
    loadForm (plated 0x1FFF8 0).me (.ldAcq .none 7 5 3 4) = some (.none, 7, plateVa 0 0x1FFF8, 8, false, true) ∧
    (plated 0x1FFF8 0).me.on .none = true ∧ calm (plated 0x1FFF8 0) ∧ 0x1FFF8 < 0x20000 ∧ 0x1FFF8 % 8 = 0 :=
  ⟨by decide +kernel, by decide +kernel, by decide, calm_of (by decide +kernel), by decide, by decide⟩

theorem witness_OwnPlateStores :
    storeForm (plated 0 0).me (.stRel .none 7 5 3 4) = some (.none, 7, plateVa 0 0, 8, some 4) ∧
    storeForm (plated 0x1FFFF 0).me (.stB .none 7 5 0) = some (.none, 7, plateVa 0 0x1FFFF, 1, none) ∧
    (plated 0 0).me.on .none = true ∧ calm (plated 0 0) :=
  ⟨by decide +kernel, by decide +kernel, by decide, calm_of (by decide +kernel)⟩

theorem witness_AddressChecksTrap :
    loadForm (plated 0x1FFFC 0).me (.ldD .none 7 5 0) = some (.none, 7, plateVa 0 0x1FFFC, 8, false, false) ∧
    0x1FFFC < 0x20000 ∧ 0x1FFFC % 8 ≠ 0 ∧
    storeForm (plated 0x21200 0).me (.stD .none 7 5 0) = some (.none, 7, plateVa 0 0x21200, 8, none) ∧ 0x21200 % 8 = 0 ∧
    loadForm (two 0x000E000080000000 0).me (.ldB .none 7 5 0) = some (.none, 7, 0x000E000080000000, 1, false, false) ∧
    placeOf 0x000E000080000000 = none ∧ (plated 0 0).me.on .none = true ∧ (plated 0 0).me.pending = none ∧
    (plated 0 0).cur < 2048 :=
  ⟨by decide +kernel, by decide, by decide, by decide +kernel, by decide, by decide +kernel, by decide +kernel, by decide,
    by decide, by decide⟩

theorem witness_MainMemoryAccessesIssue :
    let s := paged 0x5FF8 1
    loadForm s.me (.ldAcq .none 7 5 3 0) = some (.none, 7, 0x5FF8, 8, false, true) ∧
    storeForm s.me (.stD .none 7 5 0) = some (.none, 7, 0x5FF8, 8, none) ∧
    atomForm (.aadd64 .none 7 5 6) = some (.add, 8, .none, some 7, 5, 6) ∧ s.me.s 5 = 0x5FF8 ∧ s.me.on .none = true ∧
    calm s ∧ mapped s 0x5FF8 8 true true page ∧ ¬(Leaf.image page.leaf = .b ∧ Leaf.tierOf page.leaf = .cxl) ∧
    s.uscCount s.cur .mem + 8 ≤ 4095 :=
  ⟨by decide +kernel, by decide +kernel, rfl, by decide +kernel, by decide +kernel, calm_of (by decide +kernel),
    ⟨by decide +kernel, by decide +kernel, by decide +kernel, by decide +kernel, by decide +kernel⟩, by decide +kernel, by decide +kernel⟩

theorem witness_MainMemoryAccessesIssue_bytes :
    loadForm (paged 0x5FF7 1).me (.ldD .none 7 5 0) = some (.none, 7, 0x5FF7, 8, false, false) ∧
    mapped (paged 0x5FF7 1) 0x5FF7 8 true true page ∧ physical page 0x5FF7 % 8 ≠ 0 :=
  ⟨by decide +kernel, ⟨by decide +kernel, by decide +kernel, by decide +kernel, by decide +kernel, by decide +kernel⟩, by decide +kernel⟩

theorem witness_FullEmptyAccesses :
    let s := plated 0x1FFF8 0
    feForm (.ldfe .none 7 5 1 0) = some (.ldfe, .none, 7, 5, 1, 0) ∧ feForm (.stef .none 7 5 0 1) = some (.stef, .none, 7, 5, 0, 1) ∧
    eaOf s.me 5 6 (0 : BitVec 6).toNat 8 = plateVa 0 0x1FFF8 ∧ eaOf s.me 5 6 (1 : BitVec 6).toNat 4 = plateVa 0 0x1FFFC ∧
    s.me.on .none = true ∧ calm s ∧ (s.me.fe 0x1FFF8 = false ∧ s.me.fe 0x1FFFC = false) :=
  ⟨rfl, rfl, by decide +kernel, by decide +kernel, by decide, calm_of (by decide +kernel), by decide +kernel⟩

theorem witness_OwnPlateAtomics :
    atomForm (.acasW .none 7 5 6) = some (.cas, 4, .none, some 7, 5, 6) ∧
    atomForm (.qaddF64 .none 5 6) = some (.fadd, 8, .none, none, 5, 6) ∧ (plated 0x1FFF8 1).me.on .none = true ∧
    calm (plated 0x1FFF8 1) ∧ (plated 0x1FFF8 1).me.s 5 = plateVa 0 0x1FFF8 ∧ 0x1FFF8 % 4 = 0 ∧ 0x1FFF8 % 8 = 0 :=
  ⟨rfl, rfl, by decide, calm_of (by decide +kernel), by decide +kernel, by decide, by decide⟩

theorem witness_DecrementAndWake :
    let s := plated 0x1FFF0 1
    s.me.on .none = true ∧ calm s ∧ s.me.s 5 = plateVa 0 0x1FFF0 ∧ 0x1FFF0 % 16 = 0 ∧ s.me.readyWait = [] ∧ s.me.hasRoom 1 = true :=
  ⟨by decide, calm_of (by decide +kernel), by decide +kernel, by decide, by decide, by decide +kernel⟩

theorem witness_FencesIssue : (with_ id).me.on (.neg 0) = true := by decide

/-- A page table whose root reads as zero. -/
def rooted (x y : Word) : State := { paged x y with
  owners := [(1, { owner1 with entry := BitVec.ofNat 4096 (bytes [(0, 0x7FE0000000), (17, 1), (256, 0xFF)]) })] }

theorem witness_RangeOperationsIssue :
    let s := rooted 0x5010 112
    s.me.on .none = true ∧ s.me.rangeAt = 0 ∧ (rooted 0x5010 0).me.s 6 = 0 ∧ 0 < (s.me.s 6).toNat ∧
    (s.me.s 5).toNat % 128 + (s.me.s 6).toNat ≤ 128 ∧
    mapped s (BitVec.ofNat 64 (128 * ((s.me.s 5).toNat / 128))) 128 true true page ∧
    s.flashFrom (128 * ((s.me.s 5).toNat / 128)) tableLevels (s.rootOf s.me.own s.me.sup) = false ∧
    s.uscCount s.cur .mem < 4095 :=
  ⟨by decide, by decide, by decide +kernel, by decide +kernel, by decide +kernel,
    ⟨by decide +kernel, by decide +kernel, by decide +kernel, by decide +kernel, by decide +kernel⟩, by decide +kernel, by decide +kernel⟩

/-- Cores 0 and 1 of owner 1, the first with s5 and s6. -/
def pair (x y : Word) (f : Core → Core) : State :=
  { with_ (fun c => (c.setS 5 x).setS 6 y) with cores := [(0, (core.setS 5 x).setS 6 y), (1, f core)] }

/-- The inbox of eight slots is full. -/
def fullInbox (c : Core) : Core := c.setRing 0 { c.ring 0 with tail := 8 }

theorem witness_MessagesAreSent :
    ((two 0x2000 0).me.on .none = true ∧ calm (two 0x2000 0) ∧ ((two 0x2000 0).me.s 6).toNat = 0 ∧
      (two 0x2000 0).devBefore 0 0 = false ∧ roomAt (two 0x2000 0) 0 0) ∧
    (calm (pair 0x2000 1 id) ∧ (pair 0x2000 1 id).devBefore 0 1 = false ∧ ((pair 0x2000 1 id).me.s 6).toNat = 1 ∧ (pair 0x2000 1 id).mayPlate 0 1 = true ∧
      roomAt (pair 0x2000 1 id) 1 0) ∧
    (calm (pair 0x2000 1 fullInbox) ∧ (pair 0x2000 1 fullInbox).mayPlate 0 1 = true ∧
      ((pair 0x2000 1 fullInbox).core 1).hasRoom 0 = false ∧ ((pair 0x2000 1 fullInbox).core 1).portWait = [] ∧
      (pair 0x2000 1 fullInbox).windowRoom 0 1 = true) ∧
    (let own := with_ fun c => fullInbox ((c.setS 5 0x2000).setS 6 0)
     calm own ∧ own.me.on .none = true ∧ (own.me.s 6).toNat = own.cur ∧ (own.core 0).hasRoom 0 = false ∧ (own.core 0).portWait = [] ∧
      own.windowRoom 0 0 = true ∧ bitOf (own.me.s 5) 2 = false) :=
  ⟨⟨by decide, calm_of (by decide +kernel), by decide +kernel, by decide +kernel, roomAt_of (by decide +kernel)⟩,
    ⟨calm_of (by decide +kernel), by decide +kernel, by decide +kernel, by decide +kernel, roomAt_of (by decide +kernel)⟩,
    ⟨calm_of (by decide +kernel), by decide +kernel, by decide +kernel, by decide +kernel, by decide +kernel⟩,
    calm_of (by decide +kernel), by decide, by decide +kernel, by decide +kernel, by decide +kernel, by decide +kernel, by decide +kernel⟩

theorem witness_MessagesAreSent_inline :
    let s := with_ fun c => (fullInbox (((c.setS 5 0x2014).setS 6 0).setS 31 (plateVa 0 (0x1FF80 + 128))))
    s.me.on .none = true ∧ calm s ∧ s.me.sup = false ∧ (s.me.s 6).toNat = s.cur ∧ s.me.hasRoom 0 = false ∧
    bitOf (s.me.s 5) 2 = true ∧ s.me.depthCur < s.me.depthLimit ∧ s.me.handler = some handler ∧
    s.me.s 31 = plateVa 0 (0x1FF80 + 128) ∧ 0x1FF80 % 64 = 0 ∧ 0x1FF80 + 128 ≤ 0x20000 :=
  ⟨by decide, calm_of (by decide +kernel), by and_intros <;> decide +kernel⟩

/-- Core 0 pushes the record at offset 0x1FFC0, of kind `k`, to the program ring that s5 names. -/
def pushing (x k : Word) (f : Core → Core) : State :=
  let c := ((core.setS 5 x).setS 6 (plateVa 0 0x1FFC0)).plateWrite 0x1FFC0 8 k
  { with_ id with cores := [(0, c), (1, f core)] }

theorem witness_RingsAreUsed_push :
    let s := pushing 0x12 2 id
    s.me.on .none = true ∧ calm s ∧ s.me.pushRec = none ∧ s.pushTarget s.cur (s.me.s 5) = some (.ring 1 2) ∧ s.me.s 6 = plateVa 0 0x1FFC0 ∧
    0x1FFC0 % 64 = 0 ∧ recKind (s.me.plateRec 0x1FFC0) = 2 ∧ roomAt s 1 2 ∧
    (pushing 0x02 3 id).pushTarget 0 0x02 = some (.ring 0 2) ∧ recKind ((pushing 0x02 3 id).me.plateRec 0x1FFC0) = 3 ∧
    roomAt (pushing 0x02 3 id) 0 2 :=
  ⟨by decide, calm_of (by decide +kernel), rfl, rfl, by decide +kernel, by decide, by decide +kernel,
    roomAt_of (by decide +kernel), rfl, by decide +kernel, roomAt_of (by decide +kernel)⟩

theorem witness_RingsAreUsed_pop :
    let s := with_ fun c => ((c.setS 5 (plateVa 0 0x1FFC0)).setS 6 2).setRing 2 { c.ring 2 with tail := 2 }
    s.me.on .none = true ∧ calm s ∧ s.me.queueRing (s.me.s 6) = some 2 ∧ (s.me.ring 2).waiting = 1 ∧
    ((with_ id).me.ring 2).waiting = 0 ∧ s.me.s 5 = plateVa 0 0x1FFC0 ∧ 0x1FFC0 % 64 = 0 :=
  ⟨by decide, calm_of (by decide +kernel), by decide +kernel, by decide +kernel, by decide +kernel, by decide +kernel, by decide⟩

theorem witness_AsyncLoadReplies :
    let s := plated 0x1FFF8 0x000000000000200F
    s.me.on .none = true ∧ calm s ∧ s.me.s 5 = plateVa 0 0x1FFF8 ∧ 0x1FFF8 % 8 = 0 ∧ bitsOf (s.me.s 6) 63 52 = 0 ∧ roomAt s 0 0 ∧
    s.devBefore s.cur s.cur = false :=
  ⟨by decide, calm_of (by decide +kernel), by decide +kernel, by decide, by decide +kernel, roomAt_of (by decide +kernel), by decide⟩
/-- Sixteen lanes, p3 naming the odd ones, with s5 and s6. -/
def laned (x y : Word) : State :=
  with_ fun c => { ((c.setS 5 x).setS 6 y).setP 3 0xAAAA with lanes := 16, vregs := [(256, 0x3F800000), (257, 0x40000000), (512, 5)] }

theorem witness_FloatLaneResults : (laned 0 0).me.lanes ≤ 256 ∧
    (∃ f, floatForm (laned 0 0).me (.vaddFp (.pos 3) 3 1 2 1) = some (.pos 3, 3, true, fmtOf 1, f)) ∧
    (∃ f, floatForm (laned 0 0).me (.vlog2 .none 0 1 0) = some (.none, 0, false, fmtOf 0, f)) :=
  ⟨by decide, ⟨_, rfl⟩, ⟨_, rfl⟩⟩

theorem witness_IntegerLaneResults : (laned 0 0).me.lanes ≤ 256 ∧
    laneIntForm (.vshr (.neg 3) 3 1 6 1) = some (7, .neg 3, 3, 1, 6, 1) ∧ (laned 0 0).me.typeCode 2 < 8 ∧
    ((laned 0 0).regs fun c => { c with hints := [0x03F40007] }).me.typeCode 2 = 7 :=
  ⟨by decide, rfl, by decide +kernel, by decide +kernel⟩

theorem witness_LaneMoveResults : (laned 0 15).me.lanes ≤ 256 ∧ (Instr.vpack6 .none 3 1 4).wf = true ∧
    (∃ f, moveForm (laned 0 15).me (.vpack6 .none 3 1 4) = some (.none, [3, 4], f)) ∧
    (∃ f, moveForm (laned 0 15).me (.vslideup (.pos 3) 3 1 6) = some (.pos 3, [3], f)) :=
  ⟨by decide, by decide, ⟨_, rfl⟩, ⟨_, rfl⟩⟩

theorem witness_VectorComparesAndConversions : (laned 0 0).me.lanes ≤ 256 ∧ (15 : BitVec 5).toNat < 16 ∧
    etypeOf ((laned 0 0).me.typeCode 9) ((laned 0 0).me.fmt (laned 0 0).me.typeFmt) = some (.flt f32) ∧
    etypeOf (10 : BitVec 4).toNat ((laned 0 0).me.fmt (laned 0 0).me.destFmt) = some (.flt (fmtOf 2)) ∧ (3 : BitVec 5) ≠ 4 :=
  ⟨by decide, by decide, rfl, rfl, by decide⟩

theorem witness_ReductionsAndScans : (laned 0 0).me.lanes ≤ 256 ∧
    reduceForm (.vssum (.pos 3) 3 1) = some (true, .add, .pos 3, 3, 1) ∧
    reduceForm (.vrmax .none 0 1) = some (false, .max, .none, 0, 1) ∧
    ((laned 0 0).regs fun c => { c with hints := [0x03F40000] }).me.typeCode 9 < 8 ∧ 8 ≤ (laned 0 0).me.typeCode 9 ∧
    etypeOf ((laned 0 0).me.typeCode 9) ((laned 0 0).me.fmt 0) = some (.flt f32) :=
  ⟨by decide, rfl, rfl, by decide +kernel, by decide +kernel, rfl⟩

theorem witness_ExtractAndFormatRegisters : (laned 0 0).me.on .none = true ∧ (7 : BitVec 5).toNat < 8 := by decide

/-- The lottery has granted core 0 its claim. -/
def granted (x y : Word) : State := { laned x y with clusters := [(0, { Cluster.reset with claimGrants := [0] })] }

theorem witness_LaneClaims : (granted 256 17).me.on .none = true ∧ ((granted 256 17).me.s 6).toNat % 16 ≠ 0 ∧
    256 < (272 : BitVec 9).toNat ∧ ((granted 256 17).me.s 5).toNat % 16 = 0 ∧ ((granted 256 17).me.s 5).toNat ≤ 256 ∧
    (granted 256 17).me.lanes ≤ 256 ∧ ((granted 256 17).cluster (clusterOf 0)).claimGrants.contains 0 = true ∧
    (granted 256 17).me.pending = none ∧ ((laned 256 17).cluster (clusterOf 0)).claimGrants.contains 0 = false ∧
    (∀ x ∈ ((laned 256 17).cluster (clusterOf 0)).claims, x.1 ≠ 0) ∧ (laned 256 17).limited 1 5 (clusterOf 0) = false ∧
    mayQueue 5 1 ((laned 256 17).entryOwners 5 (clusterOf 0)) = true := by decide +kernel

theorem witness_OwnPlateVectorAccesses :
    let s := laned (plateVa 0 0x1FFC0) 0
    s.me.lanes ≤ 256 ∧ (∃ ea, laneAccessForm s.me (.vst .none 1 5 2) = some (true, .none, 1, 2 ^ 2, ea) ∧
      ∀ k ∈ s.me.execLanes .none, ea k = plateVa 0 (0x1FFC0 + 4 * k) ∧ 0x1FFC0 + 4 * k < 0x20000 ∧
        (0x1FFC0 + 4 * k) % 2 ^ 2 = 0) ∧ calm s :=
  ⟨by decide, ⟨_, rfl, by decide +kernel⟩, calm_of (by decide +kernel)⟩

theorem ok_of {ε α : Type} {x : Except ε α} (h : x.toBool = true) : ∃ p, x = .ok p := by
  cases x with
  | error e => cases h
  | ok a => exact ⟨a, rfl⟩

/-- Core 0 with the words `ws` at plate offset `off`, whose address is in s5, and s6. -/
def carded (off : Nat) (ws : List Word) (y : Word) (f : Core → Core) : State :=
  with_ fun c => f ((ws.zipIdx).foldl (fun c p => c.plateWrite (off + 8 * p.2) 8 p.1) ((c.setS 5 (plateVa 0 off)).setS 6 y))
/-- Cluster 0 changed. -/
def clustered (s : State) (q : Cluster) : State := { s with clusters := [(0, q)] }
/-- A copy of four doublewords from 0x5000 to 0x6000. -/
def copyWords : List Word := [0x311, 0x5000, 0, 0x6000, 0, 0, 0, 0, 4, 0, 0, 0, 0, 8, 0, 0, 0, 8 <<< 32, 0, 0, 0, 0, 0, 0]
/-- A product of two 32 by 4 and 4 by 32 matrices of f32, into tile 0. -/
def matrixWords : List Word := [(3 <<< 27) ||| (9 <<< 13) ||| (9 <<< 9), 0x10000, 0x20000, (16 <<< 32) ||| 128, 0, 0, 0, 0]

theorem witness_JobInstructions :
    let s := clustered (carded 0x1FF40 copyWords 0 id) { Cluster.reset with admitGrants := [0] }
    (∃ card, jobForm s (.cjob .none 7 5) = some (.none, 7, 5, 192, card) ∧
      ∃ p, card (s.me.plateWords 0x1FF40 (192 / 8)) = .ok p) ∧ s.me.on .none = true ∧
    ownBlock s.cur (s.me.s 5) 192 = .ok 0x1FF40 ∧ (s.cluster (clusterOf 0)).admitGrants.contains 0 = true ∧
    s.rcReady 0 = true ∧ entryFree ((s.cluster (clusterOf 0)).job 0) = true ∧
    ((carded 0x1FF40 copyWords 0 id).cluster (clusterOf 0)).admitGrants.contains 0 = false ∧
    ((carded 0x1FF40 copyWords 0 id).cluster (clusterOf 0)).admits.contains 0 = false ∧
    (carded 0x1FF40 copyWords 0 id).limited 1 6 0 = false :=
  ⟨⟨_, rfl, ok_of (by decide +kernel)⟩, by and_intros <;> decide +kernel⟩

/-- The card of a matrix job passes its checks. -/
theorem witness_JobInstructions_matrix :
    ∃ p, (carded 0x1FFC0 matrixWords 0 id).matrixCard 0 ((carded 0x1FFC0 matrixWords 0 id).me.plateWords 0x1FFC0 (64 / 8)) = .ok p :=
  ok_of (by decide +kernel)

/-- A job of entry 31 in state `st`. -/
def jobOf (st : JobState) : Job :=
  ⟨5, 2, st, 0, 0, 1, false, 0, 9, copyWords, 0, 0, [], [], 0, [], 0, [], [], false, false, false, false, false, false, 0⟩
/-- Cluster 0 with the job `j` in entry 31, and its identifier `id` in s5. -/
def holding (j : Job) (id : Word) : State :=
  clustered (two id 0) { Cluster.reset with jobs := Cluster.reset.jobs.set 31 (some j) }
/-- Cluster 0 with that job. -/
def jobbed (st : JobState) (id : Word) : State := holding (jobOf st) id
/-- A collective queued by owner 1. -/
def collOf (st : JobState) : Job := { jobOf st with type := 3, card := List.replicate 8 0 }

theorem witness_JobInstructions_named :
    (jobbed .failed 0x59F).findJob 0 ((jobbed .failed 0x59F).me.s 5) = .live 31 (jobOf .failed) ∧
    (jobbed .running 0x59F).findJob 0 ((jobbed .running 0x59F).me.s 5) = .live 31 (jobOf .running) ∧
    (jobbed .queued 0x59F).findJob 0 0x49F = .gone ∧ (jobbed .queued 0x59F).findJob 0 0x51F = .bad ∧
    (jobbed .failed 0x59F).me.pending = none ∧ (jobOf .running).type ≠ 3 ∧
    (jobbed .done 0x59F).findJob 0 ((jobbed .done 0x59F).me.s 5) = .live 31 (jobOf .done) ∧
    (holding (collOf .queued) 0x5DF).findJob 0 ((holding (collOf .queued) 0x5DF).me.s 5) = .live 31 (collOf .queued) ∧
    (collOf .queued).type = 3 :=
  ⟨rfl, rfl, rfl, rfl, by decide, by decide, rfl, rfl, rfl⟩

/-- A steep of kind 1 to ring 2, twelve doublewords from 0x5000. -/
def steepWords : List Word :=
  ([1 ||| 0x10 ||| 0x300 ||| (2 <<< 18), 0x5000, 7, 0, 0, 0, 0, 0, 12, 0, 0, 0, 0, 8] : List Word) ++ List.replicate 10 0
/-- A rack of kind 4 from tile 31 to 0x5000, in units of sixteen doublewords. -/
def rackWords : List Word :=
  ([4 ||| 0x10 ||| 0x300 ||| (31 <<< 13) ||| (1 <<< 33), 0x5000, 0, 0, 0, 0, 0, 0, 16, 0, 0, 0, 0, 8] : List Word) ++ List.replicate 10 0

theorem witness_AgentsStartAndStop :
    let used := carded 0x1FF40 steepWords 0 fun c => { c with agents := [(1, ⟨[], .running, 0, 0, [], 0, 0, false, false, 1, []⟩)] }
    (used.agentCard 0 false (used.me.plateWords 0x1FF40 24) = .ok 2 ∧ Store.find 2 used.me.agents = none ∧
      (Store.find 1 used.me.agents).isSome = true) ∧
    (carded 0x1FF40 rackWords 0 id).agentCard 0 false ((carded 0x1FF40 rackWords 0 id).me.plateWords 0x1FF40 24) = .error 1 ∧
    (carded 0x1FF40 steepWords 0 id).agentCard 0 true ((carded 0x1FF40 steepWords 0 id).me.plateWords 0x1FF40 24) = .error 1 ∧
    (carded 0x1FF40 steepWords 0 id).me.pending = none ∧
    (carded 0x1FF40 steepWords 0 id).me.on .none = true ∧
    ownBlock 0 ((carded 0x1FF40 steepWords 0 id).me.s 5) 192 = .ok 0x1FF40 ∧
    (carded 0x1FF40 steepWords 0 id).agentCard 0 false ((carded 0x1FF40 steepWords 0 id).me.plateWords 0x1FF40 24) = .ok 1 ∧
    (carded 0x1FF40 rackWords 0 id).agentCard 0 true ((carded 0x1FF40 rackWords 0 id).me.plateWords 0x1FF40 24) = .ok 0x81 ∧
    (carded 0x1FF40 rackWords 0 id).rcReady 0 = true :=
  by and_intros <;> decide +kernel

/-- An agent of descriptor `w`, running. -/
def agentOf (w : List Word) : Agent := ⟨w, .running, 0, 0, [], 0, 0, false, false, 1, []⟩

theorem witness_AgentsStartAndStop_stop :
    let s := with_ fun c => { ((c.setS 5 8).setS 6 0x88) with agents := [(8, agentOf steepWords), (0x88, agentOf rackWords)] }
    s.me.on .none = true ∧ (s.me.s 5).toNat = 8 ∧ (s.me.s 6).toNat = 0x88 ∧ Store.find 8 s.me.agents = some (agentOf steepWords) ∧
    Store.find 0x88 s.me.agents = some (agentOf rackWords) ∧
    (∀ r ∈ s.me.rings.toList, ¬(r.lv = true ∧ r.lr = true ∧ r.lrack.toNat = 0x88)) ∧ (agentOf rackWords).buf = [] ∧
    ADesc.tiled (agentOf rackWords).desc = true ∧ ADesc.tiled (agentOf steepWords).desc = false := by
  decide +kernel

theorem witness_AgentsStartAndStop_traps :
    let s := with_ fun c => { ((c.setS 5 8).setS 6 0x88).setRing 2 { c.ring 2 with lv := true, lr := true, lrack := 0x88 } with
      agents := [(0x88, agentOf rackWords)] }
    (∃ r ∈ s.me.rings.toList, r.lv = true ∧ r.lr = true ∧ r.lrack.toNat = (s.me.s 6).toNat) ∧ s.me.pending = none ∧
    Store.find 0x88 s.me.agents = some (agentOf rackWords) ∧ Store.find (s.me.s 5).toNat s.me.agents = none ∧
    ¬(1 ≤ (s.me.s 6).toNat ∧ (s.me.s 6).toNat ≤ 8) ∧ ¬(0x81 ≤ (s.me.s 5).toNat ∧ (s.me.s 5).toNat ≤ 0x88) ∧
    s.me.on .none = true := by decide +kernel

theorem witness_AccumulatorInstructions :
    let s := (two 119 31).regs fun c => { c with lanes := 32 }
    s.me.lanes ≤ 256 ∧ (s.me.s 5).toNat ≤ 127 ∧ s.accUse s.cur (clusterOf 0) 119 = none ∧ calm s ∧ s.uscCount s.cur .cl + 1024 ≤ 4095 ∧
    s.me.on .none = true ∧ (s.me.s 6).toNat ≤ 31 ∧ (s.me.execLanes .none).filter (· < 32) ≠ [] ∧
    127 < ((two 128 0).me.s 5).toNat ∧ s.me.execLanes .none ≠ [] ∧ s.me.pending = none ∧ (two 0 0).me.execLanes .none = [] ∧
    31 < ((two 127 32).me.s 6).toNat ∧ ((two 127 32).me.s 5).toNat ≤ 127 :=
  ⟨by decide +kernel, by decide +kernel, by decide +kernel, calm_of (by decide +kernel), by and_intros <;> decide +kernel⟩

/-- Cluster 0 whose tree 7 holds three leaves. -/
def grove : Cluster := { Cluster.reset with trees := Cluster.reset.trees.set 7 ⟨[(0, 5), (3, 7), (255, 9)], 0xFC, 256, 4, some 1⟩ }
/-- Core 0 with that cluster. -/
def treed (x y : Word) : State := clustered (laned x y) grove

theorem witness_TreeUpdates :
    let s := treed 255 (-3)
    (∃ raw, treeUpdateForm s ((s.cluster (clusterOf 0)).tree 7) (.wadd .none 7 5 6) = some (.none, 7, raw, 0xFC, 256, false)) ∧
    (∃ raw, treeUpdateForm (treed 0 (-128)) (((treed 0 (-128)).cluster (clusterOf 0)).tree 7) (.wexp .none 7 6) =
      some (.none, 7, raw, 0x80, 256, true)) ∧ s.me.on .none = true ∧ (7 : BitVec 5).toNat < 8 ∧
    s.treeUse s.cur (7 : BitVec 5).toNat = none ∧ s.rcReady s.cur = true :=
  ⟨⟨_, rfl⟩, ⟨_, rfl⟩, by decide +kernel, by decide, by decide +kernel, by decide +kernel⟩

theorem witness_TreeLoadsAndQueries :
    let s := treed (plateVa 0 0x1FC00) 256
    s.me.on .none = true ∧ (7 : BitVec 5).toNat < 8 ∧ s.treeUse s.cur (7 : BitVec 5).toNat = none ∧ calm s ∧
    treeQueryForm s ((s.cluster (clusterOf 0)).tree 7) (.wpre .none 30 7 6) = some (.none, 30, 7, 21) ∧
    (Instr.wpre .none 30 7 6).wf = true ∧ (s.me.s 6).toNat = 256 ∧ s.me.s 5 = plateVa 0 0x1FC00 ∧ 0x1FC00 % 4 = 0 ∧
    0x1FC00 + 4 * 256 ≤ 0x20000 :=
  ⟨by decide +kernel, by decide, by decide +kernel, calm_of (by decide +kernel), rfl, by decide, by decide +kernel, by decide +kernel,
    by decide, by decide⟩

theorem witness_RandomDraws : (laned 0 0).me.lanes ≤ 256 ∧ (laned 0 0).me.on .none = true ∧ (15 : BitVec 5).toNat < 16 := by
  decide +kernel

/-- A binding of eight slots at offset 0x400 in queue mode. -/
def bindWords : List Word := [(3 <<< 44) ||| 0x400, 0, 0, 0, 0, 0, 0, 0]

theorem witness_SplicesAndRingBinding :
    let s := carded 0x1FFC0 bindWords 0 id
    let t := s.regs fun c => (c.setS 6 (plateVa 0 0x1FFC0)).setS 5 15
    t.me.on .none = true ∧ calm t ∧ t.me.s 6 = plateVa 0 0x1FFC0 ∧
    t.bindCheck t.cur (t.me.s 5) (t.me.plateWords 0x1FFC0 8) (bindRing (t.me.plateWords 0x1FFC0 8)) = none ∧
    (pushing 0x12 4 id).me.pushRec = none ∧
    (pushing 0x12 4 id).pushTarget 0 ((pushing 0x12 4 id).me.s 5) = some (.ring 1 2) ∧ roomAt (pushing 0x12 4 id) 1 2 :=
  ⟨by decide +kernel, calm_of (by decide +kernel), by decide +kernel, by decide +kernel, rfl, rfl, roomAt_of (by decide +kernel)⟩

theorem witness_SplicesAndRingBinding_unbind :
    (two 0 2).me.on .none = true ∧ calm (two 0 2) ∧ ((two 0 2).me.s 6).toNat = 2 ∧
    ((with_ fun c => c.setRing 2 { c.ring 2 with head := 1 }).me.ring 2).tail = ((with_ fun c => c.setRing 2 { c.ring 2 with head := 1 }).me.ring 2).head ∧
    ((two 0 2).me.ring 2).log2n ≠ 0 ∧ ((two 0 2).me.ring 2).halt = false :=
  ⟨by decide +kernel, calm_of (by decide +kernel), by decide +kernel, by decide +kernel, by decide +kernel, by decide +kernel⟩

/-- A translation of owner 1 for 64 KiB from 0x10000, readable and writable, at frame 0x20000. -/
def widePage : Trans := ⟨1, false, 1, 16, 0x2000F⟩
/-- Core 0 at the address `x` under that translation, with the placement requests `l` standing. -/
def reseeding (x y : Word) (l : List (Option Nat)) : State :=
  { with_ fun c => { (c.setS 5 x).setS 6 y with tlb := [widePage, page] } with owners := [(1, { owner1 with reseeds := l })] }

theorem witness_SystemInstructions :
    let s := reseeding 0x5FFF 3 []
    s.me.on .none = true ∧ s.me.pending = none ∧ (s.owner s.me.own).reseeds.length < 15 ∧ 1 ≤ (s.me.s 6).toNat ∧
    (s.me.s 6).toNat ≤ 3 ∧ mapped s (s.me.s 5) 1 true false page ∧ some s.cur ∉ (s.owner s.me.own).reseeds ∧
    (s.owner s.me.own).sweep = none ∧
    15 ≤ ((reseeding 0 0 (List.replicate 15 (some 3))).owner 1).reseeds.length ∧
    some 0 ∈ ((reseeding 0x5FFF 3 [some 0]).owner 1).reseeds ∧ ¬((reseeding 0 4 []).me.s 6).toNat ≤ 3 :=
  ⟨by decide +kernel, by decide +kernel, by decide +kernel, by decide +kernel, by decide +kernel,
    ⟨by decide +kernel, by decide +kernel, by decide +kernel, by decide +kernel, by decide +kernel⟩, by decide +kernel, by decide +kernel,
    by decide +kernel, by decide +kernel, by decide +kernel⟩

theorem witness_SystemInstructions_report :
    let s := reseeding 0x1FA00 1 []
    calm (plated 0x1FB00 1) ∧ ((plated 0x1FB00 1).me.s 6).toNat ≤ 1 ∧ 0x1FB00 % 128 = 0 ∧ 0x1FB00 + 1280 ≤ 0x20000 ∧
    1 < ((plated 0x1FB00 2).me.s 6).toNat ∧ calm s ∧ (s.me.s 5).toNat % 128 = 0 ∧
    (∀ j, j < 160 → mapped s (s.me.s 5 + BitVec.ofNat 64 (8 * j)) 8 false true widePage) ∧
    s.uscCount s.cur (if Leaf.tierOf widePage.leaf = .cxl then .sys else .mem) + 160 ≤ 4095 :=
  ⟨calm_of (by decide +kernel), by decide +kernel, by decide, by decide, by decide +kernel, calm_of (by decide +kernel),
    by decide +kernel, fun j hj => by
      have h : ∀ j, j < 160 → mapped (reseeding 0x1FA00 1 []) ((reseeding 0x1FA00 1 []).me.s 5 + BitVec.ofNat 64 (8 * j)) 8 false true
        widePage := by
          unfold mapped
          decide +kernel
      exact h j hj, by decide +kernel⟩

/-- Supervisor mode with s5 and s6, and cluster 0 whose tile 119 and tree 7 belong to owner 1. -/
def supering (x y : Word) : State :=
  clustered (housed fun c => { ((c.setS 5 x).setS 6 y) with sup := true }) { grove with tags := [(119, .owner 1)] }

theorem witness_PrivilegedInstructions :
    (supering 119 0x1FF).me.on .none = true ∧ (supering 119 0x1FF).me.sup = true ∧ ((supering 119 0x1FF).me.s 6).toNat < 2 ^ 12 ∧
    bitOf ((supering 119 0x1FF).me.s 6) 8 = true ∧
    (bitOf ((supering 0x5000 0x201).me.s 6) 8 = false ∧
      [12, 16, 21, 29, 34][((supering 0x5000 0x201).me.s 6).toNat / 2 ^ 9]? = some 16) ∧
    ((supering 119 0x1FF).cluster (clusterOf 0)).tag 119 = .owner 1 ∧
    ((supering 119 0x1FF).cluster (clusterOf 0)).held (clusterOf 0) 119 1 = false ∧
    (supering 119 0x1FF).uscCount 0 .mem + 512 ≤ 4095 ∧ (supering 119 0x1FF).slotAddr 1 0 119 false % 8 = 0 ∧
    (((supering 7 1).cluster (clusterOf 0)).tree 7).tag = some 1 ∧ (supering 7 1).slotAddr 1 0 7 true % 8 = 0 ∧
    ((supering 119 1).me.s 6).toNat < 2 ^ 8 ∧ Own.valid ((supering 119 1).owner 1).entryNext = true ∧
    ((supering 119 0x101).me.s 6).toNat / 2 ^ 8 = 1 ∧ ((supering 119 0x101).me.s 6).toNat % 256 = 1 := by
  and_intros <;> decide +kernel

theorem witness_PrivilegedInstructions_keys :
    let s := supering (plateVa 0 0x1FFC0) 255
    (s.me.s 6).toNat < 2 ^ 8 ∧ Own.valid (s.owner 255).entryNext = false ∧ (s.owner 255).retiring = false ∧ calm s ∧
    s.me.s 5 = plateVa 0 0x1FFC0 ∧ 0x1FFC0 % 64 = 0 ∧ 0x1FFC0 + 64 ≤ 0x20000 ∧
    ((supering (plateVa 0 0x1FFF0) 63).me.s 6).toNat < 64 ∧ calm (supering (plateVa 0 0x1FFF0) 63) ∧ 0x1FFF0 % 16 = 0 ∧
    0x1FFF0 + 16 ≤ 0x20000 :=
  ⟨by decide +kernel, by decide +kernel, by decide +kernel, calm_of (by decide +kernel), by decide +kernel, by decide, by decide,
    by decide +kernel, calm_of (by decide +kernel), by decide, by decide⟩

/-- An access of owner 1 past the caches to 0x7000 of image B. -/
def accessB (id : Nat) (op : AccOp) : Access :=
  ⟨id, op, .main .b, 0x7000, 8, 0x5000, .rc, .hbm, true, 3, 1, false, false, none, false, false, [], false, false⟩
/-- Core 0 with the accesses `l` and the gathers `g`. -/
def issued (l : List Access) (g : List Gather) (f : Core → Core) : State :=
  { with_ id with cores := [(0, { core with pend := l, gathers := g }), (1, f core)] }
/-- The gather of a load of a doubleword into s5. -/
def gatherS5 : Gather := ⟨7, .sreg ⟨false, 5⟩ 8 false, [⟨0, 0, 8, none⟩], 0x5000, none, none⟩

theorem ready_of {s : State} {n id : Nat} {a : Access} (h : (s.core n).access id = some a ∧ s.performable n a = true) :
    ready s n id a := h
theorem plainB_of {s : State} {a : Access} (h : (a.dest = .main .b ∧ a.cache = 3 ∧ a.detected = false ∧ s.latent = []) ∧
    Store.find (a.addr / 128) s.poisonB = none ∧ a.size ≤ 8) : plainB s a :=
  ⟨h.1.1, h.1.2.1, h.1.2.2.1, h.1.2.2.2, h.2.1, h.2.2⟩
theorem unmarked_of {s : State} {o : Nat} (h : ∀ j, j < 4 → (Vd.ds (s.func (s.funcOf o)).entry j).1 % 2 = 0) : unmarked s o := h

theorem witness_AccessesArePerformed :
    let a := accessB 3 (.load 7 0)
    let s := issued [a] [gatherS5] id
    ready s 0 3 a ∧ soleLoad s 0 a ⟨false, 5⟩ 8 false ∧ plainB s a :=
  ⟨ready_of (by decide +kernel), ⟨gatherS5, rfl, rfl, rfl, rfl, rfl, rfl, by decide⟩, plainB_of (by decide +kernel)⟩

theorem witness_AccessesArePerformed_store :
    let a := accessB 3 (.store 0x1122334455667788)
    let b : Access := { a with dest := .plate 1, addr := 0x1FFF8 }
    (ready (issued [a] [] id) 0 3 a ∧ plainB (issued [a] [] id) a ∧ unmarked (issued [a] [] id) a.owner) ∧
    ready (issued [b] [] id) 0 3 b ∧ b.op = .store 0x1122334455667788 ∧ b.dest = .plate 1 ∧ b.addr < 0x20000 ∧ b.size ≤ 8 ∧
    (∀ q ∈ ((issued [b] [] id).core 1).tiles.toList, q.state ≠ .filling) ∧
    ∀ x ∈ ((issued [b] [] id).core 0).pend, (issued [b] [] id).wouldFail x = false :=
  ⟨⟨ready_of (by decide +kernel), plainB_of (by decide +kernel), unmarked_of (by decide +kernel)⟩, ready_of (by decide +kernel),
    rfl, rfl, by decide, by decide, by decide +kernel, by decide +kernel⟩

theorem witness_AccessesArePerformed_fence_and_dec :
    let d : Access := { accessB 3 (.dec 2 9 none) with dest := .plate 1, addr := 0x1FFF0 + 8, size := 4 }
    ready (issued [fence] [] id) 0 0 fence ∧ fence.op = .fence false 4 ∧
    ready (issued [d] [] id) 0 3 d ∧ d.dest = .plate 1 ∧ d.addr = 0x1FFF0 + 8 ∧ 0x1FFF0 + 16 ≤ 0x20000 ∧ ((issued [d] [] id).core 1).readyWait = [] ∧
    ((issued [d] [] id).core 1).hasRoom 1 = true ∧ (∀ x ∈ ((issued [d] [] id).core 0).pend, (issued [d] [] id).wouldFail x = false) :=
  ⟨ready_of (by decide +kernel), rfl, ready_of (by decide +kernel), rfl, rfl, by decide, by decide +kernel, by decide +kernel, by decide +kernel⟩

theorem witness_AccessesArePerformed_forward :
    let b := accessB 2 (.store 0x1122334455667788)
    let a : Access := { accessB 3 (.load 7 0) with addr := 0x7006, size := 2 }
    let s := issued [fence, b, a] [{ gatherS5 with dest := .sreg ⟨false, 5⟩ 2 true, parts := [⟨0, 0, 2, none⟩] }] id
    let s' := issued [b, a] [{ gatherS5 with dest := .sreg ⟨false, 5⟩ 2 true, parts := [⟨0, 0, 2, none⟩] }] id
    (s.core 0).access 2 = some b ∧ soleLoad s' 0 a ⟨false, 5⟩ 2 true ∧ s'.forwardable 0 a b = true ∧
    (s'.core 0).access 3 = some a :=
  ⟨by decide +kernel, ⟨_, rfl, rfl, rfl, rfl, rfl, rfl, by decide⟩, by decide +kernel, by decide +kernel⟩

/-- A line of 128 bytes of owner 1. -/
def lineOf (dirty : Bool) : CLine := ⟨List.replicate 128 7, dirty, none, 1, false⟩

theorem plainC_of {s : State} {a : Access} {l : CLine} (h : (a.dest = .main .c ∧ a.detected = false) ∧
    (s.latent = [] ∧ s.copies = [] ∧ s.merges = []) ∧ Store.find (a.addr / 128) s.memC = some l ∧ l.poison = none) : plainC s a l :=
  ⟨h.1.1, h.1.2, h.2.1.1, h.2.1.2.1, h.2.1.2.2, h.2.2.1, h.2.2.2⟩

theorem witness_AccessesArePerformed_cached :
    let a : Access := { accessB 3 (.load 7 0) with dest := .main .c, cache := 1 }
    let b : Access := { a with op := .store 0x1122334455667788 }
    let s : State := { issued [a] [gatherS5] id with memC := [(0xE0, lineOf true)] }
    let t : State := { issued [b] [] id with memC := [(0xE0, lineOf true)] }
    (ready s 0 3 a ∧ soleLoad s 0 a ⟨false, 5⟩ 8 false ∧ plainC s a (lineOf true)) ∧ ready t 0 3 b ∧ plainC t b (lineOf true) :=
  ⟨⟨ready_of (by decide +kernel), ⟨gatherS5, rfl, rfl, rfl, rfl, rfl, rfl, by decide⟩, plainC_of (by decide +kernel)⟩,
    ready_of (by decide +kernel), plainC_of (by decide +kernel)⟩

theorem witness_LinesAndRepliesMove :
    (with_ id).populated (128 * 0xE0) = true ∧ Store.find 0xE0 (with_ id).memC = none ∧ (with_ id).copies = [] ∧
    Store.find 0xE0 ({ with_ id with memC := [(0xE0, lineOf true)] } : State).memC = some (lineOf true) ∧ (lineOf true).dirty = true ∧
    (with_ id).latent = [] ∧ unmarked (with_ id) 1 ∧ (lineOf false).dirty = false :=
  ⟨by decide +kernel, by decide, by decide, rfl, rfl, rfl, unmarked_of (by decide +kernel), rfl⟩

theorem witness_LinesAndRepliesMove_replies :
    (⟨3, 0xE0, 1, [], false, none⟩ : Merge).closed = false ∧ (⟨3, 0xE0, 1, [], false, none⟩ : Merge).is (3 : BitVec 2).toNat (1 : BitVec 8).toNat 0xE0 = true ∧
    ((with_ fun c => { c with hold := .reply }).core 0).hold = .reply ∧
    (let q : ReadyPush := ⟨0x5000, 9, 1⟩
     ((with_ fun c => { c with readyWait := [q] }).core 0).readyWait = q :: [] ∧
      ((with_ fun c => { c with readyWait := [q] }).core 0).hasRoom 1 = true) := by decide +kernel

theorem witness_LinesAndRepliesMove_async :
    let a := accessB 3 (.load 7 0)
    let g : Gather := ⟨7, .async 0x2003 9, [⟨0, 0, 8, none⟩], 0x5000, none, none⟩
    let s := issued [a] [g] id
    ready s 0 3 a ∧ s.lateLoads = [] ∧ plainB s a ∧ a.size = 8 ∧ a.op = .load g.gid 0 ∧ (s.core 0).gathers = [g] ∧
    g.dest = .async 0x2003 9 ∧ g.parts = [⟨0, 0, 8, none⟩] ∧ g.poison = none :=
  ⟨ready_of (by decide +kernel), rfl, plainB_of (by decide +kernel), rfl, rfl, rfl, rfl, rfl, rfl⟩

/-- A read of core 0 that has joined the window of die 0 for line 0xE0. -/
def joinedRead : State :=
  { issued [{ accessB 3 (.load 7 0) with dest := .main .c, cache := 1 }] [gatherS5] id with
    merges := [⟨0, 0xE0, 1, [(0, 3)], false, none⟩] }

theorem witness_LinesAndRepliesMove_merge :
    let a : Access := { accessB 3 (.load 7 0) with dest := .main .c, cache := 1 }
    joinedRead.merges = [⟨0, 0xE0, 1, [(0, 3)], false, none⟩] ∧ (⟨0, 0xE0, 1, [(0, 3)], false, none⟩ : Merge).is 0 1 0xE0 = true ∧
    (joinedRead.core 0).access 3 = some a ∧ a.id = 3 ∧ soleLoad joinedRead 0 a ⟨false, 5⟩ 8 false ∧ a.path = [] ∧
    a.dest = .main .c ∧ a.addr / 128 = 0xE0 ∧ a.detected = false ∧ a.owner = 1 ∧ a.sup = false ∧ joinedRead.copies = [] ∧
    joinedRead.latent = [] ∧ Store.find 0xE0 joinedRead.memC = none ∧ Store.find 0xE0 joinedRead.poisonB = none ∧
    a.addr % 128 + 8 ≤ 128 :=
  ⟨rfl, rfl, by decide +kernel, rfl, ⟨gatherS5, rfl, rfl, rfl, rfl, rfl, rfl, by decide⟩, rfl, rfl, by decide, rfl, rfl, rfl, rfl, rfl,
    rfl, rfl, by decide⟩

theorem witness_LinesAndRepliesMove_window :
    ((with_ fun c => { c with gathers := [⟨7, .async 0x2003 9, [⟨0, 0, 8, some 5⟩], 0x5000, none, none⟩] }).core 0).gathers =
      [⟨7, .async 0x2003 9, [⟨0, 0, 8, some 5⟩], 0x5000, none, none⟩] ∧ (with_ id).lateLoads = [] := by decide

/-- Core 0 in its dispatcher, with one record waiting in ring `j`. -/
def waiting (j : Nat) : State :=
  with_ fun c => { ((c.setRing j { c.ring j with tail := (c.ring j).disp + 1, mode := 1, handler := 0x300 }).plateWrite 0x440 8 0x3#64) with handler := none }

theorem witness_HandlersAreDispatched :
    let s := waiting 0
    let t := waiting 2
    let u := with_ fun c => { c with handler := none, faultBox := [(0, 3)] }
    s.canDispatch 0 = true ∧ (s.core 0).chooseRing = some 0 ∧ (s.core 0).faultBox = [] ∧ (s.core 0).poisonReplies = [] ∧
    t.canDispatch 0 = true ∧ (t.core 0).chooseRing = some 2 ∧
    recKind ((t.core 0).plateRec (((t.core 0).ring 2).slotAt ((t.core 0).ring 2).disp)) ≠ 5 ∧
    (waiting 1).canDispatch 0 = true ∧ ((waiting 1).core 0).chooseRing = some 1 ∧
    u.canDispatch 0 = true ∧ (u.core 0).chooseRing = some 0 ∧ (u.core 0).faultBox = (0, 3) :: [] ∧
    ((u.core 0).ring 0).waiting = 0 ∧ (with_ fun c => c.setRing 2 Ring.free).me.chooseRing = none := by decide +kernel

/-- Core 0 blocked with `b`. -/
def blockedBy (b : Blocked) : State := with_ fun c => { c with hold := .blocked b }
/-- A block on core `m`'s inbox (cause 5). -/
def blockOn (m : Nat) : Blocked := ⟨1, 5, 0, m, 0, false, 0xF, none, none⟩
/-- Cores 0 and 1 blocked on each other's full inbox, with trap entries. -/
def deadlocked : State :=
  let s := { housed id with cores := [(0, { core with hold := .blocked (blockOn 1) }), (1, { core with hold := .blocked (blockOn 0) })] }
  { s with scans := [(0, s.waitFor)] }

theorem witness_CoresWaitAndTrap :
    let s := with_ fun c => { c with handler := some { handler with count := 0x400000 } }
    (∃ h, (s.core 0).handler = some h ∧ h.limit ≤ h.count) ∧ (s.core 0).sup = false ∧
    ((s.core 0).hold = .none ∧ (s.core 0).rangeAt = 0 ∧ (s.core 0).begun = false) ∧ (s.core 0).pending = none ∧ (s.core 0).blk = false ∧
    ((with_ fun c => { c with begun := true }).core 0).begun = true ∧ ((with_ fun c => { c with rangeAt := 1 }).core 0).rangeAt ≠ 0 ∧
    ((with_ fun c => { c with pending := some (0x0C, 5) }).core 0).pending = some (0x0C, 5) ∧
    ((with_ fun c => { c with pending := some (0x0C, 5) }).core 0).handler.isSome = true ∧
    ((with_ fun c => { c with sup := true, supCount := 2 ^ 20 }).core 0).sup = true ∧
    2 ^ 20 ≤ ((with_ fun c => { c with sup := true, supCount := 2 ^ 20 }).core 0).supCount :=
  ⟨⟨_, rfl, by decide⟩, by and_intros <;> decide +kernel⟩

theorem witness_CoresWaitAndTrap_blocked :
    let b : Blocked := ⟨1, 3, 2, 0, 256, false, 0, none, none⟩
    ((blockedBy b).core 0).hold = .blocked b ∧ b.gate = 1 ∧ 256 ≤ b.resid ∧ b.cause = 3 ∧ b.done = none ∧
    (((blockedBy b).regs fun c => c.setRing 2 { c.ring 2 with tail := 2 }).core 0 |>.ring b.ring).waiting ≠ 0 ∧
    ((⟨2, 1, 0, 0, 65536, false, 0, none, none⟩ : Blocked).gate = 2 ∧ 65536 ≤ (⟨2, 1, 0, 0, 65536, false, 0, none, none⟩ : Blocked).resid) ∧
    (⟨3, 1, 0, 0, 2 ^ 30, false, 0, some 7, some ⟨false, 5⟩⟩ : Blocked).done = some 7 ∧
    ((blockedBy b).core 0).hangExp ≤ 40 ∧ 2 ^ ((blockedBy b).core 0).hangExp ≤ (⟨3, 1, 0, 0, 2 ^ 30, false, 0, none, none⟩ : Blocked).resid ∧
    ((blockedBy b).core 0).faultHandler = 0 ∧ Store.get [] (3 : BitVec 2).toNat (blockedBy b).scans = [] ∧
    (blockOn 1).cause = 5 ∧ (blockOn 1).done = none ∧
    (∃ q ∈ ((deadlocked.updCore 1 fun c => { c with portWait := [⟨1, 0, 0, true, true, 0⟩] }).core (blockOn 1).core).portWait,
      q.issuer = 0 ∧ q.ring = (blockOn 1).ring ∧ q.tag = 0 ∧ q.granted = true) := by decide +kernel

theorem witness_CoresWaitAndTrap_gates :
    let idle := with_ fun c => { c with handler := none, gate := 1, calm := 256 }
    let wait := with_ fun c => { c with jwaitAt := some c.pc, gate := 1, calm := 256 }
    (idle.core 0).idles = true ∧ (idle.core 0).gate = 1 ∧ 256 ≤ (idle.core 0).calm ∧ (∀ b, (idle.core 0).hold ≠ .blocked b) ∧
    (wait.core 0).jwaits = true ∧ (∀ b, (wait.core 0).hold ≠ .blocked b) ∧
    ((with_ fun c => { c with handler := none, gate := 2, calm := 65536 }).core 0).idles = true ∧
    ((with_ fun c => { c with gate := 2 }).core 0).idles = false ∧ ((with_ fun c => { c with gate := 2 }).core 0).jwaits = false ∧
    ((with_ fun c => { c with gate := 2 }).core 0).gate ≠ 1 := by
  refine ⟨by decide +kernel, by decide +kernel, by decide +kernel, ?_, by decide +kernel, ?_, by decide +kernel, by decide +kernel,
    by decide +kernel, by decide +kernel⟩ <;> intro b h <;> cases h

theorem witness_CoresWaitAndTrap_deadlock :
    let s := deadlocked
    (0 : BitVec 11).toNat < 1 ∧ dieOf (0 : BitVec 11).toNat = (0 : BitVec 2).toNat ∧ s.waitFor = [(0, 1), (1, 0)] ∧
    Store.get [] 0 s.scans = s.waitFor ∧ (s.core 0).hold = .blocked (blockOn 1) ∧ (s.core 1).hold = .blocked (blockOn 0) ∧
    bitOf (blockOn 1).seen 0 = true ∧ bitOf (blockOn 0).seen 0 = true ∧
    (∀ k ∈ [0, 1], (s.core k).sup = false ∧ (s.core k).pending = none ∧ Vd.trapEnt (s.vdOf k) ≠ 0 ∧
      (s.core k).handler.bind Handler.transfer = none) ∧
    Own.hasCore (s.owner (s.core 0).own).entry (7 : BitVec 11).toNat = true := by decide +kernel
/-- A page table of owner 1 whose one leaf maps the low 16 GiB to themselves, readable, writable and executable. -/
def walking (f : Core → Core) : State := { housed f with
  memB := [(0x7FE0000000, 0x1F)]
  owners := [(1, { owner1 with entry := BitVec.ofNat 4096 (bytes [(0, 0x7FE0000000), (17, 1), (256, 0xFF)]) })] }

theorem witness_TilesRingsAndLaunchesMove_tiles :
    let s := housed fun c => ((c.setTile 30 ⟨.filling, 1, 3, 5, 2, 1⟩).setTile 29 ⟨.ready, 0, 0, 0, 0, 0⟩).setTile 28
      ⟨.draining, 1, 3, 5, 2, 0x81⟩
    ((s.core 0).tile 28).state = .draining ∧
    (s.core 0).ctx ≠ none ∧ (0 : BitVec 3) ≠ 1 ∧ (3 : BitVec 3) ≠ 2 ∧ ((s.core 0).tile 31).state = .empty ∧
    (((0x000003FF0001F000#64).extractLsb' 7 10).toNat + ((0x000000000001FF80#64).extractLsb' 32 10).toNat + 1) * 128 ≤ 0x20000 ∧
    ((s.core 0).tile 31).state ≠ .filling ∧ ((s.core 0).tile 30).state = .filling ∧ ((s.core 0).tile 31).agent = 0 ∧
    ((s.core 0).tile 29).state = .ready := by decide +kernel

/-- Ring 2 of core 0 holds one record with the words `ws`, under the descriptor `g`. -/
def ringed (g : Ring) (ws : List Word) : State :=
  let c := (ws.zipIdx).foldl (fun c p => c.plateWrite (0x400 + 8 * p.2) 8 p.1) (core.setRing 2 g)
  { walking id with cores := [(0, { c with handler := none, hangExp := 17 }), (1, { core with handler := none })] }
/-- A ring of one waiting record that forwards to ring 2 of core 1. -/
def forwards : Ring := { ring with mode := 2, tail := 1, lv := true, lcore := 1, lring := 2 }
/-- The words of a splice that changes the handler of ring 2 of core 0 to 0x5000, with SSEQ 9. -/
def spliceWords : List Word := [0x0000000900000004, 7, 0x0B, 0x5000, 0, 0x40, 0, 0]

theorem witness_TilesRingsAndLaunchesMove_forward :
    let s := ringed forwards [2, 7, 1, 2, 3, 4, 5, 6]
    s.engineFree 0 2 = true ∧ recKind ((s.core 0).headRec 2) ≠ 4 ∧ recKind ((s.core 0).headRec 2) ≠ 5 ∧
    ((s.core 0).ring 2) = forwards ∧ forwards.halt = false ∧
    forwards.lcore.toNat ≠ (0 : BitVec 11).toNat ∧ (s.core forwards.lcore.toNat).ctx = (s.core 0).ctx ∧
    (s.core forwards.lcore.toNat).hasRoom forwards.lring.toNat = true ∧
    (s.core 0).pushPending forwards.lcore.toNat forwards.lring.toNat = false := by decide +kernel

theorem witness_TilesRingsAndLaunchesMove_splice :
    let s := ringed { ring with mode := 1, tail := 1 } spliceWords
    s.engineFree 0 2 = true ∧ recKind ((s.core 0).headRec 2) = 4 ∧ (s.core 0).spliceHere 0 2 = true ∧
    ((s.core 0).ring 2).grp = 0 ∧ s.spliceCause 0 2 ((s.core 0).headRec 2) = (none, none) ∧
    Splice.op ((s.core 0).headRec 2) = 3 ∧ Splice.xhand ((s.core 0).headRec 2) = 0 ∧
    Splice.rhand ((s.core 0).headRec 2) = 0 ∧ (s.core 0).commits = [] ∧ s.releasedStores 0 = [] ∧ s.pushWaits 0 3 = false := by decide +kernel

theorem witness_TilesRingsAndLaunchesMove_splice_waits :
    let s := (ringed { ring with mode := 1, tail := 1 } spliceWords).updCore 0 fun c =>
      { c with pend := [accessB 3 (.store 5)] }
    s.engineFree 0 2 = true ∧ s.spliceCause 0 2 ((s.core 0).headRec 2) = (none, none) ∧ s.releasedStores 0 ≠ [] ∧
    (∀ x ∈ (s.core 0).commits, x.ring ≠ 2) := by
  decide +kernel

theorem witness_TilesRingsAndLaunchesMove_halt :
    let s := (ringed { ring with mode := 1, tail := 1, grp := 1 } spliceWords).updCore 0 fun c =>
      c.setRing 3 { ring with mode := 1, grp := 1, base := 48 }
    s.engineFree 0 2 = true ∧ recKind ((s.core 0).headRec 2) = 4 ∧ (s.core 0).spliceHere 0 2 = true ∧
    ((s.core 0).ring 2).halt = false ∧ 1 < ((s.core 0).stage 2).length := by decide +kernel

theorem witness_TilesRingsAndLaunchesMove_timeout :
    let s := (ringed { ring with mode := 1, grp := 1, tail := 1, halt := true, hwait := 2 ^ 17 } spliceWords).updCore 0 fun c =>
      c.setRing 3 { ring with mode := 1, grp := 1, base := 48 }
    ((s.core 0).ring 2).grp ≠ 0 ∧ ((s.core 0).ring 2).halt = true ∧ (s.core 0).stopped = false ∧ (s.core 0).hangExp ≤ 31 ∧
    2 ^ (s.core 0).hangExp ≤ ((s.core 0).ring 2).hwait.toNat ∧ s.applying 0 2 = false ∧
    (2 ∈ (s.core 0).stage 2 ∧ ((s.core 0).ring 2).waiting ≠ 0 ∧ recKind ((s.core 0).headRec 2) = 4 ∧ (s.core 0).spliceHere 0 2 = true) ∧
    ((s.core 0).ring 3).waiting = 0 := by decide +kernel

theorem witness_TilesRingsAndLaunchesMove_transfer :
    let s := with_ fun c => { c with handler := none, transfer := some (0x6000, 0x000E000000000040, 9, 7, ⟨0, 2, [2], [(0, 7)]⟩) }
    s.performedAll [(0, 7)] = true ∧ s.pushWaits 0 3 = false ∧ s.dispatcher 0 = true ∧ (s.core 0).transfer = some (0x6000, 0x000E000000000040, 9, 7, ⟨0, 2, [2], [(0, 7)]⟩) := by decide +kernel

/-- A launch record of three messages to core 0. -/
def launchBytes : BitVec 1024 := BitVec.ofNat 1024 (bytes [(0, 0x2000), (8, 2 ^ 45 + 4), (16, 2), (42, 1), (44, 77), (64, 3)])
/-- Function 1 runs, with one record in its launch queue of four at 0x7FE0001000; its words there are `r`. -/
def launching (r : BitVec 1024) (y : Option Sending) : State := { housed id with
  memB := writeBytes bMem r 0x7FE0001000 128 []
  funcs := [(1, { device with
    entry := BitVec.ofNat 2048 (bytes [(0, 1), (32, 1), (36, 0x11), (64, 0x7FE0001002)]), tail := 1, sending := y })] }

theorem witness_TilesRingsAndLaunchesMove_launch :
    let s := launching launchBytes none
    let x := s.func 1
    s.boot.state = 4 ∧ (({ State.reset with boot := { State.reset.boot with state := 14 } } : State).boot.state ∉ [4, 2, 3, 15]) ∧
    ((4 - x.head).toNat ≤ 2 ^ Vd.lqLog2 (if x.slice = .off then x.entryNext else x.entry) ∧
      2 ^ Vd.lqLog2 (if x.slice = .off then x.entryNext else x.entry) < (5 - x.head).toNat) ∧
    x.sending = none ∧ x.slice = .running ∧ x.launchStop = false ∧ x.tail ≠ x.head ∧
    Launch.wellFormed (s.launchRec 1) = true ∧ s.launchSet 1 (s.launchRec 1) = true ∧
    Launch.wellFormed ((launching 0 none).launchRec 1) = false := by decide +kernel

theorem witness_TilesRingsAndLaunchesMove_send :
    let s := launching launchBytes (some ⟨launchBytes, [2, 0, 0, 0, 0, 0]⟩)
    (s.func 1).sending = some ⟨launchBytes, [2, 0, 0, 0, 0, 0]⟩ ∧ s.launchOwner 1 (Launch.first launchBytes) = some 1 ∧
    s.liveFor 1 0 = true ∧ (s.core 0).hasRoom 0 = true ∧ (s.func 1).launchStop = false ∧
    portIdle s 1 0 := by
  unfold portIdle draws
  decide +kernel

/-- A steep of kind 2 into tile 31 from 0x5000, in units of sixteen doublewords, at element `e`. -/
def tileSteep (e : Nat) : Agent := ⟨([2 ||| 0x10 ||| 0x300 ||| (31 <<< 13) ||| (1 <<< 33), 0x5000, 0, 0, 0, 0, 0, 0, 16, 0, 0, 0, 0, 8] :
  List Word) ++ List.replicate 10 0, .running, e, 0, [], 0, 0, false, false, 1, [{ page with leaf := 0x0100000000000000 ||| 0x700F }]⟩
/-- The same for a rack of kind 4. -/
def tileRack (e : Nat) : Agent := { tileSteep e with desc := rackWords }
/-- Core 0 with agent `h`, and tile 31 in state `st`. -/
def agented (h : Nat) (a : Agent) (st : TileState) : State :=
  with_ fun c => { c.setTile 31 ⟨st, 0, 0, 1022, 0, BitVec.ofNat 8 h⟩ with agents := [(h, a)] }

theorem moving_of {s : State} {n h k : Nat} {a : Agent} (hh : (Store.find h (s.core n).agents = some a ∧ a.state = .running ∧
    a.faulted = false ∧ a.kind = k) ∧ (s.core n).ctx = some a.owner ∧ (s.core n).stopped = false) : moving s n h k a :=
  ⟨hh.1.1, hh.1.2.1, hh.1.2.2.1, hh.1.2.2.2, hh.2.1, hh.2.2⟩

theorem agentPlace_of {s : State} {n h : Nat} {a : Agent} {w : Bool} {va pa : Nat} (t : Trans)
    (h1 : s.cached (.agent n h) a.owner false va = some t ∧ leafAllows t.leaf (!w) w false = true ∧
      (w = true → Leaf.cow t.leaf = false) ∧ Leaf.tier t.leaf ≠ 1)
    (h2 : (∀ x ∈ a.tlb, 12 ≤ x.shift) ∧ pa = Leaf.frame t.leaf + va % 2 ^ t.shift ∧
      (w = false → Store.find (pa / 128) s.poisonB = none)) (h3 : s.paOk t.leaf t.shift va = true) (h4 : s.breaks = []) :
    agentPlace s n h a w va pa :=
  ⟨t, h1.1, h1.2.1, h3, h1.2.2.1, h1.2.2.2, h2.1, h2.2.1, h2.2.2, fun _ b hb => by rw [h4] at hb; cases hb⟩

theorem witness_AgentsMoveData_start :
    let s := agented 8 (tileSteep 0) .empty
    let t := agented 0x88 (tileRack 0) .ready
    s.latent = [] ∧ moving s 0 8 2 (tileSteep 0) ∧ ((s.core 0).tile 31).state = .empty ∧ ((s.core 0).tile 31).agent = (8 : BitVec 8) ∧
    (s.core 0).noFlight 31 = true ∧ (t.core 0).noFlight 31 = true ∧
    (tileSteep 0).elem < ADesc.outer (tileSteep 0).desc ∧ moving t 0 0x88 4 (tileRack 0) ∧ ((t.core 0).tile 31).state = .ready ∧
    ((t.core 0).tile 31).agent = (0x88 : BitVec 8) ∧ (tileRack 0).elem < ADesc.outer (tileRack 0).desc :=
  ⟨rfl, moving_of (by decide +kernel), by decide +kernel, by decide +kernel, rfl, rfl, by decide +kernel, moving_of (by decide +kernel),
    by decide +kernel, by decide +kernel, by decide +kernel⟩

/-- The address of element `i` of the unit that the tile's agent moves next. -/
def unitAt (a : Agent) (i : Nat) : Nat := ADesc.addr a.desc ((a.elem - 1) * ADesc.inner a.desc + 0 * (128 / ADesc.z a.desc) + i)

theorem witness_AgentsMoveData_fill :
    let s := agented 8 (tileSteep 1) .filling
    moving s 0 8 2 (tileSteep 1) ∧ ((s.core 0).tile 31).state = .filling ∧ elementSize (ADesc.z (tileSteep 1).desc) ∧
    (∀ y, y < 32 → y ≠ 31 → ((s.core 0).tile y).state ≠ .filling) ∧
    ∀ i, i < 16 → unitAt (tileSteep 1) i % 8 = 0 ∧ agentPlace s 0 8 (tileSteep 1) false (unitAt (tileSteep 1) i) (0x7000 + 8 * i) :=
  ⟨moving_of (by decide +kernel), by decide +kernel, Or.inr (Or.inr (Or.inr (by decide))), by decide +kernel, fun i hi => by
    have h : ∀ i, i < 16 → (unitAt (tileSteep 1) i % 8 = 0 ∧
        (agented 8 (tileSteep 1) .filling).cached (.agent 0 8) 1 false (unitAt (tileSteep 1) i) =
          some { page with leaf := 0x0100000000000000 ||| 0x700F }) ∧
        0x7000 + 8 * i = Leaf.frame (0x0100000000000000 ||| 0x700F) + unitAt (tileSteep 1) i % 2 ^ 12 ∧
        (agented 8 (tileSteep 1) .filling).paOk (0x0100000000000000 ||| 0x700F) 12 (unitAt (tileSteep 1) i) = true := by decide +kernel
    exact ⟨(h i hi).1.1, agentPlace_of _ ⟨(h i hi).1.2, by decide, by decide, by decide⟩
      ⟨by decide, (h i hi).2.1, fun _ => rfl⟩ (h i hi).2.2 rfl⟩⟩

theorem witness_AgentsMoveData_drain :
    let s := agented 0x88 (tileRack 1) .draining
    moving s 0 0x88 4 (tileRack 1) ∧ ((s.core 0).tile 31).state = .draining ∧ unmarked s 1 ∧ ADesc.prog (tileRack 1).desc = 0 ∧
    (∀ f ∈ (s.core 0).flights, f.handle ≠ 0x88) ∧ (∀ i l, i < l → l < 16 → 0x7000 + 8 * i ≠ 0x7000 + 8 * l) ∧
    ∀ i, i < 16 → unitAt (tileRack 1) i % 8 = 0 ∧ agentPlace s 0 0x88 (tileRack 1) true (unitAt (tileRack 1) i) (0x7000 + 8 * i) :=
  ⟨moving_of (by decide +kernel), by decide +kernel, unmarked_of (by decide +kernel), by decide, by decide +kernel, fun i l _ _ => by omega, fun i hi => by
    have h : ∀ i, i < 16 → (unitAt (tileRack 1) i % 8 = 0 ∧
        (agented 0x88 (tileRack 1) .draining).cached (.agent 0 0x88) 1 false (unitAt (tileRack 1) i) =
          some { page with leaf := 0x0100000000000000 ||| 0x700F }) ∧
        0x7000 + 8 * i = Leaf.frame (0x0100000000000000 ||| 0x700F) + unitAt (tileRack 1) i % 2 ^ 12 ∧
        (agented 0x88 (tileRack 1) .draining).paOk (0x0100000000000000 ||| 0x700F) 12 (unitAt (tileRack 1) i) = true := by decide +kernel
    exact ⟨(h i hi).1.1, agentPlace_of _ ⟨(h i hi).1.2, by decide, by decide, by decide⟩
      ⟨by decide, (h i hi).2.1, fun h => nomatch h⟩ (h i hi).2.2 rfl⟩⟩

/-- Core 0 whose tile 31 was released with unit 0 of its drain in flight. -/
def flying : State := (agented 0x88 (tileRack 1) .empty).updCore 0 fun c => { c with flights := [⟨31, 0x88, tileRack 1, 0, 0, true⟩] }

theorem witness_AgentsMoveData_flight :
    let f : Flight := ⟨31, 0x88, tileRack 1, 0, 0, true⟩
    (flying.core 0).flights.find? (fun f => f.handle == (0x88 : BitVec 8).toNat) = some f ∧
    Store.find (0x88 : BitVec 8).toNat (flying.core 0).agents = some (tileRack 1) ∧ f.agent.owner = (tileRack 1).owner ∧
    unmarked flying (tileRack 1).owner ∧ elementSize (ADesc.z (tileRack 1).desc) ∧ f.tile < 32 ∧
    ∀ i, i < 16 → ADesc.addr f.agent.desc (f.agent.unitElem f.unit i) % 8 = 0 ∧
      agentPlace flying 0 0x88 (tileRack 1) true (ADesc.addr f.agent.desc (f.agent.unitElem f.unit i)) (0x7000 + 8 * i) :=
  ⟨by decide +kernel, by decide +kernel, rfl, unmarked_of (by decide +kernel), Or.inr (Or.inr (Or.inr (by decide))), by decide,
    fun i hi => by
      have h : ∀ i, i < 16 → (ADesc.addr (tileRack 1).desc ((tileRack 1).unitElem 0 i) % 8 = 0 ∧
          flying.cached (.agent 0 0x88) 1 false (ADesc.addr (tileRack 1).desc ((tileRack 1).unitElem 0 i)) =
            some { page with leaf := 0x0100000000000000 ||| 0x700F }) ∧
          0x7000 + 8 * i = Leaf.frame (0x0100000000000000 ||| 0x700F) +
            ADesc.addr (tileRack 1).desc ((tileRack 1).unitElem 0 i) % 2 ^ 12 ∧
          flying.paOk (0x0100000000000000 ||| 0x700F) 12 (ADesc.addr (tileRack 1).desc ((tileRack 1).unitElem 0 i)) = true := by
        decide +kernel
      exact ⟨(h i hi).1.1, agentPlace_of _ ⟨(h i hi).1.2, by decide, by decide, by decide⟩
        ⟨by decide, (h i hi).2.1, fun h => nomatch h⟩ (h i hi).2.2 rfl⟩⟩

/-- A steep of kind 1 to ring 2, at its record `k`, with a marker. -/
def ringSteep (k : Nat) : Agent := { tileSteep (6 * k) with desc := steepWords.set 0 (1 ||| 0x10 ||| 0x300 ||| 0x800 ||| (2 <<< 18)), count := k }

theorem witness_AgentsMoveData_records :
    let s := agented 1 (ringSteep 1) .empty
    let t := agented 1 (ringSteep 2) .empty
    moving s 0 1 1 (ringSteep 1) ∧ s.targetOk 0 (ADesc.tcore (ringSteep 1).desc) = true ∧
    (s.core (ADesc.tcore (ringSteep 1).desc)).hasRoom (ADesc.ring (ringSteep 1).desc) = true ∧
    ((s.core (ADesc.tcore (ringSteep 1).desc)).ring (ADesc.ring (ringSteep 1).desc)).log2n ≠ 0 ∧
    elementSize (ADesc.z (ringSteep 1).desc) ∧ (ringSteep 1).count < ADesc.records (ringSteep 1).desc ∧
    (∀ i, i < 6 → ADesc.addr (ringSteep 1).desc (6 + i) % 8 = 0 ∧
      agentPlace s 0 1 (ringSteep 1) false (ADesc.addr (ringSteep 1).desc (6 + i)) (0x7030 + 8 * i)) ∧
    moving t 0 1 1 (ringSteep 2) ∧ (ringSteep 2).count = ADesc.records (ringSteep 2).desc ∧ ADesc.mark (ringSteep 2).desc = true ∧
    portIdle s 1 (ADesc.tcore (ringSteep 1).desc) :=
  ⟨moving_of (by decide +kernel), by decide +kernel, by decide +kernel, by decide +kernel, Or.inr (Or.inr (Or.inr (by decide))),
    by decide +kernel, fun i hi => by
      have h : ∀ i, i < 6 → (ADesc.addr (ringSteep 1).desc (6 + i) % 8 = 0 ∧
          (agented 1 (ringSteep 1) .empty).cached (.agent 0 1) 1 false (ADesc.addr (ringSteep 1).desc (6 + i)) =
            some { page with leaf := 0x0100000000000000 ||| 0x700F }) ∧
          0x7030 + 8 * i = Leaf.frame (0x0100000000000000 ||| 0x700F) + ADesc.addr (ringSteep 1).desc (6 + i) % 2 ^ 12 ∧
          (agented 1 (ringSteep 1) .empty).paOk (0x0100000000000000 ||| 0x700F) 12 (ADesc.addr (ringSteep 1).desc (6 + i)) = true := by
        decide +kernel
      exact ⟨(h i hi).1.1, agentPlace_of _ ⟨(h i hi).1.2, by decide, by decide, by decide⟩ ⟨by decide, (h i hi).2.1, fun _ => rfl⟩ (h i hi).2.2 rfl⟩,
    moving_of (by decide +kernel), by decide +kernel, by decide +kernel, by
      unfold portIdle draws
      decide +kernel⟩

/-- A rack of kind 3 with a buffer of eight records at 0x5000, its count at 0x5F00 and its consumer's at 0x5F08. -/
def ringRack : Agent := { tileSteep 0 with desc := [3 ||| 0x1000, 0x5000, 8, 0x5F08, 0x5F00] ++ List.replicate 19 0, buf := [5] }

theorem witness_AgentsMoveData_racks :
    let s := agented 0x81 ringRack .empty
    moving s 0 0x81 3 ringRack ∧ ringRack.buf = [5] ∧ unmarked s 1 ∧ (ADesc.base ringRack.desc + ringRack.written % ringRack.cap * 64) % 64 = 0 ∧
    agentPlace s 0 0x81 ringRack true (ADesc.base ringRack.desc + ringRack.written % ringRack.cap * 64) 0x7000 ∧
    ADesc.prog ringRack.desc ≠ 0 ∧ ADesc.prog ringRack.desc % 8 = 0 ∧ agentPlace s 0 0x81 ringRack true (ADesc.prog ringRack.desc) 0x7F00 ∧
    0x7000 + 64 ≤ 0x7F00 ∧ ringRack.wrap = true ∧ ADesc.ack ringRack.desc % 8 = 0 ∧
    agentPlace s 0 0x81 ringRack false (ADesc.ack ringRack.desc) 0x7F08 :=
  ⟨moving_of (by decide +kernel), rfl, unmarked_of (by decide +kernel), by decide +kernel,
    agentPlace_of _ ⟨rfl, by decide, by decide, by decide⟩ ⟨by decide, by decide +kernel, fun h => nomatch h⟩ (by decide +kernel) rfl, by decide, by decide,
    agentPlace_of _ ⟨rfl, by decide, by decide, by decide⟩ ⟨by decide, by decide +kernel, fun h => nomatch h⟩ (by decide +kernel) rfl, by decide, rfl, by decide,
    agentPlace_of _ ⟨rfl, by decide, by decide, by decide⟩ ⟨by decide, by decide +kernel, fun _ => rfl⟩ (by decide +kernel) rfl⟩

/-- A translation of owner 1 for the low 2 MiB, readable and writable and memory-side, at frame 0x200000. -/
def big : Trans := ⟨1, false, 0, 21, 0x010000000020000F⟩
/-- Cluster 0 with job `j` in entry 31, whose engines hold that translation. -/
def working (j : Job) : State := clustered (with_ id)
  { Cluster.reset with jobs := Cluster.reset.jobs.set 31 (some j), meTlb := [big], cpyTlb := [big] }

theorem alone {j : Job} {k : Nat} {x : Job} (hk : k ≠ 31) (h : ((working j).cluster 0).job k = some x) : x.holds = false := by
  have h2 : (Cluster.reset.jobs.set 31 (some j)).getD k none = some x := h
  simp only [Vector.getD, Array.getD] at h2
  split at h2
  · simp only [Vector.set, Cluster.reset, Array.getInternal_eq_getElem] at h2
    rw [Array.getElem_set_ne _ (by simpa [Cluster.reset] using ‹k < _›) (Ne.symm hk)] at h2
    simp at h2
  · cases h2

theorem place_of {s : State} {g va : Nat} {j : Job} {w : Bool} (h : s.tlbOf (j.walker g) = [big] ∧ j.owner = 1 ∧ j.sup = false ∧
    j.image big.leaf = .b ∧ s.poisonB = [] ∧ j.pages = [] ∧ s.breaks = []) (hv : va < 2 ^ 21) : enginePlace s g j .b w va (0x200000 + va) := by
  obtain ⟨ht, ho, hs, hi, hp, hg, hb⟩ := h
  have hm : va % 2 ^ big.shift = va := Nat.mod_eq_of_lt hv
  refine ⟨big, ?_, by cases w <;> decide, ?_, fun _ => by decide, hi, fun _ => by decide, ?_, by rw [hm]; rfl,
    fun x hx => (by rw [hg] at hx; cases hx), fun _ b hb' => (by rw [hb] at hb'; cases hb'),
    fun _ => by rw [State.poisonOf, hp]; rfl, fun h => nomatch h⟩
  · rw [State.cached, ht, ho, hs, List.find?, show va / 2 ^ big.shift = 0 from Nat.div_eq_of_lt hv]
    rfl
  · have h : Leaf.tier big.leaf ≠ 1 := by decide
    rw [State.paOk, if_neg h, hm]
    exact decide_eq_true (show 0x200000 + va < 0x8000000000 by omega)
  · rw [ht]; decide

theorem witness_JobsRun_start :
    let j := jobOf .queued
    (((working j).cluster 0).job 31 = some j ∧ j.state = .queued ∧ (working j).ownerRuns 0 j.owner = true ∧ j.owner < 256) ∧
    ∀ k x, k ≠ 31 → ((working j).cluster 0).job k = some x → x.holds = false :=
  ⟨by decide +kernel, fun _ _ => alone⟩

/-- A matrix job with `w` in word 0 of its card besides its formats and K. -/
def matrixJob (w : Word) (prog : Nat) : Job :=
  { jobOf .running with type := 1, card := matrixWords.set 0 (w ||| (3 <<< 27) ||| (9 <<< 13) ||| (9 <<< 9)), prog := prog }

/-- A job that holds the sectors of the addresses `l`, each byte 7. -/
def heldOf (j : Job) (l : List Nat) : Job :=
  { j with held := l.foldl (fun m va => Store.put (va / 128) (List.replicate 128 7) m) [] }

theorem witness_JobsRun_matrix :
    let j := matrixJob 0 31
    let r := heldOf j (j.rowLines 31)
    let a := { r with accs := (List.range 32).map fun i => (i, 5) }
    (((working j).cluster 0).job 31 = some j ∧ j.state = .running ∧ j.type = 1 ∧ j.prog < 32 ∧
      (working j).ownerRuns 0 j.owner = true ∧ (working j).latent = [] ∧ (working j).choices.headD 0 = 0 ∧
      j.nextRead (j.rowLines j.prog) = some 66032) ∧
    enginePlace (working j) 0 j .b false 66032 (0x200000 + 66032) ∧
    (((working r).cluster 0).job 31 = some r ∧ r.nextRead (r.rowLines r.prog) = none ∧ r.nextAcc = some 0) ∧
    ((working a).cluster 0).job 31 = some a ∧ a.nextRead (a.rowLines a.prog) = none ∧ a.nextAcc = none :=
  ⟨by decide +kernel, place_of (by decide +kernel) (by decide), by decide +kernel, by decide +kernel⟩

/-- A copy job at its element `prog`. -/
def copyJob (prog : Nat) : Job := { jobOf .running with prog := prog }
/-- A bank op that adds doublewords from 0x5000 and 0x5800 into 0x6000. -/
def bankJob : Job := { jobOf .running with card := (copyWords.set 0 0x300312).set 2 0x5800 }

theorem witness_JobsRun_copy :
    let j := copyJob 3
    let r := heldOf j [CCard.srcAt j.card 3]
    (((working j).cluster 0).job 31 = some j ∧ j.state = .running ∧ j.type = 2 ∧ j.prog < CCard.total j.card ∧
      (working j).ownerRuns 0 j.owner = true ∧ (working j).latent = [] ∧ CCard.z j.card = 8 ∧ CCard.two j.card = false ∧
      plateAt (CCard.srcAt j.card 3) = none ∧ plateAt (CCard.dstAt j.card 3) = none ∧
      j.nextRead [CCard.srcAt j.card 3] = some (CCard.srcAt j.card 3)) ∧
    enginePlace (working j) 0 j .b false (CCard.srcAt j.card 3) (0x200000 + CCard.srcAt j.card 3) ∧
    (((working r).cluster 0).job 31 = some r ∧ r.nextRead [CCard.srcAt j.card 3] = none ∧ r.run 128 3 = [3] ∧
      CCard.dstAt r.card 3 % CCard.z r.card = 0) ∧ unmarked (working r) r.owner ∧
    enginePlace (working r) 0 r .b true (CCard.dstAt r.card 3) (0x200000 + CCard.dstAt r.card 3) :=
  ⟨by decide +kernel, place_of (by decide +kernel) (by decide +kernel), by decide +kernel, unmarked_of (by decide +kernel),
    place_of (by decide +kernel) (by decide +kernel)⟩

theorem witness_JobsRun_bank :
    let j := bankJob
    let r := heldOf j [0x5000, 0x5800]
    (((working j).cluster 0).job 31 = some j ∧ j.state = .running ∧ j.type = 2 ∧ j.prog < CCard.total j.card ∧
      (working j).ownerRuns 0 j.owner = true ∧ CCard.bank j.card = true ∧ CCard.two j.card = true ∧ CCard.z j.card = 8 ∧
      j.nextRead ([CCard.srcAt j.card 0] ++ [CCard.src2At j.card 0]) = some (CCard.srcAt j.card 0) ∧
      r.nextRead ([CCard.srcAt j.card 0] ++ [CCard.src2At j.card 0]) = none ∧ j.prog = 0 ∧ r.run 128 0 = [0, 1, 2, 3] ∧
      (∀ i ∈ r.run 128 0, ∀ k ∈ r.run 128 0, i ≠ k → CCard.dstAt r.card i ≠ CCard.dstAt r.card k)) ∧
    ∀ i ∈ r.run 128 0, (plateAt (CCard.dstAt r.card i) = none ∧ CCard.dstAt r.card i % CCard.z r.card = 0) ∧
      enginePlace (working r) 0 r .b true (CCard.dstAt r.card i) (0x200000 + CCard.dstAt r.card i) :=
  ⟨by decide +kernel, fun i hi =>
    have h := (by decide +kernel : ∀ i ∈ (heldOf bankJob [0x5000, 0x5800]).run 128 0, (plateAt (CCard.dstAt bankJob.card i) = none ∧
      CCard.dstAt bankJob.card i % CCard.z bankJob.card = 0) ∧ CCard.dstAt bankJob.card i < 2 ^ 21) i hi
    ⟨h.1, place_of (by decide +kernel) h.2⟩⟩

/-- A copy from offset 0x400 of the plate of core 0. -/
def plateJob : Job := { jobOf .running with card := copyWords.set 1 (plateVa 0 0x400) }

theorem witness_JobsRun_copy_from_plate :
    let s := { housed id with clusters := (working plateJob).clusters }
    (s.cluster 0).job 31 = some plateJob ∧ s.ownerRuns 0 plateJob.owner = true ∧
    plateJob.nextRead [CCard.srcAt plateJob.card 0] = some (CCard.srcAt plateJob.card 0) ∧
    plateAt (CCard.srcAt plateJob.card 0) = some (0, 0x400) ∧ s.target plateJob.owner 0 = .live := by decide +kernel

theorem witness_JobsRun_suspend_and_complete :
    let s := { working (copyJob 1) with cores := [(0, { core with stopped := true })] }
    let j := copyJob 4
    let m := matrixJob (1 <<< 18) 32
    let d := { housed id with clusters := (working m).clusters }
    ((s.cluster 0).job 31 = some (copyJob 1) ∧ (copyJob 1).part = 0 ∧ (copyJob 1).wakeDue = false ∧ s.ownerRuns 0 1 = false) ∧
    (((working j).cluster 0).job 31 = some j ∧ j.type = 2 ∧ j.goal ≤ j.prog ∧ (working j).ownerRuns 0 1 = true) ∧
    ((d.cluster 0).job 31 = some m ∧ m.type = 1 ∧ m.goal ≤ m.prog ∧ d.ownerRuns 0 1 = true ∧ MCard.drn m.card = true ∧
      d.target 1 (MCard.dcore m.card) = .live ∧ 128 * m.part < drainBytes m.card ∧
      MCard.doff m.card + 128 * m.part + 128 ≤ 0x20000 ∧ m.cancel = false ∧
      ∀ x ∈ (d.core (MCard.dcore m.card)).tiles.toList, x.state ≠ .filling) := by decide +kernel

theorem witness_JobsRun_wake :
    let m := { matrixJob (1 <<< 17) 32 with wakeDue := true, moved := true, drained := true }
    let d := { housed id with clusters := (working m).clusters }
    (d.cluster 0).job 31 = some m ∧ m.state = .running ∧ m.wakeDue = true ∧ m.wakeCore = 0 ∧
    d.target m.owner m.wakeCore = .live ∧ (d.core m.wakeCore).hasRoom 0 = true ∧ portIdle d m.owner m.wakeCore ∧ m.cancel = false ∧
    { m with cancel := true }.wakeDue = true ∧ { m with cancel := true }.state = .running := by
  unfold portIdle draws
  decide +kernel

/-- A collective: an all-reduce of sixteen i64 elements from 0x5000 to 0x6000 in group 0. -/
def collWords : List Word := [0x300, 0x5000, 0x6000, 16, 0, 0, 0, 0]
/-- A job that takes part in it. -/
def collJob : Job := { jobOf .running with type := 3, card := collWords }

theorem collTable : (working collJob).groupTable 1 = 0 := by decide +kernel

theorem witness_JobsRun_collective_complete :
    let j := { collJob with moved := true, drained := true }
    ((working j).cluster 0).job 31 = some j ∧ j.type = 3 ∧ j.state = .running ∧ j.moved = true ∧ j.wakeDue = false ∧
    j.drained = true := by decide +kernel

/-- The group named by a card has two participants and no time left: the clauses of a collective's timeout hold where the
platform's tables (log 25) say so. -/
theorem witness_JobsRun_timeout (hg : Config.groupMembers 0 0 = [(0, 0), (0, 1)]) (ht : Config.groupTimeout 0 0 = 0) :
    let s := working collJob
    (s.cluster 0).job 31 = some collJob ∧ collJob.moved = false ∧ s.heard 1 collWords = false ∧
    collJob.started + Config.groupTimeout (s.groupTable 1) (Coll.group collWords) ≤ (s.island 44).cycles.toNat := by
  have hm : (working collJob).members 1 collWords = [(0, 0), (0, 1)] := by rw [State.members, collTable]; exact hg
  refine ⟨by decide +kernel, by decide, ?_, ?_⟩
  · rw [State.heard, State.locals, hm]; decide +kernel
  · rw [collTable, show Coll.group collWords = 0 from rfl, ht]; exact Nat.zero_le _

/-- That job with the sector of its source read. -/
def collHeld : Job := { collJob with held := [(heldKey 0 0x5000, List.replicate 128 7)] }

/-- The group named by a card is this cluster alone (log 25): the clauses of a collective's move hold. -/
theorem witness_JobsRun_collective (hg : Config.groupMembers 0 0 = [(0, 0)]) :
    let s := working collJob
    let ms := s.members 1 collWords
    (s.cluster 0).job 31 = some collJob ∧ s.heard 1 collWords = true ∧ s.agreed 1 collWords = true ∧ s.latent = [] ∧
    unmarked s collJob.owner ∧ collJob.prog < Coll.bytes collWords ms.length ∧ collJob.prog % Coll.z collWords = 0 ∧
    Coll.dst collWords % Coll.z collWords = 0 ∧
    s.collNext collJob (ms.idxOf (0, 0)) ((List.range 16).map fun i => collJob.prog / 8 + i) = some (0, 0, 31, collJob, 0x5000) ∧
    s.collNext collHeld (ms.idxOf (0, 0)) ((List.range 16).map fun i => collHeld.prog / 8 + i) = none ∧
    plateAt (Coll.dst collWords + collJob.prog) = none ∧
    enginePlace s 0 { collHeld with pages := [] } .b true (Coll.dst collWords + collJob.prog) 0x206000 ∧
    enginePlace s 0 { collJob with pages := [] } .b false 0x5000 0x205000 := by
  have hm : (working collJob).members 1 collWords = [(0, 0)] := by rw [State.members, collTable]; exact hg
  have hl : (working collJob).locals 1 collWords = [(0, 0, 31, collJob)] := by
    rw [State.locals, hm]; decide +kernel
  have hb : ∀ j ∈ [collJob, collHeld], (working collJob).tlbOf (({ j with pages := [] } : Job).walker 0) = [big] ∧ j.owner = 1 ∧
      j.sup = false ∧ ({ j with pages := [] } : Job).image big.leaf = .b ∧ (working collJob).poisonB = [] ∧
      ({ j with pages := [] } : Job).pages = [] ∧ (working collJob).breaks = [] := by decide +kernel
  dsimp only
  rw [hm]
  refine ⟨by decide +kernel, ?_, ?_, rfl, unmarked_of (by decide +kernel), by decide +kernel, by decide, by decide,
    ?_, ?_, by decide +kernel, place_of (hb collHeld (by decide)) (by decide), place_of (hb collJob (by decide)) (by decide)⟩
  · rw [State.heard, hl, hm]; decide +kernel
  · rw [State.agreed, hl, hm]; decide +kernel
  · have h1 : (working collJob).members collJob.owner collJob.card = [(0, 0)] := hm
    have h2 : (working collJob).locals collJob.owner collJob.card = [(0, 0, 31, collJob)] := hl
    rw [State.collNext, h1, h2]; decide +kernel
  · have h1 : (working collJob).members collHeld.owner collHeld.card = [(0, 0)] := hm
    have h2 : (working collJob).locals collHeld.owner collHeld.card = [(0, 0, 31, collJob)] := hl
    rw [State.collNext, h1, h2]; decide +kernel
/-- Cluster 255 with core 0 waiting for lanes and for a job entry. -/
def arbitrated : State := { with_ id with clusters := [(255, { Cluster.reset with claims := [(0, 32)], admits := [0] })] }
/-- Core 2047 with core 0 waiting for a slot of ring 2. -/
def porting : State := { with_ id with cores := [(0, core), (2047, { core with portWait := [⟨1, 0, 2, false, true, 0⟩] })] }
/-- A store of core 0 that stands at the queue of pseudo-channel 7. -/
def queuedStore : Access := { accessB 3 (.store 5) with path := [(3, 7)], entered := true }

theorem witness_SlotsAndPlacement_slots :
    open_ arbitrated 5 255 ∧ arbitrated.heading 5 255 = [] ∧ (arbitrated.cluster 255).claims = [(0, 32)] ∧ pointExists 5 256 = false ∧
    open_ arbitrated 6 255 ∧ arbitrated.heading 6 255 = [] ∧ (arbitrated.cluster 255).admits = [0] ∧
    arbitrated.mayAdmit 255 (arbitrated.core 0).own = true ∧ open_ porting 9 2047 ∧ porting.heading 9 2047 = [] ∧
    porting.crossing 9 2047 = [] ∧ (porting.core 2047).portWait = [⟨1, 0, 2, false, true, 0⟩] ∧ (porting.core 2047).hasRoom 2 = true ∧ pointExists 9 2048 = false :=
  ⟨⟨rfl, rfl, rfl⟩, rfl, rfl, rfl, ⟨rfl, rfl, rfl⟩, rfl, rfl, by decide +kernel, ⟨rfl, rfl, rfl⟩, rfl, rfl, by decide +kernel,
    by decide +kernel, rfl⟩

/-- Cluster 255 with the cores 0 and 2047 waiting for lanes and for job entries. -/
def contested : State := { with_ id with
  cores := [(0, core), (2047, core)], clusters := [(255, { Cluster.reset with claims := [(0, 32), (2047, 8)], admits := [0, 2047] })] }

theorem witness_SlotsAndPlacement_lottery :
    let s := contested
    let l := (s.cluster 255).admits.filter fun n => s.mayAdmit 255 (s.core n).own
    open_ s 5 255 ∧ (s.cluster 255).claims = [(0, 32), (2047, 8)] ∧ ((s.cluster 255).claims.map Prod.fst).Nodup ∧
    (∀ x ∈ (s.cluster 255).claims, (s.core x.1).own < 256) ∧ open_ s 6 255 ∧ l = [0, 2047] ∧ (s.cluster 255).admits.Nodup ∧
    ∀ n ∈ l, (s.core n).own < 256 :=
  ⟨⟨rfl, rfl, rfl⟩, rfl, by decide +kernel, by decide +kernel, ⟨rfl, rfl, rfl⟩, by decide +kernel, by decide +kernel,
    by decide +kernel⟩

theorem witness_SlotsAndPlacement_queued :
    let s := issued [queuedStore] [] id
    open_ s (3 : BitVec 4).toNat 7 ∧ s.heading (3 : BitVec 4).toNat 7 = [(0, queuedStore)] ∧
    s.crossing (3 : BitVec 4).toNat 7 = [] ∧ queuedStore.entered = true ∧
    (s.core 0).access queuedStore.id = some queuedStore ∧ s.canAdvance 0 queuedStore = true ∧
    queuedStore.path.tail.head? ≠ some ((3 : BitVec 4).toNat, 7) :=
  ⟨⟨rfl, rfl, rfl⟩, by decide +kernel, rfl, rfl, by decide +kernel, by decide +kernel, by decide⟩

/-- A read of cluster 0's matrix engine that stands at the last bank scheduler. -/
def engineRead : Traffic := ⟨1, matrixRequester 0, 5, [(4, 8191)], true⟩
/-- A request of its copy unit at the plate port of core 2047. -/
def copyWindow : Traffic := ⟨1, copyRequester 0, 0, [(9, 2047)], true⟩

theorem witness_SlotsAndPlacement_others :
    let s : State := { with_ id with traffic := [engineRead, copyWindow] }
    open_ s (4 : BitVec 4).toNat 8191 ∧ s.heading (4 : BitVec 4).toNat 8191 = [] ∧
    s.crossing (4 : BitVec 4).toNat 8191 = [engineRead] ∧ s.canCross engineRead = true ∧
    engineRead.path.tail.head? ≠ some ((4 : BitVec 4).toNat, 8191) ∧
    open_ s (9 : BitVec 4).toNat 2047 ∧ (s.core 2047).portWait = [] ∧ s.heading (9 : BitVec 4).toNat 2047 = [] ∧
    s.crossing (9 : BitVec 4).toNat 2047 = [copyWindow] ∧ s.canCross copyWindow = true :=
  ⟨⟨rfl, rfl, rfl⟩, by decide +kernel, by decide +kernel, by decide +kernel, by decide, ⟨rfl, rfl, rfl⟩, by decide +kernel,
    by decide +kernel, by decide +kernel, by decide +kernel⟩

theorem witness_SlotsAndPlacement_points :
    pointExists (8 : BitVec 4).toNat 11 = true ∧ pointExists (8 : BitVec 4).toNat 12 = false ∧
    Own.rate (({ housed id with owners := [(1, { owner1 with entryPts := BitVec.ofNat 4096 (bytes [(80, 3), (82, 9)]) })] } :
      State).owner 1).entryPts (9 : BitVec 4).toNat ≠ 0 ∧
    open_ (with_ id) 8 11 ∧ open_ (with_ id) 0 5 ∧
    (({ with_ id with points := [(8 * 2 ^ 32 + 11, ⟨3, 0, true, []⟩)] } : State).point 8 11).paused = true :=
  ⟨rfl, rfl, by decide +kernel, ⟨rfl, rfl, rfl⟩, ⟨rfl, rfl, rfl⟩, by decide +kernel⟩

theorem witness_SlotsAndPlacement_frequency :
    let s := (with_ id).updIsland 31 fun x => { x with want := 1000 }
    (31 : BitVec 6).toNat < 32 ∧ (s.island (31 : BitVec 6).toNat).want = 1000 ∧ (s.island (31 : BitVec 6).toNat).mhz ≠ 1000 ∧
    s.islandWhole (31 : BitVec 6).toNat = true := by decide +kernel

theorem witness_SlotsAndPlacement_epochs :
    (let s := { housed id with owners := [(1, { owner1 with reseeds := [some 0, none] })] }
     (s.owner 1).reseeds = some 0 :: [none] ∧ (s.owner 1).sweep = none) ∧
    (let x : Sweep := ⟨3, [(7, 32767)]⟩
     let s := { housed id with owners := [(1, { owner1 with sweep := some x })] }
     (s.owner 1).sweep = some x ∧ 7 < sweepInstances x.phase ∧ Store.get 0 7 x.next < instanceSets x.phase) := by decide +kernel

/-- A fault record of owner 1 at 0x5000 with tag `t` and the waiters `l`. -/
def faultOf (t : BitVec 32) (l : List (FaultSrc × Word)) (w : Bool) : FaultRec :=
  ⟨0x5000, true, false, .data 0, t, l, w, [0, 1, 2, 3, 4, 5]⟩
/-- Owner 1 has the fault records `l`, and a fault queue of sixteen slots at 0x7FE0000040. -/
def faulting (f : Core → Core) (l : List FaultRec) : State := { housed f with
  owners := [(1, { owner1 with entry := BitVec.ofNat 4096 (bytes [(8, 0x7FE0000040), (16, 4), (17, 1), (256, 0xFF)]), faults := l })] }

theorem witness_FaultsAndTables_record :
    let s := faulting id [faultOf 6 [] true, faultOf 7 [] false, faultOf 8 [] false]
    let w := s.owner (1 : BitVec 8).toNat
    let base := Own.fqBase w.entry
    w.faults = [faultOf 6 [] true] ++ faultOf 7 [] false :: [faultOf 8 [] false] ∧ (faultOf 7 [] false).info.length = 6 ∧
    (littleEndian (s.bByte s.moduleKey) (base - 8) 8 + 2 ^ 64 - littleEndian (s.bByte s.moduleKey) (base - 16) 8) % 2 ^ 64 <
      2 ^ Own.fqLog2 w.entry ∧ 16 ≤ base := by decide +kernel

theorem witness_FaultsAndTables_replies :
    let r := faultOf 7 [(.data 0, 0x5008)] true
    let s := faulting (fun c => { c with hold := .fault }) [faultOf 6 [] true, r]
    let q := faultOf 7 [(.job 0 31 5 0 true, 0x5008)] true
    let j := { jobOf .suspended with faulted := true }
    let t := { faulting id [q] with clusters := (working j).clusters }
    let p := faultOf 7 [(.agent 0 8, 0x5008)] true
    let u := faulting (fun c => { c with agents := [(8, { agentOf steepWords with faulted := true })] }) [p]
    s.boot.state = 4 ∧ { s.boot with state := 3 }.state ≠ 4 ∧
    (pendingFault s (1 : BitVec 6).toNat (0 : BitVec 2).toNat 1 7 [faultOf 6 [] true] r [] ∧ s.liveFor 1 0 = true ∧
      (s.core 0).hold = .fault ∧ (s.core 0).pending = none) ∧
    (pendingFault t 1 0 1 7 [] q [] ∧ (t.cluster 0).job 31 = some j ∧ j.owner = 1 ∧ j.faulted = true ∧ j.state = .suspended ∧ j.seq = 5 ∧ j.type ≠ 3) ∧
    (pendingFault u 1 0 1 7 [] p [] ∧ u.liveFor 1 0 = true ∧
      Store.find 8 (u.core 0).agents = some { agentOf steepWords with faulted := true }) ∧
    ∀ x ∈ (s.owner (Vd.own (s.func (1 : BitVec 6).toNat).entry (0 : BitVec 2).toNat)).faults, x.tag ≠ 9 :=
  ⟨by decide +kernel, by decide, ⟨⟨by decide +kernel, by decide +kernel, rfl, rfl, rfl, by decide⟩, by decide +kernel⟩,
    ⟨⟨by decide +kernel, by decide +kernel, rfl, rfl, rfl, by decide⟩, by decide +kernel⟩,
    ⟨⟨by decide +kernel, by decide +kernel, rfl, rfl, rfl, by decide⟩, by decide +kernel⟩, by decide +kernel⟩

theorem witness_FaultsAndTables_holds :
    let s := with_ fun c => { c with hold := .tinv [4, 5] 1, pend := [fence] }
    let t := with_ fun c => { c with hold := .icinv, pend := [fence] }
    (s.core (0 : BitVec 11).toNat).hold = .tinv [4, 5] 1 ∧ (∀ m c, (m, c) ∈ s.cores → ∀ a ∈ c.pend, a.id ∉ [4, 5]) ∧
    s.lateLoads = [] ∧ s.clusters = [] ∧ (t.core 0).hold = .icinv ∧ (∀ a ∈ (t.core 0).pend, a.op ≠ .range .icinv) ∧
    ((with_ fun c => { c with hold := .keyld 255 }).core 0).hold = .keyld 255 :=
  ⟨rfl, fun m c h a ha => by
    have h1 : (m, c) = (0, { core with hold := .tinv [4, 5] 1, pend := [fence] }) := by simpa [with_] using h
    cases h1
    have h2 : a = fence := by simpa using ha
    subst h2
    decide, rfl, rfl, rfl, by decide +kernel, rfl⟩

/-- Tables at 0x7FE0000000 (virtual devices), 0x7FE0010000 (owners) and 0x7FE0040000 (the schedule): entry 63 and entry 255 are
well formed, and round 0 runs the functions of `mask`. -/
def tabled (mask : Nat) : State := { housed id with
  vdtBase := 0x7FE0000, owtBase := 0x7FE0010, schBase := 0x7FE0040
  funcs := [(1, { device with entryNext := device.entry })]
  memB := writeBytes bMem (BitVec.ofNat 2048 (bytes [(1, 1), (32, 9), (36, 0x11), (64, 0x7FE0001002)])) (0x7FE0000000 + 256 * 63) 256
    (writeBytes bMem (BitVec.ofNat 4096 (bytes [(16, 4), (17, 1), (257, 0xFF)])) (0x7FE0010000 + 512 * 255) 512
      (writeBytes bMem (BitVec.ofNat 64 mask) 0x7FE0040000 8 [])) }

theorem witness_FaultsAndTables_device_commits :
    let s := tabled 2
    let e := BitVec.ofNat 2048 (s.tableRead (s.vdtBase.toNat * 4096 + 256 * (63 : BitVec 8).toNat) 256)
    let z := BitVec.ofNat 2048 (s.tableRead (s.vdtBase.toNat * 4096 + 256 * (62 : BitVec 8).toNat) 256)
    s.busy = false ∧ s.boot.state = 4 ∧ (63 : BitVec 8).toNat < 64 ∧ Vd.wellFormed e = true ∧ s.slotsDistinct 63 e = true ∧
    mapsOk e (s.namedEntries e none) = true ∧ Vd.wellFormed z = false ∧ ¬(64 : BitVec 8).toNat < 64 := by decide +kernel

theorem witness_FaultsAndTables_owner_commits :
    let s := tabled 2
    let d := BitVec.ofNat 4096 (s.tableRead (s.owtBase.toNat * 4096 + 512 * (255 : BitVec 8).toNat) 512)
    let z := BitVec.ofNat 4096 (s.tableRead (s.owtBase.toNat * 4096 + 512 * (1 : BitVec 8).toNat) 512)
    let r := { s with owners := [(1, { owner1 with retiring := true })] }
    Own.wellFormed d = true ∧ s.ownerMapsOk 255 d = true ∧
    ¬(Own.valid d = true ∧ Own.valid (s.owner 255).entryNext = false ∧ (s.owner 255).needKey = true) ∧
    Own.wellFormed z = false ∧ { s.boot with state := 3 }.state ≠ 4 ∧ r.busy = true ∧ (r.owner (1 : BitVec 8).toNat).retiring = true := by decide +kernel

theorem witness_FaultsAndTables_schedule :
    let s := tabled 2
    (∀ k, k ≤ (0 : BitVec 6).toNat →
      (∀ f, f < 64 → s.inRound f k = true → Vd.enabled (s.func f).entryNext = true ∧ (s.func f).disabled = false) ∧
      (∀ f h, f < 64 → h < 64 → f ≠ h → s.inRound f k = true → s.inRound h k = true →
        Vd.overlap (s.func f).entryNext (s.func h).entryNext = false)) ∧
    ((tabled 4).inRound 2 0 = true ∧ Vd.enabled ((tabled 4).func 2).entryNext = false) ∧
    { s with schedEn := true }.schedEn = true ∧ s.schedEn = false ∧ s.boot.state = 4 := by
  have h1 : ∀ f, f < 64 → (tabled 2).inRound f 0 = true → f = 1 := by decide +kernel
  refine ⟨fun k hk => ?_, by decide +kernel, by decide +kernel, by decide +kernel⟩
  obtain rfl : k = 0 := Nat.le_zero.1 hk
  exact ⟨fun f hf h => by
    obtain rfl := h1 f hf h
    decide +kernel, fun f h hf hh hne hf1 hh1 => absurd ((h1 f hf hf1).trans (h1 h hh hh1).symm) hne⟩
/-- Function 1 stands at `x` in its slice, with `f` on core 0. -/
def slicing (x : Slice) (f : Core → Core) : State :=
  { housed f with funcs := [(1, { device with slice := x })], schedEn := true }

theorem witness_SlicesEndAndRestore_ends :
    (((slicing .running id).func (1 : BitVec 6).toNat).slice = .running ∧ (slicing .running id).schedEn = true ∧
      ((slicing .running id).core 0).ctx = some 1 ∧ 1 ∈ Vd.owners ((slicing .running id).func 1).entry) ∧
    (let s := slicing (.ending 0) fun c => { c with hold := .fault }
     (s.func 1).slice = .ending 0 ∧ (s.core 0).hold ≠ .none ∧ (∀ n ∈ s.coresIn 1, (s.core n).quiet = true) ∧
       ∀ o ∈ Vd.owners (s.func 1).entry, s.jobMoving o = false) ∧
    (let s := slicing (.ending 1) id
     (s.func 1).slice = .ending 1 ∧ ∀ n ∈ s.coresIn 1, s.drainedCore n = true) ∧
    (let s := slicing (.ending 2) fun c => { c with blk := true }
     (s.func 1).slice = .ending 2 ∧ s.boot.state = 4 ∧ s.coresIn 1 = [0] ∧ (s.core 0).ctx = some 1 ∧ (s.core 0).blk = true ∧
       (Own.csBase (s.owner 1).entry + 0 * 0x40000) % 128 = 0) ∧
    ((slicing (.ending 3) id).func 1).slice = .ending 3 := by decide +kernel

/-- Function 1, off, is next in round 0; its owner 1 has core 2047, and `n` records wait in its launch queue. -/
def turning (n : BitVec 32) : State := { tabled 2 with
  schedEn := true
  funcs := [(1, { Func.reset 0 1 with entryNext := BitVec.ofNat 2048 (bytes [(31, 0x80), (32, 1), (36, 0x11)]), tail := n })]
  owners := [(1, { Owner.reset 0 1 with entryNext := BitVec.ofNat 4096 (bytes [(17, 1), (511, 0x80)]) })] }

theorem witness_SlicesEndAndRestore_restore :
    let s := turning 1
    s.mayRestore (1 : BitVec 6).toNat = true ∧ s.turn 1 = some 0 ∧ s.restorable 1 = [1] ∧
    Own.cores (s.owner 1).entryNext = [2047] ∧ Store.find (1 * 2 ^ 16 + 2047) s.saved = none := by decide +kernel

theorem witness_SlicesEndAndRestore_skip :
    let s := (turning 1).updFunc 1 fun x => { x with disabled := true }
    let u := { turning 1 with stopPending := true }
    (s.func 1).slice = .off ∧ s.schedEn = true ∧ s.mayStop = false ∧ s.mayRestore 1 = false ∧ s.turn 1 = some 0 ∧
    Vd.part (s.func 1).entryNext 255 = true ∧ Vd.part (s.func 1).entryNext 254 = false ∧
    u.stopPending = true ∧ u.anySlice = false ∧ ∀ g, g < 64 → u.turn g = none ∨ u.mayRestore g = false := by decide +kernel

/-- A message of owner 1 to core 7 that waits at the device. -/
def devMsg : DevMsg := ⟨7, 1, false, 0, none, [], 0, 33⟩

theorem witness_SlicesEndAndRestore_inbox :
    let s := { housed id with devMsgs := [devMsg], cores := [(7, core)] }
    let t := { housed id with devMsgs := [{ devMsg with target := 8 }] }
    let u := { housed id with devMsgs := [{ devMsg with fault := true }], cores := [(7, { core with handler := none })] }
    s.devMsgs = [devMsg] ∧ Own.valid (s.owner devMsg.owner).entry = true ∧
    Own.hasCore (s.owner devMsg.owner).entry devMsg.target = true ∧
    s.liveFor devMsg.owner devMsg.target = true ∧ s.devReady devMsg = true ∧
    (s.core devMsg.target).hasRoom 0 = true ∧ portIdle s devMsg.owner devMsg.target ∧
    t.devMsgs = [{ devMsg with target := 8 }] ∧ Own.hasCore (t.owner 1).entry 8 = false ∧
    u.devMsgs = [{ devMsg with fault := true }] ∧ u.liveFor 1 7 = true ∧ (u.core 7).faultBox = [] ∧ (u.core 7).handler = none := by
  unfold portIdle draws
  decide +kernel

theorem witness_SlicesEndAndRestore_saved_inbox :
    let s := { housed id with
      cores := [], devMsgs := [devMsg], saved := [(1 * 2 ^ 16 + 7, core.engineState)]
      owners := [(1, { owner1 with entry := BitVec.ofNat 4096 (bytes [(17, 1), (88, 0x7FE0000000), (256, 0xFF)]) })]
      memB := writeBytes bMem (({ ring with base := 32 } : Ring).word 0) (0x7FE0000000 + 7 * 0x40000 + 0x21000) 8 [] }
    let base := Own.csBase (s.owner 1).entry + 7 * 0x40000
    s.devMsgs = [devMsg] ∧ Own.hasCore (s.owner 1).entry 7 = true ∧ s.liveFor 1 7 = false ∧ s.devReady devMsg = true ∧
    Own.valid (s.owner 1).entry = true ∧ Vd.ds (s.func 0).entry 3 = Vd.ds (s.func 63).entry 0 ∧
    (Vd.ds (s.func 0).entry 3).1 % 2 = 0 ∧ Store.find (1 * 2 ^ 16 + 7) s.saved = some core.engineState ∧ s.savedRoom 1 7 = true ∧ base % 128 = 0 ∧
    (s.blockRing 1 base 0).slotAt (s.blockRing 1 base 0).tail + 64 ≤ 0x20000 := by decide +kernel
/-- Function 1 of owner 1 with `n` events on vector 2047, COALN 2 and COALT 1, at cycle 5 of the I/O island. -/
def eventful (n : Nat) : State := { housed id with
  islands := [(44, { Island.reset 44 with cycles := 5 })]
  funcs := [(1, { device with entryPts := BitVec.ofNat 2048 (bytes [(52, 1), (56, 2)]), events := [(2047, n)], timer := [(2047, 4)] })] }
/-- An error of the owners `l`, noticed by function `f`, of which function 0 has its record where `first` says so. -/
def errOf (first : Bool) (l : List (Nat × Word × Nat)) (f : Option Nat) : ErrRec :=
  ⟨9, 0x0B, 4, none, false, false, 0x5000, 0x7000, 0, 3, 0, l, first, f⟩

theorem witness_LogsAndHostPorts_vectors :
    max 1 (Vd.coalN ((eventful 2).func (1 : BitVec 6).toNat).entryPts) ≤ Store.get 0 (2047 : BitVec 11).toNat ((eventful 2).func 1).events ∧
    Vd.coalT ((eventful 1).func 1).entryPts ≠ 0 ∧ Store.get 0 2047 ((eventful 1).func 1).events ≠ 0 ∧
    Store.get 0 2047 ((eventful 1).func 1).timer + Vd.coalT ((eventful 1).func 1).entryPts ≤ ((eventful 1).island 44).cycles.toNat := by
  decide +kernel

theorem witness_LogsAndHostPorts_errors (e : ErrRec) (h : e = errOf false [(1, 0x5000, 0)] none ∨ e = errOf false [] (some 3) ∨
    e = errOf true [] (some 3) ∨ e = errOf true [(1, 0x5000, 0)] none) :
    ({ housed id with errs := [e] } : State).errs = e :: [] ∧
    (e.first = false ∨ (e.first = true ∧ e.owners = [] ∧ e.func = some 3) ∨
      (e.first = true ∧ e.owners = (1, 0x5000, 0) :: [])) := by
  rcases h with rfl | rfl | rfl | rfl <;> decide +kernel

theorem witness_LogsAndHostPorts_ports :
    pointExists (9 : BitVec 4).toNat 2047 = true ∧ (housed id).boot.state = 4 ∧ (housed id).populated 0x7FFFFFFFF8 = true ∧
    (housed id).populated 0x7FFFFFFFFF = true ∧ (housed id).latent = [] ∧
    ({ housed id with boot := { State.reset.boot with cxlBase := 512, cxlGiB := 0 } } : State).populated 0x8000000000 = false :=
  ⟨rfl, rfl, by decide +kernel, by decide +kernel, rfl, by decide +kernel⟩

/-- The module during bring-up, at STATE `n`. -/
def bringUp (n : Nat) : State := { State.reset with boot := { State.reset.boot with state := n } }

theorem witness_LogsAndHostPorts_bring_up :
    (bringUp 3).boot.state = 3 ∧ (bringUp 3).switched = false ∧ 0x3FFFFF8 + 8 ≤ 2 ^ 26 ∧ (bringUp 14).boot.state = 14 ∧
    ({ bringUp 3 with switched := true } : State).switched = true ∧ (bringUp 2).boot.state ≠ 4 := by decide +kernel

theorem witness_LogsAndHostPorts_registers :
    (0x120 : BitVec 20) ≠ 0x100 ∧ (5 : BitVec 64).getLsbD 63 = false ∧
    (0x17FF8 : BitVec 20).toNat = 0x10008 + 16 * (2047 : BitVec 11).toNat ∧
    (0x2FF8 : BitVec 20).toNat < 0x3000 ∧ (0x2FF8 : BitVec 20).toNat % 8 = 0 ∧ (bringUp 2).hasReg 0 0x100 = false ∧
    (physicalReg 0x100).isSome = true ∧ barReg 0 0x100 ≠ .ownRow ∧ barReg 1 0x100 ≠ .ownRow := by decide +kernel
/-- The module whose boot controller is changed by `f`. -/
def booting (f : Boot → Boot) : State := { State.reset with boot := f State.reset.boot }
/-- Boot flash in which slot A (`a`) or slot B (`b`) has a wrong magic number. -/
def spoilt (a b : Bool) : Store Byte :=
  (if a then (List.range 4).map fun i => (i, 0) else []) ++ if b then (List.range 4).map fun i => (2 ^ 25 + i, 0) else []

theorem witness_BootAndPower_start : (booting fun b => { b with state := 0 }).boot.state = 0 ∧
    (booting fun b => { b with state := 0 }).fatal = false ∧ (0x0A5B : BitVec 16) ≠ 0x0A5A := by decide +kernel

theorem witness_BootAndPower_no_image :
    let s := booting fun b => { b with state := 1, flash := spoilt true true, prefB := false }
    imageOk (flashAt s.boot.flash s.boot.prefB) s.boot.fuseSvn = false ∧
    imageOk (flashAt s.boot.flash !s.boot.prefB) s.boot.fuseSvn = false := by decide +kernel

/-- Where the image delivered in a slot verifies (what flash and cryptography give are constants, log 9), the preferred slot runs it,
and so does the other slot when the preferred one is spoilt. -/
theorem witness_BootAndPower_image (p : Bool)
    (h : imageOk (flashAt (spoilt (!p) p) !p) State.reset.boot.fuseSvn = true) :
    let s := booting fun b => { b with state := 1, flash := spoilt (!p) p, prefB := !p }
    let t := booting fun b => { b with state := 1, flash := spoilt (!p) p, prefB := p }
    imageOk (flashAt s.boot.flash s.boot.prefB) s.boot.fuseSvn = true ∧
    imageOk (flashAt t.boot.flash t.boot.prefB) t.boot.fuseSvn = false ∧
    imageOk (flashAt t.boot.flash !t.boot.prefB) t.boot.fuseSvn = true := by
  refine ⟨h, ?_, h⟩
  cases p <;> decide +kernel

theorem witness_BootAndPower_training :
    let s := booting fun b => { b with state := 2, trained := 0x7F, attempts := [(7, 2)] }
    let t := booting fun b => { b with state := 15, trained := 0, hbmFail := 1 }
    s.boot.state = 2 ∧ s.boot.trained.getLsbD (7 : BitVec 3).toNat = false ∧ s.boot.hbmFail.getLsbD 7 = false ∧
    s.boot.trained ||| BitVec.ofNat 8 (2 ^ 7) = 0xFF ∧ Store.get 0 7 s.boot.attempts = 2 ∧
    t.boot.state = 15 ∧ t.boot.trained.getLsbD 7 = false ∧ t.boot.hbmFail.getLsbD 7 = false ∧
    t.boot.trained ||| BitVec.ofNat 8 (2 ^ 7) ≠ 0xFF ∧ Store.get 0 7 t.boot.attempts ≠ 2 := by decide +kernel

theorem witness_BootAndPower_ready :
    let s := booting fun b => { b with state := 3 }
    s.boot.state = 3 ∧ s.fatal = false ∧ s.switched = false ∧ s.serviceQuiet = true ∧
    (let t : State := { s with switched := true }
     t.switched = true ∧ t.errs = [] ∧ (t.func 0).events = []) := by decide +kernel

theorem witness_BootAndPower_commands :
    let s := booting fun b => { b with reports := 1023, attCmd := 1, attReq := 1 }
    let t := booting fun b => { b with reports := 1024, attCmd := 1, attReq := 1 }
    let u := booting fun b => { b with attCmd := 1, attReq := 4 }
    s.boot.attCmd = 1 ∧ s.boot.attReq = 1 ∧ s.boot.reports < 1024 ∧ s.boot.state ≠ 14 ∧ t.boot.attCmd = 1 ∧ t.boot.attReq = 1 ∧
    1024 ≤ t.boot.reports ∧ u.boot.attCmd = 1 ∧ u.boot.attReq = 4 := by decide +kernel

theorem witness_BootAndPower_power :
    (let s := { State.reset with pwrNow := 2000001 }
     s.boot.state = 4 ∧ s.pwrLim.toNat * 1000 < s.pwrNow.toNat ∧ 1000 < s.mhz s.fastest) ∧
    (let s := { State.reset with pwrNow := 1899999, islands := [(7, { Island.reset 7 with mhz := 2900, want := 2900, hotMs := 999 })] }
     s.boot.state = 4 ∧ s.pwrNow.toNat * 100 < s.pwrLim.toNat * 1000 * 95 ∧ s.mhz s.slowest < 3000 ∧
       ∀ i, i < 48 → (s.island i).hotMs < 1000) ∧
    (let s := { State.reset with
        pwrNow := 2000001, floorMs := 9, islands := (List.range 32).map fun i => (i, { Island.reset i with mhz := 1000, want := 1000 }) }
     s.boot.state = 4 ∧ (∀ i, i < 32 → (s.island i).mhz.toNat ≤ 1000) ∧ s.pwrLim.toNat * 1000 < s.pwrNow.toNat ∧ 9 ≤ s.floorMs ∧
       s.floorTold = false) ∧
    (let s := { State.reset with islands := [(35, { Island.reset 35 with hotMs := 1000 })] }
     1000 ≤ (s.island (35 : BitVec 6).toNat).hotMs) ∧ (0x14 : BitVec 8).toNat ≤ 0x14 := by decide +kernel
/-- Core 0 with the word `w` at its pc in its instruction cache. -/
def fetching (w : Code) (f : Core → Core) : State :=
  with_ fun c => f { c with icache := [⟨1, 0x40, (List.range 4).map (byteAt w)⟩] }
/-- Core 0 with the word `add.imm s7, s7, 1` at its pc in main memory, on a page that it may execute. -/
def mappedCode : State := { with_ (fun c => { c with tlb := [⟨1, false, 1, 12, 0x3013⟩] }) with
  memB := (List.range 4).map fun i => (0x3000 + i, byteAt (0x00539C01 : Code) i) }

theorem atHand_of {c : Core} {w : Code} (x : ILine) (h : c.ahead.find? (fun y => y.1 == c.pc) = none ∧
    c.icache.find? (fun y => y.owner == c.fetchTag && y.line == c.pc.toNat / 64) = some x ∧ w = x.word c.pc.toNat) :
    atHand c w := by
  rw [atHand, h.1, h.2.1]
  exact h.2.2

/-- The state after a fetch of `w`, where the model gets that word and the core that holds it satisfies `p`. -/
theorem fetch_of {s : State} {n : Nat} {w : Code} (p : Core → Bool) (h : (match s.fetch n with
    | .word u x => x == w && p ((latched u n w).core n)
    | _ => false) = true) : ∃ u, s.fetch n = .word u w ∧ p ((latched u n w).core n) = true := by
  split at h
  · rename_i u x hu
    obtain ⟨hx, hp⟩ := Bool.and_eq_true_iff.1 h
    rw [beq_iff_eq.1 hx] at hu
    exact ⟨u, hu, hp⟩
  · cases h

theorem undisturbed_of {s : State} {n : Nat} (h : (s.core n).pending = none ∧ (s.core n).sup = false ∧
    (s.core n).handler = some handler) : undisturbed s n :=
  ⟨h.1, fun hs => (nomatch h.2.1.symm.trans hs), fun x hx _ => by
    obtain rfl : handler = x := Option.some.inj (h.2.2.symm.trans hx)
    decide⟩

/-- The core runs `i` next with the word `w`, and whether a register it uses is still to be written is `b`. -/
def runs (w : Code) (i : Instr) (b : Bool) (c : Core) : Bool := decodeFetched c.hints w == .instr i && c.interlocked w i == b
/-- The word `w` joins the chain. -/
def joins (w : Code) (c : Core) : Bool := match decodeFetched c.hints w with
  | .hint _ => true
  | _ => false
/-- The word `w` traps as no instruction. -/
def unknown (w : Code) (c : Core) : Bool := decodeFetched c.hints w == .illegal 0 && c.pending.isNone && !c.begun

theorem witness_StepRunsTheDecodedInstruction :
    let s := fetching 0x00539C01 id
    let l := fetching 0x00539C01 fun c => { c with gathers := [{ gatherS5 with dest := .sreg ⟨false, 7⟩ 8 false }] }
    (s.agenda = [] ∧ s.waited = false ∧ s.canIssue s.cur = true ∧ undisturbed s s.cur ∧ s.hasBegun s.cur = false) ∧
    (∃ u, s.correct.fetch s.cur = .word u 0x00539C01 ∧
      runs 0x00539C01 (.addImm .none 7 7 1) false ((latched u s.cur 0x00539C01).core s.cur) = true) ∧
    (l.agenda = [] ∧ l.waited = false ∧ l.canIssue l.cur = true ∧ undisturbed l l.cur ∧ l.hasBegun l.cur = false) ∧
    (∃ u, l.correct.fetch l.cur = .word u 0x00539C01 ∧
      runs 0x00539C01 (.addImm .none 7 7 1) true ((latched u l.cur 0x00539C01).core l.cur) = true) :=
  ⟨⟨rfl, rfl, by decide +kernel, undisturbed_of (by decide +kernel), by decide +kernel⟩, fetch_of _ (by decide +kernel),
    ⟨rfl, rfl, by decide +kernel, undisturbed_of (by decide +kernel), by decide +kernel⟩, fetch_of _ (by decide +kernel)⟩

theorem witness_StepRunsTheDecodedInstruction_issue :
    let s := fetching 0x00539C01 id
    let l := fetching 0x00539C01 fun c => { c with gathers := [{ gatherS5 with dest := .sreg ⟨false, 7⟩ 8 false }] }
    let h := fetching 0x03F02468 id
    (∃ u, { s with cur := (0 : BitVec 11).toNat }.fetch 0 = .word u 0x00539C01 ∧
      runs 0x00539C01 (.addImm .none 7 7 1) false ((latched u 0 0x00539C01).core 0) = true) ∧
    (∃ u, { l with cur := 0 }.fetch 0 = .word u 0x00539C01 ∧
      runs 0x00539C01 (.addImm .none 7 7 1) true ((latched u 0 0x00539C01).core 0) = true) ∧
    (∃ u, { h with cur := 0 }.fetch 0 = .word u 0x03F02468 ∧ joins 0x03F02468 ((latched u 0 0x03F02468).core 0) = true) :=
  ⟨fetch_of _ (by decide +kernel), fetch_of _ (by decide +kernel), fetch_of _ (by decide +kernel)⟩

theorem witness_StepRunsTheDecodedInstruction_chain :
    let s := fetching 0x03F02468 id
    let t := fetching 0 id
    (∃ u, s.correct.fetch s.cur = .word u 0x03F02468 ∧ joins 0x03F02468 ((latched u s.cur 0x03F02468).core s.cur) = true) ∧
    undisturbed s s.cur ∧ s.hasBegun s.cur = false ∧
    (∃ u, t.correct.fetch t.cur = .word u 0 ∧ unknown 0 ((latched u t.cur 0).core t.cur) = true) ∧
    undisturbed t t.cur ∧ t.hasBegun t.cur = false :=
  ⟨fetch_of _ (by decide +kernel), undisturbed_of (by decide +kernel), by decide +kernel, fetch_of _ (by decide +kernel),
    undisturbed_of (by decide +kernel), by decide +kernel⟩

theorem witness_StepRunsTheDecodedInstruction_begun :
    let s := with_ fun c => { c with ir := 0x00539C01, begun := true }
    s.agenda = [] ∧ s.waited = false ∧ s.canIssue s.cur = true ∧ undisturbed s s.cur ∧ s.hasBegun s.cur = true ∧
    runs s.me.ir (.addImm .none 7 7 1) false s.me = true :=
  ⟨rfl, rfl, by decide +kernel, undisturbed_of (by decide +kernel), by decide +kernel, by decide +kernel⟩

theorem witness_StepRunsTheDecodedInstruction_fetch :
    let a := with_ fun c => { c with ahead := [(0x1000, 0x00539C01)] }
    let s := fetching 0x00539C01 id
    (s.core 0).pc.toNat < 0x000E000000000000 ∧ s.choices.headD 0 = 0 ∧ mappedCode.choices = [] ∧ atHand (s.core 0) 0x00539C01 ∧ atHand (a.core 0) 0x00539C01 ∧
    fetchesFrom mappedCode 0 0x3000 ∧ mappedCode.canIssue 0 = true :=
  ⟨by decide +kernel, rfl, rfl, atHand_of _ ⟨rfl, rfl, by decide +kernel⟩, rfl,
    ⟨rfl, rfl, rfl, rfl, rfl, by decide +kernel, rfl, _, rfl, by decide +kernel, by decide +kernel, by decide +kernel,
      by decide +kernel⟩, by decide +kernel⟩

theorem witness_StepRunsTheDecodedInstruction_agenda :
    ({ with_ id with agenda := [.coldReset, .powerCheck] } : State).agenda = .coldReset :: [.powerCheck] ∧
    Instr.coldReset.hasWord = false ∧ decode 0x00539C01 = .ok (.addImm .none 7 7 1) ∧ isHint 0x00539C01 = false ∧
    cvtFieldOk [] (.addImm .none 7 7 1) = true ∧ (∃ u, ticked (.next (with_ id)) = .next u) ∧
    ∃ u, markIssued (with_ id) (.next (with_ id)) = .next u :=
  ⟨rfl, rfl, by decide +kernel, by decide +kernel, by decide +kernel, ⟨_, rfl⟩, ⟨_, rfl⟩⟩

theorem witness_StepKeepsSoundness :
    State.reset.memoryWf = true ∧ State.reset.registersLegal = true ∧ (walking id).memoryWf = true ∧
    (walking id).registersLegal = true ∧ ∃ t, step State.reset = .next t :=
  ⟨by decide +kernel, by decide +kernel, by decide +kernel, by decide +kernel, _, rfl⟩
end Sys2Proof.Tests
end

section
/-!
Accesses to the own plate (spec/03_memory_spaces.md R59, R62; spec/04_ordering.md R79, R80; spec/10_memory_sync_messages.md
R188 to R191): one lemma for the load and one for the store, which every scalar form runs.
-/
namespace Sys2Proof.Machine
open Sys2Proof.Claims

/-! ### Updates of one core, composed -/

/-- The later of two entries under one key stands. -/
@[simp] theorem Store.put_put {α : Type} (k : Nat) (x y : α) (l : Store α) :
    Store.put k x (Store.put k y l) = Store.put k x l := by
  induction l with
  | nil => simp [Store.put]
  | cons c l ih =>
    obtain ⟨j, z⟩ := c
    by_cases hlt : k < j
    · simp [Store.put, hlt]
    · by_cases heq : j = k <;> simp [Store.put, hlt, heq, ih]

/-- Two changes of one core are one change. -/
theorem State.updCore_updCore (s : State) (n : Nat) (f g : Core → Core) :
    (s.updCore n f).updCore n g = s.updCore n fun c => g (f c) := by
  rw [State.updCore, State.core_updCore_same]
  simp only [State.updCore, State.setCore, Store.put_put]

/-- A change of a core depends only on what it makes of that core. -/
theorem State.updCore_congr {s : State} {n : Nat} {f g : Core → Core} (h : f (s.core n) = g (s.core n)) :
    s.updCore n f = s.updCore n g := by simp only [State.updCore, h]

/-! ### Signed readings and immediates (R15, R152) -/

/-- The signed reading of the claims is the one of bit vectors. -/
theorem signed_toNat {w : Nat} (hw : 0 < w) (x : BitVec w) : signed w x.toNat = x.toInt := by
  obtain ⟨k, rfl⟩ : ∃ k, w = k + 1 := ⟨w - 1, by omega⟩
  have hpow : 2 ^ (k + 1) = 2 * 2 ^ k := by rw [Nat.pow_succ, Nat.mul_comm]
  rw [signed, BitVec.toInt_eq_toNat_cond, Nat.add_sub_cancel]
  by_cases hneg : 2 ^ k ≤ x.toNat
  · rw [if_pos hneg, if_neg (by omega)]; push_cast; rfl
  · rw [if_neg hneg, if_pos (by omega)]

/-- Bit vectors side by side, as a number. -/
theorem toNat_append_add {m w : Nat} (p : BitVec m) (x : BitVec w) : (p ++ x).toNat = p.toNat * 2 ^ w + x.toNat := by
  rw [BitVec.toNat_append, ← Nat.shiftLeft_add_eq_or_of_lt x.isLt, Nat.shiftLeft_eq]

/-- An immediate with its `IMMX` extension, as the core extends it. -/
theorem ofInt_immSigned {w : Nat} (hw : 0 < w) (c : Core) (x : BitVec w) :
    BitVec.ofInt 64 (immSigned c w x.toNat) = c.immS x := by
  unfold immSigned Core.immS
  cases c.hint 0 with
  | none => simp only [signed_toNat hw]; rfl
  | some p =>
    simp only [← toNat_append_add, Nat.add_comm w 16, signed_toNat (show 0 < 16 + w by omega)]; rfl

/-- The effective address of a base register and an offset (R189, R192). -/
theorem eaOf_toNat {w : Nat} (hw : 0 < w) (c : Core) (b : BitVec 5) (o : BitVec w) (z : Nat) :
    eaOf c b w o.toNat z = c.ea b o z := by
  rw [eaOf, Core.ea, BitVec.ofInt_add, BitVec.ofInt_mul, ofInt_immSigned hw, BitVec.ofInt_natCast, BitVec.ofInt_natCast,
    BitVec.ofNat_toNat, BitVec.setWidth_eq]

/-! ### Bytes of a value (R5, R189) -/

/-- The value of consecutive bytes is the sum of the claims. -/
theorem joinBytes_eq_littleEndian (f : Nat → Byte) (a n : Nat) : joinBytes f a n = littleEndian f a n := by
  induction n generalizing a with
  | zero => rfl
  | succ n ih =>
    rw [joinBytes, ih, littleEndian, littleEndian, List.range_succ_eq_map, List.map_cons, List.sum_cons, List.map_map,
      ← List.sum_map_mul_left]
    simp only [Nat.add_zero, Nat.pow_zero, Nat.mul_one, Function.comp_def, Nat.succ_eq_add_one, Nat.pow_succ]
    congr 2
    refine List.map_congr_left fun j _ => ?_
    rw [show a + 1 + j = a + (j + 1) by omega]
    ring

/-- `n` bytes make a value below 2^(8n). -/
theorem joinBytes_lt (f : Nat → Byte) (a n : Nat) : joinBytes f a n < 2 ^ (8 * n) := by
  induction n generalizing a with
  | zero => simp [joinBytes]
  | succ n ih =>
    have hhead := (f a).isLt
    have htail := ih (a + 1)
    rw [joinBytes, Nat.mul_succ, Nat.pow_add]
    omega

/-- The bytes read, extended, are what a load writes (R189). -/
theorem extend_readWord (f : Nat → Byte) (a : Nat) {z : Nat} (hz : 0 < z) (hz8 : z ≤ 8) (sg : Bool) :
    extend z sg (readWord f a z) = loaded z (littleEndian f a z) sg := by
  have hlt := joinBytes_lt f a z
  have hle : 2 ^ (8 * z) ≤ 2 ^ 64 := Nat.pow_le_pow_right (by decide) (by omega)
  rw [← joinBytes_eq_littleEndian]
  have hlow : ((readWord f a z).setWidth (8 * z)).toNat = joinBytes f a z := by
    rw [readWord, BitVec.toNat_setWidth, BitVec.toNat_ofNat, Nat.mod_eq_of_lt (by omega : _ < 2 ^ 64), Nat.mod_eq_of_lt hlt]
  cases sg with
  | true =>
    rw [extend, loaded, if_pos rfl, if_pos rfl, sextN, BitVec.signExtend, ← signed_toNat (by omega), hlow]
  | false =>
    apply BitVec.eq_of_toNat_eq
    rw [extend, loaded, if_neg Bool.false_ne_true, if_neg Bool.false_ne_true, zextN, BitVec.toNat_setWidth, hlow, BitVec.toNat_ofNat]

/-- A register named at issue is the register. -/
theorem Core.setSReg_sreg (c : Core) (d : BitVec 5) (v : Word) : c.setSReg (c.sreg d) v = c.setS d v := by
  have hd : d.toNat = 0 ↔ d = 0 := by rw [BitVec.toNat_eq]; rfl
  have hset : c.sregs.setIfInBounds d.toNat v = c.sregs.set d.toNat v d.isLt := by
    ext i hi
    rw [Vector.getElem_setIfInBounds, Vector.getElem_set]
  by_cases h0 : d = 0
  · simp [Core.setSReg, Core.sreg, Core.setS, h0]
  · simp only [Core.setSReg, Core.sreg, Core.setS, hd, if_neg h0, hset]

/-! ### The own plate (R56, R59, R79, R188) -/

/-- A plate-window address names its plate and offset (R59). -/
theorem placeOf_plateVa {n off : Nat} (hn : n < 2048) (ho : off < 2 ^ 20) : placeOf (plateVa n off) = some (.plate n off) := by
  have hva : (plateVa n off).toNat = 0x000E000000000000 + n * 2 ^ 20 + off := by
    rw [plateVa, BitVec.toNat_ofNat]; omega
  rw [placeOf, hva, if_neg (by omega), if_pos (by omega)]
  congr 2 <;> omega

/-- The element of `z` bytes at offset `off` of the plate of core `n`, at the address `ea`. -/
def plateElem (n off z : Nat) (ea : Word) : Elem := ⟨0, .plate n, off, z, ea, 0⟩

section
variable {s : State} {n off z : Nat} {ea : Word}

/-- A plain access to the bytes of the own plate, naturally aligned, passes the checks of R188. -/
theorem State.check_own (hp : placeOf ea = some (.plate n off)) (ho : off < 0x20000) (hz : off % z = 0) (aligned r w : Bool) :
    s.check n .plain 0 ea z aligned r w = .ok s (plateElem n off z ea) := by
  have hring : ¬(0x20000 ≤ off ∧ off < 0x20400) := by omega
  have htile : ¬(0x21000 ≤ off ∧ off < 0x21200) := by omega
  simp [State.check, hp, hz, hring, htile, plateOk, ho, plateElem]

/-- With nothing older outstanding, only a waiting ready push can hold an access back (R37, R80). -/
theorem State.mayPerform_nil {a : Access} (hw : ∀ σ, s.pushWaits n σ = false) : s.mayPerform n [] a = true := by
  unfold State.mayPerform
  cases a.waitScope <;> simp [hw]

/-- A request that passes no point leaves the requests on their way as they were. -/
@[simp] theorem State.cross_nil (o who line : Nat) (entered : Bool) : s.cross o who line [] entered = s := by
  simp [State.cross]

/-! ### Loads from the own plate (R79, R189) -/

/-- The value of a gather with one part is that of the part. -/
theorem Gather.lane_single (gid : Nat) (dst : GDest) (z : Nat) (v va : Word) (p : Option Word) (st : Option Word) :
    (Gather.mk gid dst [⟨0, 0, z, some v⟩] va p st).lane 0 = v := by simp [Gather.lane]

/-- A completed load of one part writes its register. -/
theorem State.complete_sreg (hg : (s.core n).gathers = []) (gid : Nat) (r : SReg) (z : Nat) (sg : Bool)
    (v va : Word) (st : Option Word) :
    s.complete n ⟨gid, .sreg r z sg, [⟨0, 0, z, some v⟩], va, none, st⟩ =
      s.updCore n fun c => c.setSReg r (extend z sg v) := by
  simp only [State.complete, Gather.lane_single, State.updCore_updCore]
  apply State.updCore_congr
  rw [hg, List.filter_nil, ← hg]

/-- The read of an own-plate element (R59). -/
theorem State.placeRead_own (ho : off < 0x20000) (m id : Nat) (op : AccOp) (acq : Bool) (rel : Option Nat) (t : State) :
    s.placeRead (t.accessOf m id op (plateElem n off z ea) (plateElem n off z ea).addr (plateElem n off z ea).size acq rel) =
      (s.core n).plateRead off z := by
  simp [State.placeRead, State.accessOf, plateElem, Core.windowRead, ho]

/-- The issue of a load of one own-plate element reads it at once and completes (R79, R80). -/
theorem State.issueLoads_own (ho : off < 0x20000) (hpend : (s.core n).pend = []) (hw : ∀ σ, s.pushWaits n σ = false)
    (dst : GDest) (va : Word) (acq : Bool) :
    s.issueLoads n dst [plateElem n off z ea] va acq false =
      .done (s.newId.2.complete n ⟨s.newId.1, dst, [⟨0, 0, z, some ((s.core n).plateRead off z)⟩], va, none, none⟩) := by
  have hready : s.loadReady n [plateElem n off z ea] acq = true := by
    simp [State.loadReady, hpend, State.mayPerform_nil hw]
  have htags : s.takeTags n [plateElem n off z ea] = s := rfl
  have hat : (plateElem n off z ea).atIssue = true := rfl
  have hown : (plateElem n off z ea).own n = true := beq_self_eq_true _
  have hcore : s.newId.2.core n = s.core n := rfl
  have hpath : ∀ (t : State) (o k : Nat), (t.accessOf n 0 (.load 0 0) (plateElem n off z ea) o k acq none).path = [] := by
    intro t o k; simp [State.accessOf, plateElem]
  simp only [State.issueLoads, hready, htags, List.foldl_cons, List.foldl_nil, List.all_cons, List.all_nil, List.any_cons,
    List.any_nil, hat, hown, hpath, State.cross_nil, State.placeRead_own ho, hcore]
  rfl

/-- A load from the own plate writes the bytes there, extended, at once (R79, R189). -/
theorem State.load_own (hp : placeOf ea = some (.plate n off)) (ho : off < 0x20000) (hz : off % z = 0)
    (hpend : (s.core n).pend = []) (hg : (s.core n).gathers = []) (hw : ∀ σ, s.pushWaits n σ = false) (d : BitVec 5)
    (sg aligned acq : Bool) :
    s.load n d ea z sg aligned acq =
      .done { s.updCore n fun c => c.setS d (extend z sg (c.plateRead off z)) with nextId := s.nextId + 1 } := by
  have hg' : (s.newId.2.core n).gathers = [] := hg
  simp only [State.load, State.check_own hp ho hz, State.issueLoads_own ho hpend hw, State.complete_sreg hg']
  rw [State.updCore_congr (g := fun c => c.setS d (extend z sg (c.plateRead off z))) (Core.setSReg_sreg _ _ _)]
  rfl

/-! ### Stores to the own plate (R62, R79, R189) -/

/-- A plain store where no tile is filling spoils none (R68). -/
theorem State.spoilFilling_none (h : ∀ x ∈ (s.core n).tiles.toList, x.state ≠ .filling) (a k : Nat) :
    s.spoilFilling n a k = s := by
  have htile : ∀ j, ((s.core n).tile j).state ≠ .filling := by
    intro j
    rw [Core.tile, Vector.getD, Array.getD]
    split
    · exact h _ (by simp)
    · decide
  simp [State.spoilFilling, htile]

/-- A store to the own plate, as it is performed: the bytes change, and the store joins the coherence order (R62, R78). -/
theorem State.storeOwn_plate (ho : off < 0x20000) (ht : ∀ x ∈ (s.core n).tiles.toList, x.state ≠ .filling) (v : Word)
    (rel : Option Nat) :
    s.storeOwn n (plateElem n off z ea) v rel =
      .ok ((s.updCore n fun c => c.plateWrite off z v).joinOrder (.plate n) (s.core n).own off z) := by
  have hlow : ¬ 0x21000 ≤ off := by omega
  have ht' : ∀ x ∈ ((s.updCore n fun c => c.plateWrite off z v).core n).tiles.toList, x.state ≠ .filling := by
    rw [State.core_updCore_same]; exact ht
  simp only [State.storeOwn, plateElem, if_neg hlow, State.applyAccess, State.passCaches, State.accessOf, State.placeWrite,
    State.plateStore, if_pos ho, State.spoilFilling_none ht']

/-- A store to the own plate completes at once (R79, R189). -/
theorem State.store_own (hp : placeOf ea = some (.plate n off)) (ho : off < 0x20000) (hz : off % z = 0)
    (hpend : (s.core n).pend = []) (hw : ∀ σ, s.pushWaits n σ = false)
    (ht : ∀ x ∈ (s.core n).tiles.toList, x.state ≠ .filling) (d : BitVec 5) (aligned : Bool) (rel : Option Nat) :
    s.store n d ea z aligned rel =
      .done ((s.updCore n fun c => c.plateWrite off z (c.s d)).joinOrder (.plate n) (s.core n).own off z) := by
  have hready : s.storeReady n [plateElem n off z ea] rel = true := by
    simp [State.storeReady, hpend, State.mayPerform_nil hw]
  have hroom : s.uscRoom n [plateElem n off z ea] = true := by simp [State.uscRoom, plateElem, portionOf]
  have htags : s.takeTags n [plateElem n off z ea] = s := rfl
  have hown : (plateElem n off z ea).own n = true := beq_self_eq_true _
  simp only [State.store, State.check_own hp ho hz, State.issueStores, List.map_cons, List.map_nil, hready, hroom, htags,
    State.storeList, hown, if_true, State.storeOwn_plate ho ht]
  rfl
end

/-! ### The forms of R189 and R191 -/

/-- A plain load whose guard holds. -/
theorem plainLoad_on {s : State} {gd : Guard} (hon : s.me.on gd = true) (d b : BitVec 5) (o : BitVec 7) (z : Nat) (sg : Bool) :
    plainLoad gd s d b o z sg = .next ((s.load s.cur d (eaOf s.me b 7 o.toNat z) z sg false false).finish s.cur) := by
  rw [plainLoad, scalarOp_on hon, eaOf_toNat (by decide)]; rfl

/-- A plain store whose guard holds. -/
theorem plainStore_on {s : State} {gd : Guard} (hon : s.me.on gd = true) (d b : BitVec 5) (o : BitVec 7) (z : Nat) :
    plainStore gd s d b o z = .next ((s.store s.cur d (eaOf s.me b 7 o.toNat z) z false none).finish s.cur) := by
  rw [plainStore, scalarOp_on hon, eaOf_toNat (by decide)]; rfl

/-- A scalar load form whose guard holds runs the load of its address, of 1 to 8 bytes. -/
theorem exec_of_loadForm {s : State} {i : Instr} {gd : Guard} {d : BitVec 5} {ea : Word} {z : Nat} {sg acq : Bool}
    (h : loadForm s.me i = some (gd, d, ea, z, sg, acq)) (hon : s.me.on gd = true) :
    (0 < z ∧ z ≤ 8) ∧ ∃ aligned, exec i s = .next ((s.load s.cur d ea z sg aligned acq).finish s.cur) := by
  unfold loadForm at h
  split at h <;> cases h
  case h_8 b k σ =>
    refine ⟨⟨Nat.two_pow_pos _, Nat.pow_le_pow_right (n := 2) (by decide) (show k.toNat ≤ 3 by omega)⟩, true, ?_⟩
    exact scalarOp_on hon fun s n => s.load n d ((s.core n).s b) (2 ^ k.toNat) false true true
  all_goals exact ⟨by decide, false, plainLoad_on hon _ _ _ _ _⟩

/-- A scalar store form whose guard holds runs the store to its address. -/
theorem exec_of_storeForm {s : State} {i : Instr} {gd : Guard} {d : BitVec 5} {ea : Word} {z : Nat} {rel : Option Nat}
    (h : storeForm s.me i = some (gd, d, ea, z, rel)) (hon : s.me.on gd = true) :
    ∃ aligned, exec i s = .next ((s.store s.cur d ea z aligned rel).finish s.cur) := by
  unfold storeForm at h
  split at h <;> cases h
  case h_5 b k σ =>
    exact ⟨true, scalarOp_on hon fun s n => s.store n d ((s.core n).s b) (2 ^ k.toNat) true (some σ.toNat)⟩
  all_goals exact ⟨false, plainStore_on hon _ _ _ _⟩

/-! ### O16 and O17 -/

/-- Settles O16: every load form runs the one load of R189, which reads the own plate at once. -/
theorem ownPlateLoads : Obligations.OwnPlateLoads := by
  unfold Obligations.OwnPlateLoads
  intro i gd d z off sg acq s hform hon hcalm ho hz
  obtain ⟨⟨hpend, hgathers, -⟩, hwaits, -, -, hcur⟩ := hcalm
  have hplace := placeOf_plateVa hcur (show off < 2 ^ 20 by omega)
  obtain ⟨⟨hz0, hz8⟩, aligned, hexec⟩ := exec_of_loadForm hform hon
  refine ⟨s.nextId + 1, ?_⟩
  rw [Completes, hexec, State.load_own hplace ho hz hpend hgathers hwaits, State.regs]
  simp only [Core.plateRead, extend_readWord _ _ hz0 hz8]
  rfl

/-- Settles O17: every store form runs the one store of R189, which writes the own plate at once. -/
theorem ownPlateStores : Obligations.OwnPlateStores := by
  unfold Obligations.OwnPlateStores
  intro i gd d z off rel s hform hon hcalm ho hz
  obtain ⟨⟨hpend, -, -⟩, hwaits, -, htiles, hcur⟩ := hcalm
  have hplace := placeOf_plateVa hcur (show off < 2 ^ 20 by omega)
  obtain ⟨aligned, hexec⟩ := exec_of_storeForm hform hon
  refine ⟨(s.me.plateWrite off z (s.me.s d)).plate, ?_, fun x => Core.plateByte_plateWrite s.me off z (s.me.s d) x⟩
  rw [Completes, hexec, State.store_own hplace ho hz hpend hwaits htiles]
  rfl

end Sys2Proof.Machine
end

section
/-!
Issue and steps (spec/08_encoding.md R171; spec/21_issue_and_scheduling.md R290, R291, R296): what a fetched word decodes to, what
running it comes to, and what the passing of time changes.
-/
namespace Sys2Proof.Machine
open Sys2Proof.Claims

/-! ### What a word decodes to (R171) -/

/-- A decoding gives a reason of R172, or an instruction that a word encodes. -/
inductive GivesWord : Decoded → Prop where
  | error (r : Nat) : GivesWord (.error r)
  | fields (ok : Bool) {i : Instr} (h : i.hasWord = true) : GivesWord (fields ok i)

/-- The instruction such a decoding gives has a word. -/
theorem GivesWord.hasWord {x : Decoded} {i : Instr} (h : GivesWord x) (hx : x = .ok i) : i.hasWord = true := by
  cases h with
  | error r => cases hx
  | fields ok h =>
    unfold Sys2Proof.fields at hx
    split at hx <;> cases hx
    exact h

/-- No major opcode decodes to a move that no word makes: each code of each major is unassigned, or a row with a word (R157). -/
theorem givesWord_decodeMajor (gd : Guard) (w : Code) : GivesWord (decodeMajor gd w) := by
  unfold decodeMajor decodeInt64 decodeInt32 decodeMulDiv decodeShiftImm decodeCmp decodeCmpImm decodePred decodeEnd decodeLoad
    decodeStore decodeAcqRel decodeFullEmpty decodeAtomic decodeRange decodeMessage decodeVMem decodeVFloat decodeVInt decodeVCmp
    decodeVCvt decodeVReduce decodeVPerm decodeVApprox decodeClaim decodeJob decodeJobWait decodeAgent decodeAcc decodeTreeUpdate
    decodeTreeQuery decodeRandom decodeSplice decodeSystem decodePriv
  repeat' split
  all_goals constructor <;> rfl

/-- The instruction that ends a chain is what its last word decodes to (R171 steps 1 to 5). -/
theorem decodeWord_of_decodeFetched {hs : List Code} {w : Code} {i : Instr} (h : decodeFetched hs w = .instr i) :
    decodeWord w = .ok i := by
  have hchain : decodeChain hs w = .ok i := by
    unfold decodeFetched at h
    repeat' split at h
    all_goals cases h
    assumption
  unfold decodeChain at hchain
  repeat' split at hchain
  all_goals cases hchain
  assumption

/-- It has a word. -/
theorem hasWord_of_decodeFetched {hs : List Code} {w : Code} {i : Instr} (h : decodeFetched hs w = .instr i) :
    i.hasWord = true := by
  have hw := decodeWord_of_decodeFetched h
  unfold decodeWord at hw
  split at hw
  · cases hw
  · exact (givesWord_decodeMajor _ w).hasWord hw

/-- A word on its own, no hint, is the instruction it decodes to (R171). -/
theorem decodeFetched_nil {w : Code} {i : Instr} (hw : decode w = .ok i) (hh : isHint w = false) (hc : cvtFieldOk [] i = true) :
    decodeFetched [] w = .instr i := by
  have hword : decodeWord w = .ok i := by simpa [decode, hh] using hw
  simp [decodeFetched, hh, decodeChain, hword, badPayload, badHint, hc]

/-! ### Every instruction goes on -/

theorem privOp_next (i : Instr) (gd : Guard) (s : State) (f : State → Nat → Act) : ∃ t, privOp i gd s f = .next t := by
  unfold privOp
  split <;> exact ⟨_, rfl⟩

theorem hintOp_next (h : Code) (s : State) : ∃ t, hintOp h s = .next t := by
  unfold hintOp
  dsimp only
  split <;> exact ⟨_, rfl⟩

theorem execWrctl_next (gd : Guard) (d : BitVec 5) (k : BitVec 10) (s : State) : ∃ t, execWrctl gd d k s = .next t := by
  unfold execWrctl
  dsimp only
  split
  · exact privOp_next _ _ _ _
  · exact ⟨_, rfl⟩

/-- An instruction that has a word answers a next state, whatever the state (R7). -/
theorem exec_next {i : Instr} (h : i.hasWord = true) (s : State) : ∃ t, exec i s = .next t := by
  cases i
  case wrctl gd d k => exact execWrctl_next gd d k s
  case rft | tinv | aspill | atag | wspill | wtag | keyld | saltld => exact privOp_next _ _ _ _
  case immx | rmode | cpol | order | etype => exact hintOp_next _ _
  all_goals cases h <;> exact ⟨_, rfl⟩

/-! ### Running a word (R171, R290, R291) -/

section
variable {s u v : State} {n : Nat} {w : Code} {i : Instr}

/-- No trap is due at a core that is undisturbed (R42, R188, R278). -/
theorem State.boundaryTrap_none (h : undisturbed s n) : s.boundaryTrap n = none := by
  obtain ⟨hpend, hsup, hcount⟩ := h
  have hdog : s.watchdogMove n = none := by
    unfold State.watchdogMove
    dsimp only
    split
    · rename_i x hx
      cases hs : (s.core n).sup with
      | true => simp [onlyIf]
      | false => have := hcount x hx hs; simp [onlyIf]; omega
    · rfl
  have hlim : s.supLimitMove n = none := by
    cases hs : (s.core n).sup with
    | true => have := hsup hs; simp [State.supLimitMove, onlyIf, hs]; omega
    | false => simp [State.supLimitMove, onlyIf, hs]
  have htrap : s.trapMove n = none := by simp [State.trapMove, onlyIf, hpend]
  simp [State.boundaryTrap, hdog, hlim, htrap]

/-- The word runs as its instruction, unless a register it uses is still to be written. -/
theorem State.runWord_instr (hd : decodeFetched (v.core n).hints w = .instr i) (hl : (v.core n).interlocked w i = false) :
    v.runWord n w = exec i v := by
  simp [State.runWord, hd, hl, runInstr_eq_exec i v (hasWord_of_decodeFetched hd)]

theorem State.runWord_interlocked (hd : decodeFetched (v.core n).hints w = .instr i) (hl : (v.core n).interlocked w i = true) :
    v.runWord n w = .next v := by simp [State.runWord, hd, hl]

theorem State.runWord_hint {h : Code} (hd : decodeFetched (v.core n).hints w = .hint h) :
    v.runWord n w = .next (v.updCore n fun c => c.pushHint h) := by simp [State.runWord, hd]

theorem State.runWord_illegal {x : Word} (hd : decodeFetched (v.core n).hints w = .illegal x) (hp : (v.core n).pending = none)
    (hb : (v.core n).begun = false) : v.runWord n w = .next (v.takeTrap n 0x01 x (v.core n).chainStart) := by
  simp [State.runWord, hd, State.raiseTrap_eq hp hb]

/-- Running a word answers a next state. -/
theorem State.runWord_next (v : State) (n : Nat) (w : Code) : ∃ t, v.runWord n w = .next t := by
  cases hd : decodeFetched (v.core n).hints w with
  | hint h => exact ⟨_, State.runWord_hint hd⟩
  | illegal x => exact ⟨_, by rw [State.runWord, hd]⟩
  | instr i =>
    cases hl : (v.core n).interlocked w i with
    | true => exact ⟨_, State.runWord_interlocked hd hl⟩
    | false =>
      rw [State.runWord_instr hd hl]
      exact exec_next (hasWord_of_decodeFetched hd) v

/-- The issuing core runs the word it fetches, and holds it meanwhile (R80, R171). -/
theorem State.issueWord_fetched (hn : s.cur = n) (hu : undisturbed s n) (hb : s.hasBegun n = false) (hf : s.fetch n = .word u w) :
    s.issueWord = (latched u n w).runWord n w := by
  subst hn
  simp [State.issueWord, State.boundaryTrap_none hu, hb, hf, latched]

/-- An instruction that has begun goes on with its word (R156). -/
theorem State.issueWord_begun (hn : s.cur = n) (hu : undisturbed s n) (hb : s.hasBegun n = true) :
    s.issueWord = s.runWord n (s.core n).ir := by
  subst hn
  simp [State.issueWord, State.boundaryTrap_none hu, hb]

/-- Issue answers a next state. -/
theorem State.issueWord_next (s : State) : ∃ t, s.issueWord = .next t := by
  unfold State.issueWord
  dsimp only
  split
  · exact ⟨_, rfl⟩
  · split
    · exact State.runWord_next _ _ _
    · split
      · exact ⟨_, rfl⟩
      · exact State.runWord_next _ _ _

/-- ISSUE issues the word of the core it names (R80). -/
theorem exec_issue {n : BitVec 11} (h : s.canIssue n.toNat = true) :
    exec (.issue n) s = { s with cur := n.toNat }.issueWord := if_pos h

/-! Corrections come before the issue, and touch neither the core that issues nor the marks of what has begun there. -/

theorem State.core_correct (s : State) (n : Nat) : s.correct.core n = s.core n := rfl

theorem State.hasBegun_correct (s : State) (n : Nat) : s.correct.hasBegun n = s.hasBegun n := rfl

theorem undisturbed_correct (h : undisturbed s n) : undisturbed s.correct n := h

theorem markIssued_correct (s : State) (o : Outcome) : markIssued s.correct o = markIssued s o := rfl

/-- With nothing asked for, a step issues the word of a core that may issue (log 3). -/
theorem step_issues (ha : s.agenda = []) (hw : s.waited = false) (hi : s.canIssue s.cur = true) :
    step s = ticked (markIssued s s.correct.issueWord) := by
  have hown : s.correct.ownMove = markIssued s.correct s.correct.issueWord := if_pos (by
    have hi' : s.correct.canIssue s.correct.cur = true := hi
    have hw' : s.correct.waited = false := hw
    rw [hi', hw']; rfl)
  rw [step, State.advance, ha]
  dsimp only
  rw [hown, markIssued_correct]

/-- Such a step runs the word that the core fetches. -/
theorem step_fetched (ha : s.agenda = []) (hw : s.waited = false) (hi : s.canIssue s.cur = true) (hu : undisturbed s s.cur)
    (hb : s.hasBegun s.cur = false) (hf : s.correct.fetch s.cur = .word u w) :
    step s = ticked (markIssued s ((latched u s.cur w).runWord s.cur w)) := by
  have hissue := State.issueWord_fetched (s := s.correct) (n := s.cur) rfl (undisturbed_correct hu) hb hf
  rw [step_issues ha hw hi, hissue]

/-- Such a step goes on with the word of an instruction that has begun. -/
theorem step_begun (ha : s.agenda = []) (hw : s.waited = false) (hi : s.canIssue s.cur = true) (hu : undisturbed s s.cur)
    (hb : s.hasBegun s.cur = true) : step s = ticked (markIssued s (s.correct.runWord s.cur s.me.ir)) := by
  have hissue := State.issueWord_begun (s := s.correct) (n := s.cur) rfl (undisturbed_correct hu) hb
  rw [step_issues ha hw hi, hissue, State.core_correct, State.me]

end

/-- A step makes the first move asked for. -/
theorem step_agenda {s : State} {i : Instr} {rest : List Instr} (ha : s.agenda = i :: rest) (hi : i.hasWord = false) :
    step s = ticked (exec i { s.correct with agenda := rest }) := by
  simp [step, State.advance, ha, State.agendaMove, hi]

/-! ### Corrections and time (R7, R361) -/

/-- A counter of corrections never falls. -/
theorem State.counted_ge (s : State) (c : Nat) : (Store.get 0 c s.corrected).toNat ≤ (Store.get 0 c s.counted).toNat := by
  unfold State.counted
  generalize structCodes = l
  generalize hm : s.corrected = m
  clear hm
  induction l generalizing m with
  | nil => exact Nat.le_refl _
  | cons a l ih =>
    refine Nat.le_trans ?_ (ih _)
    rw [Store.get_put]
    split
    · rename_i h
      subst h
      have := (Store.get 0 c m).isLt
      rw [BitVec.toNat_ofNat]
      omega
    · exact Nat.le_refl _

/-- What a table holds after a change of every entry. -/
theorem Store.get_map {α : Type} (f : Nat → α → α) (d : α) (n : Nat) (l : Store α) :
    Store.get d n (l.map fun x => (x.1, f x.1 x.2)) = Store.get d n l ∨
      Store.get d n (l.map fun x => (x.1, f x.1 x.2)) = f n (Store.get d n l) := by
  induction l with
  | nil => exact .inl rfl
  | cons x l ih =>
    obtain ⟨j, y⟩ := x
    by_cases h : j = n
    · subst h; exact .inr (by simp [Store.get, Store.find])
    · simpa [Store.get, Store.find, h] using ih

/-- The cycles of a step that starts in `s` pass on island `i`. -/
def State.pass (s t : State) (i : Nat) : State :=
  t.updIsland i fun x => { x with cycles := x.cycles + BitVec.ofNat 64 (s.delta i) }

/-- Cycles of islands change nothing but the islands. -/
theorem State.foldl_pass_eq (s : State) (l : List Nat) (t : State) : ∃ is, l.foldl s.pass t = { t with islands := is } := by
  induction l generalizing t with
  | nil => exact ⟨t.islands, rfl⟩
  | cons a l ih =>
    obtain ⟨is, h⟩ := ih (s.pass t a)
    exact ⟨is, h⟩

/-- They pass once on each island of a list, and on no other. -/
theorem State.island_foldl_pass (s : State) (i : Nat) {l : List Nat} (hl : l.Nodup) (t : State) :
    (l.foldl s.pass t).island i =
      if i ∈ l then { t.island i with cycles := (t.island i).cycles + BitVec.ofNat 64 (s.delta i) } else t.island i := by
  induction l generalizing t with
  | nil => rfl
  | cons a l ih =>
    obtain ⟨ha, hl⟩ := List.nodup_cons.mp hl
    rw [List.foldl_cons, ih hl]
    by_cases h : i = a
    · subst h
      simp [ha, State.pass]
    · have hi : (s.pass t a).island i = t.island i := State.island_updIsland_ne t h _
      simp [h, hi]

/-- The passing of time, as the islands' cycles and then what they do in the cores (R7). -/
theorem State.tick_eq (s : State) : ∃ is, s.tick =
    { s with
      islands := is
      cores := s.cores.map fun x => (x.1, x.2.tick (s.delta (islandOf x.1)))
      moves := s.moves + 1 } ∧
    (List.range 48).foldl s.pass s = { s with islands := is } := by
  obtain ⟨is, h⟩ := s.foldl_pass_eq (List.range 48) s
  refine ⟨is, ?_, h⟩
  have htick : s.tick = { (List.range 48).foldl s.pass s with
      cores := ((List.range 48).foldl s.pass s).cores.map fun x => (x.1, x.2.tick (s.delta (islandOf x.1)))
      moves := s.moves + 1 } := rfl
  rw [htick, h]

/-- Only time passes at the end of a step (R7). -/
theorem onlyTime_tick (s : State) : onlyTime s s.tick := by
  obtain ⟨is, htick, hfold⟩ := s.tick_eq
  have hisland (i : Nat) : s.tick.island i = ((List.range 48).foldl s.pass s).island i := by rw [htick, hfold]; rfl
  have hcore (n : Nat) : s.tick.core n = s.core n ∨ s.tick.core n = (s.core n).tick (s.delta (islandOf n)) := by
    rw [htick]
    exact Store.get_map (fun n (c : Core) => c.tick (s.delta (islandOf n))) Core.reset n s.cores
  refine ⟨rfl, s.tick_memB, ?_, ?_, ?_, ?_, ?_, fun n => ?_, fun i hi => ?_, ?_⟩
  case refine_6 =>
    rcases hcore n with h | h <;> rw [h] <;> exact ⟨rfl, rfl, rfl, rfl, rfl, rfl, rfl, rfl⟩
  case refine_7 =>
    rw [hisland, State.island_foldl_pass s i List.nodup_range, if_pos (List.mem_range.mpr hi)]
    exact ⟨rfl, rfl⟩
  all_goals rw [htick]

/-! ### Fetch (R94, R296) -/

section
variable {s : State} {n : Nat}

/-- Fetch that does not run ahead uses up a choice at most (log 62). -/
theorem State.fetchAhead_eq (h : s.choices.headD 0 = 0) : ∃ q, s.fetchAhead n = { s with choices := q } := by
  unfold State.fetchAhead
  dsimp only
  split
  · exact ⟨s.choices, rfl⟩
  · rw [State.choose_eq, h]
    exact ⟨_, rfl⟩

/-- A word at hand is the one fetched, and the lines of the instruction cache may only change their order (R296). -/
theorem State.fetch_atHand {w : Code} (hpc : (s.core n).pc.toNat < 0x000E000000000000) (h : atHand (s.core n) w) :
    s.fetch n = .word (s.fetchAhead n) w ∨
      ∃ l, s.fetch n = .word ((s.setCore n { s.core n with icache := l }).fetchAhead n) w := by
  have hlow : ¬ 0x000E000000000000 ≤ (s.core n).pc.toNat := by omega
  cases hx : (s.core n).ahead.find? fun x => x.1 == (s.core n).pc with
  | some x =>
    simp only [atHand, hx] at h
    exact .inl (by simp only [State.fetch, if_neg hlow, hx, h])
  | none =>
    cases hy : (s.core n).icache.find? fun x => x.owner == (s.core n).fetchTag && x.line == (s.core n).pc.toNat / 64 with
    | some y =>
      simp only [atHand, hx, hy] at h
      exact .inr ⟨cacheLine (s.core n).icache y, by simp only [State.fetch, if_neg hlow, hx, hy, h]⟩
    | none =>
      simp only [atHand, hx, hy] at h

/-! A fill from image C while the cache directory is empty, and no error, poison or window is about. -/

/-- An allocation in a class of which no copy is there takes the first way permitted, and evicts nothing (R122). -/
theorem State.allocate_fresh {cls : Nat} (hc : ∀ c ∈ s.copies, c.cls ≠ cls) (inst set line o : Nat) (ways : List Nat) (dirty : Bool) :
    ∃ f l, s.allocate cls inst set line o ways dirty = { s with fills := f, copies := s.copies ++ l } ∧ ∀ c ∈ l, c.cls = cls := by
  have hheld : (s.copies.filter fun c => c.cls == cls && c.inst == inst && c.set == set) = [] := by
    rw [List.filter_eq_nil_iff]
    intro c hm
    simp [hc c hm]
  unfold State.allocate
  cases ways with
  | nil => exact ⟨s.fills, [], by simp, by simp⟩
  | cons k ways =>
    simp only [hheld, List.any_nil, List.find?_cons, Bool.not_false]
    exact ⟨_, [_], rfl, by simp⟩

/-- A lookup in a class of which no copy is there misses, and fills the class at most (R118). -/
theorem State.touchClass_fresh {cls : Nat} (hc : ∀ c ∈ s.copies, c.cls ≠ cls) (m o line tc : Nat) (alloc : Bool) :
    ∃ f l, s.touchClass m o cls line tc alloc = { s with fills := f, copies := s.copies ++ l } ∧ ∀ c ∈ l, c.cls = cls := by
  have same : ∃ f l, s = { s with fills := f, copies := s.copies ++ l } ∧ ∀ c ∈ l, c.cls = cls :=
    ⟨s.fills, [], by simp, by simp⟩
  have hmiss (inst set : Nat) : (s.copies.find? fun c =>
      c.cls == cls && c.inst == inst && c.set == set && c.line == line && c.owner == o) = none := by
    rw [List.find?_eq_none]
    intro c hm
    simp [hc c hm]
  unfold State.touchClass
  simp only [hmiss]
  split
  · exact same
  · have hold : ∀ p : Option (Nat × Nat), (p.bind fun _ => (none : Option Copy)) = none := by intro p; cases p <;> rfl
    rw [hold, ite_self]
    dsimp only
    split
    · exact State.allocate_fresh hc _ _ _ _ _ _
    · exact same

/-- An access to an empty cache directory, past L1D, changes nothing but the directory (R69, R70). -/
theorem State.touch_fresh (hc : s.copies = []) (m o line tc : Nat) {cache : Nat} (hcache : cache ≠ 0) (tier : Tier) (stream : Bool)
    (op : CacheOp) : ∃ f l, s.touch m o line cache tier stream op tc = { s with fills := f, copies := l } := by
  have hl2 : ∃ f l, (if cache ≤ 1 then s.touchClass m o 2 line tc (!stream) else s) = { s with fills := f, copies := l } ∧
      ∀ c ∈ l, c.cls = 2 := by
    split
    · obtain ⟨f, l, h, hl⟩ := State.touchClass_fresh (s := s) (cls := 2) (by simp [hc]) m o line tc (!stream)
      exact ⟨f, l, by rw [h, hc, List.nil_append], hl⟩
    · exact ⟨s.fills, [], by rw [← hc], by simp⟩
  obtain ⟨f, l, h, hl⟩ := hl2
  unfold State.touch
  simp only [hcache, decide_false, Bool.false_and, Bool.false_eq_true, if_false, h]
  split
  · split
    · obtain ⟨f', l', h', -⟩ := State.touchClass_fresh (s := { s with fills := f, copies := l }) (cls := 3)
        (fun c hm => by rw [hl c hm]; decide) m o line tc
        (!stream && mscAllocates (({ s with fills := f, copies := l } : State).mscPolOf o tc) (atMsc cache op))
      rw [h']
      split <;> exact ⟨_, _, rfl⟩
    · unfold State.touchLocked
      split <;> exact ⟨_, _, rfl⟩
  · exact ⟨_, _, rfl⟩

/-- The instruction-cache line that a fill reads from image C for core `n` at `va`, whose translation is `pa` (R296). -/
def State.codeLine (s : State) (n : Nat) (va : Word) (pa : Nat) : ILine :=
  ⟨(s.core n).fetchTag, va.toNat / 64,
    (List.range 64).map fun i => s.cByte (s.keyFor (s.core n).own (s.core n).sup) (pa - pa % 64 + i)⟩

/-- A line enters the instruction cache of a core (R296). -/
def Core.putLine (x : ILine) (c : Core) : Core := { c with icache := cacheLine c.icache x }

/-- A fill reads its line from image C and puts it in the instruction cache; beside that it leaves its traces in the cache
directory and among the requests on their way (R69, R94, R296). -/
theorem State.fillCode_fresh (hlat : s.latent = []) (hmer : s.merges = []) (hcop : s.copies = []) {pa : Nat}
    (hpoi : s.poisonOf .c (pa / 128) = none) (va leaf : Word) :
    ∃ tr f l, s.fillCode n va pa leaf = ((none, false, s.codeLine n va pa),
      ({ s with traffic := tr, fills := f, copies := l } : State).updCore n (Core.putLine (s.codeLine n va pa))) := by
  have hdet (acc : Access) : s.detect n acc = s := by
    unfold State.detect
    split
    · simp [State.detectLine, hlat]
    · rfl
  have hjoin (acc : Access) : s.joinFill n acc = s := by
    have hopen : s.openMerge n acc = none := by unfold State.openMerge; split <;> simp [hmer]
    simp [State.joinFill, hopen]
  have hfirst : s.latent.contains (pa / 128) = false := by simp [hlat]
  have hcache : max 1 (Leaf.cache leaf) ≠ 0 := by omega
  obtain ⟨tr, hcross⟩ := s.cross_eq (s.core n).own n (pa / 128)
    (s.memPath (9, n) n (s.core n).own (pa / 128) (max 1 (Leaf.cache leaf)) (Leaf.tierOf leaf) .read) false
  obtain ⟨f, l, htouch⟩ := State.touch_fresh (s := { s with traffic := tr }) hcop n (s.core n).own (pa / 128) 0 hcache
    (Leaf.tierOf leaf) (s.core n).streams .read
  have hpoi' : ({ s with traffic := tr, fills := f, copies := l } : State).poisonOf .c (pa / 128) = none := hpoi
  have hstream : (s.accessOf n 0 (.load 0 0) ⟨0, .main (Leaf.image leaf), pa, 4, va, leaf⟩ pa 4 false none).stream =
    (s.core n).streams := rfl
  refine ⟨tr, f, l, ?_⟩
  unfold State.fillCode
  simp only [hdet, hjoin, hcross, hstream, htouch, hfirst]
  rw [hpoi']
  rfl

/-- Four bytes in storage order as a word (R5). -/
theorem word_of_bytes (f : Nat → Byte) (a : Nat) :
    f (a + 3) ++ f (a + 2) ++ f (a + 1) ++ f a = BitVec.ofNat 32 (joinBytes f a 4) := by
  have happ (b3 b2 b1 b0 : Byte) : (b3 ++ b2 ++ b1 ++ b0).toNat =
      ((b3.toNat * 2 ^ 8 + b2.toNat) * 2 ^ 8 + b1.toNat) * 2 ^ 8 + b0.toNat := by
    rw [toNat_append_add, toNat_append_add, toNat_append_add]
  apply BitVec.eq_of_toNat_eq
  refine (happ _ _ _ _).trans ?_
  simp only [joinBytes, BitVec.toNat_ofNat, Nat.add_assoc, Nat.reduceAdd]
  have h0 := (f a).isLt
  have h1 := (f (a + 1)).isLt
  have h2 := (f (a + 2)).isLt
  have h3 := (f (a + 3)).isLt
  omega

/-- Word `a` of a filled line, naturally aligned, is the four bytes at the translation of `a` (R5, R296). -/
theorem State.codeLine_word {va : Word} {pa : Nat} (h4 : va.toNat % 4 = 0) (h64 : pa % 64 = va.toNat % 64) :
    (s.codeLine n va pa).word va.toNat =
      BitVec.ofNat 32 (littleEndian (s.cByte (s.keyFor (s.core n).own (s.core n).sup)) pa 4) := by
  generalize hf : s.cByte (s.keyFor (s.core n).own (s.core n).sup) = f
  have hbyte (i : Nat) (hi : i < 4) : (s.codeLine n va pa).data.getD (va.toNat % 64 + i) 0 = f (pa + i) := by
    have hlt : va.toNat % 64 + i < 64 := by omega
    rw [State.codeLine, hf, List.getD_eq_getElem?_getD, List.getElem?_map, List.getElem?_range hlt]
    simp only [Option.map_some, Option.getD_some]
    congr 1
    omega
  rw [← joinBytes_eq_littleEndian, ← word_of_bytes, ILine.word]
  dsimp only
  rw [hbyte 0 (by decide), hbyte 1 (by decide), hbyte 2 (by decide), hbyte 3 (by decide)]
  rfl

/-- A read by a translation that the unit holds needs no walk (R309). -/
theorem State.translate_cached {k : Walker} {o : Nat} {sup r x : Bool} {va : Nat} {t : Trans} (ht : s.cached k o sup va = some t)
    (hok : s.paOk t.leaf t.shift va = true) (hall : leafAllows t.leaf r false x = true) :
    s.translate k o sup va r false x = (s, .ok (Leaf.frame t.leaf + va % 2 ^ t.shift) t.leaf) := by
  simp [State.translate, ht, hok, hall]

/-- Within 64 bytes a physical address is where its virtual address is (R307). -/
theorem physical_mod {t : Trans} (h : 6 ≤ t.shift) (ea : Word) : physical t ea % 64 = ea.toNat % 64 := by
  have hdvd : 64 ∣ 2 ^ t.shift := Nat.pow_dvd_pow 2 h
  have hmod := Nat.mod_mod_of_dvd ea.toNat hdvd
  rw [physical, Leaf.frame]
  omega

/-- A fetch of a word that is not at hand returns that of image C, whose line then enters the instruction cache (R94, R185,
R296). -/
theorem State.fetch_fills {pa : Nat} (hpc : (s.core n).pc.toNat < 0x000E000000000000) (h : fetchesFrom s n pa) :
    ∃ t : State, (t.cores = s.cores ∧ t.choices = s.choices ∧ t.cur = s.cur ∧ t.memB = s.memB ∧ t.memC = s.memC) ∧
      s.fetch n = .word ((t.updCore n (Core.putLine (s.codeLine n (s.core n).pc pa))).fetchAhead n)
        (BitVec.ofNat 32 (littleEndian (s.cByte (s.keyFor (s.core n).own (s.core n).sup)) pa 4)) := by
  obtain ⟨hahead, hicache, hlat, hmer, hcop, h4, hpoi, t, ht, hall, hshift, hok, rfl⟩ := h
  have hlow : ¬ 0x000E000000000000 ≤ (s.core n).pc.toNat := by omega
  obtain ⟨tr, f, l, hfill⟩ := State.fillCode_fresh hlat hmer hcop hpoi (s.core n).pc t.leaf
  refine ⟨{ s with traffic := tr, fills := f, copies := l }, ⟨rfl, rfl, rfl, rfl, rfl⟩, ?_⟩
  rw [← State.codeLine_word h4 (physical_mod hshift _)]
  simp only [State.fetch, if_neg hlow, hahead, hicache, State.xlate, State.translate_cached ht hok hall]
  unfold physical at hfill
  rw [hfill]
  rfl
end

/-! ### O57 -/

/-- A word at hand is fetched; what else changes is a choice taken, and the order of the instruction cache (R94, R296). -/
theorem fetch_atHand_clause {s : State} {n : Nat} {w : Code} (hpc : (s.core n).pc.toNat < 0x000E000000000000)
    (h : atHand (s.core n) w) :
    (∃ u, s.fetch n = .word u w) ∧
      (s.choices.headD 0 = 0 → ∃ q, s.fetch n = .word { s with choices := q } w ∨
        ∃ l, s.fetch n = .word { s.setCore n { s.core n with icache := l } with choices := q } w) := by
  rcases State.fetch_atHand hpc h with hf | ⟨l, hf⟩
  · refine ⟨⟨_, hf⟩, fun hq => ?_⟩
    obtain ⟨q, hahead⟩ := State.fetchAhead_eq (n := n) hq
    exact ⟨q, .inl (by rw [hf, hahead])⟩
  · refine ⟨⟨_, hf⟩, fun hq => ?_⟩
    obtain ⟨q, hahead⟩ := State.fetchAhead_eq (s := s.setCore n { s.core n with icache := l }) (n := n) hq
    exact ⟨q, .inr ⟨l, by rw [hf, hahead]⟩⟩

/-- A word not at hand is fetched from image C, and only the core's instruction cache changes among the cores (R94, R296). -/
theorem fetch_fills_clause {s : State} {n pa : Nat} (hpc : (s.core n).pc.toNat < 0x000E000000000000) (h : fetchesFrom s n pa)
    (hq : s.choices.headD 0 = 0) :
    ∃ u l, s.fetch n =
        .word u (BitVec.ofNat 32 (littleEndian (s.cByte (s.keyFor (s.core n).own (s.core n).sup)) pa 4)) ∧
      u.core n = { s.core n with icache := l } ∧ (∀ m, m ≠ n → u.core m = s.core m) ∧ u.cur = s.cur ∧
      u.memB = s.memB ∧ u.memC = s.memC := by
  obtain ⟨t, ⟨hcores, hchoices, hcur, hb, hc⟩, hf⟩ := State.fetch_fills hpc h
  have hcore (m : Nat) : t.core m = s.core m := by rw [State.core, hcores]; rfl
  have hq' : (t.updCore n (Core.putLine (s.codeLine n (s.core n).pc pa))).choices.headD 0 = 0 := by
    rw [State.updCore_choices, hchoices, hq]
  obtain ⟨q, hahead⟩ := State.fetchAhead_eq (n := n) hq'
  rw [hahead] at hf
  exact ⟨_, (Core.putLine (s.codeLine n (s.core n).pc pa) (s.core n)).icache, hf,
    (State.core_updCore_same t n _).trans (by rw [hcore]; rfl),
    fun m hm => (State.core_updCore_ne t hm (Core.putLine (s.codeLine n (s.core n).pc pa))).trans (hcore m), hcur, hb, hc⟩

/-- Settles O57: a step comes down to `issueWord`, which after the fetch is `runWord` of the word fetched, and `runWord` is the
meaning of the instruction decoded, since only instructions with a word are decoded. -/
theorem stepRunsTheDecodedInstruction : Obligations.StepRunsTheDecodedInstruction := by
  unfold Obligations.StepRunsTheDecodedInstruction
  refine ⟨fun s n hpc => ⟨fun w h => fetch_atHand_clause hpc h, fun pa h hq => fetch_fills_clause hpc h hq⟩,
    fun s u w ha hw hi hu hb hf => ?_, fun s i ha hw hi hu hb hd hl => ?_, fun n s u w hi hu hb hf => ?_, fun n s hi => ?_,
    fun s i rest ha hi => step_agenda ha hi, fun s => ⟨s.counted, rfl, s.counted_ge⟩, fun w i hw hh hc => decodeFetched_nil hw hh hc,
    fun t u h => ?_, fun s t u h => ?_⟩
  case refine_1 =>
    have hstep := step_fetched ha hw hi hu hb hf
    refine ⟨fun i hd hl => ?_, fun i hd hl => ?_, fun h hd => ?_, fun x hd hp hbg => ?_⟩
    · rw [hstep, State.runWord_instr hd hl]
    · rw [hstep, State.runWord_interlocked hd hl]
    · rw [hstep, State.runWord_hint hd]
    · rw [hstep, State.runWord_illegal hd hp hbg]
  case refine_2 =>
    have hrun : s.correct.runWord s.cur s.me.ir = exec i s.correct := by
      refine State.runWord_instr ?_ ?_
      · rw [State.core_correct]; exact hd
      · rw [State.core_correct]; exact hl
    rw [step_begun ha hw hi hu hb, hrun]
  case refine_3 =>
    have hexec : exec (.issue n) s = (latched u n.toNat w).runWord n.toNat w := by
      rw [exec_issue hi, State.issueWord_fetched (s := { s with cur := n.toNat }) rfl hu hb hf]
    refine ⟨fun i hd hl => ?_, fun i hd hl => ?_, fun h hd => ?_⟩
    · rw [hexec, State.runWord_instr hd hl]
    · rw [hexec, State.runWord_interlocked hd hl]
    · rw [hexec, State.runWord_hint hd]
  case refine_4 =>
    rw [exec_issue hi]
    exact State.issueWord_next _
  case refine_5 =>
    obtain ⟨t', ht, rfl⟩ := ticked_next.mp h
    cases ht
    exact onlyTime_tick t
  case refine_6 =>
    obtain ⟨t', ht, rfl⟩ := markIssued_next.mp h
    cases ht
    exact ⟨_, rfl⟩

end Sys2Proof.Machine
end

section
/-!
The scalar registers of a core (R11; spec/14_draws_system_traps.md R277): reading after writing, bank by bank.
-/
namespace Sys2Proof.Machine

/-! ### The two banks -/

/-- s0 reads as zero (R11). -/
@[simp] theorem Core.s_zero (c : Core) : c.s 0 = 0 := if_pos rfl

/-- A write of s0 is discarded (R11). -/
@[simp] theorem Core.setS_zero (c : Core) (v : Word) : c.setS 0 v = c := if_pos rfl

section
variable {c : Core} {r : BitVec 5}

/-- A register of the supervisor bank, while that bank is in force (R277). -/
theorem Core.s_bank (hb : (c.sup && 24 ≤ r.toNat) = true) (hr : r ≠ 0) :
    c.s r = c.supBank[r.toNat - 24]'(by omega) := by
  have hlt : r.toNat - 24 < 8 := by omega
  rw [Core.s, if_neg hr, if_pos hb, Vector.getD, Array.getD, dif_pos (by simpa using hlt)]
  rfl

/-- A user register. -/
theorem Core.s_user (hb : (c.sup && 24 ≤ r.toNat) = false) (hr : r ≠ 0) : c.s r = c.sregs[r.toNat]'r.isLt := by
  rw [Core.s, if_neg hr, if_neg (by rw [hb]; exact Bool.false_ne_true)]

/-- A write to the supervisor bank. -/
theorem Core.setS_bank (hb : (c.sup && 24 ≤ r.toNat) = true) (hr : r ≠ 0) (v : Word) :
    c.setS r v = { c with supBank := c.supBank.setIfInBounds (r.toNat - 24) v } := by
  rw [Core.setS, if_neg hr, if_pos hb]

/-- A write to a user register. -/
theorem Core.setS_user (hb : (c.sup && 24 ≤ r.toNat) = false) (hr : r ≠ 0) (v : Word) :
    c.setS r v = { c with sregs := c.sregs.set r.toNat v r.isLt } := by
  rw [Core.setS, if_neg hr, if_neg (by rw [hb]; exact Bool.false_ne_true)]

/-- What is written to a register other than s0 is read back. -/
theorem Core.s_setS_same (hr : r ≠ 0) (v : Word) : (c.setS r v).s r = v := by
  cases hb : c.sup && 24 ≤ r.toNat with
  | true =>
    rw [Core.s_bank (by rw [Core.setS_sup]; exact hb) hr]
    simp [Core.setS_bank hb hr]
  | false =>
    rw [Core.s_user (by rw [Core.setS_sup]; exact hb) hr]
    simp [Core.setS_user hb hr]

/-- Every other register reads as before. -/
theorem Core.s_setS_ne {d : BitVec 5} (h : r ≠ d) (v : Word) : (c.setS d v).s r = c.s r := by
  by_cases hr : r = 0
  · rw [hr, Core.s_zero, Core.s_zero]
  by_cases hd : d = 0
  · rw [hd, Core.setS_zero]
  have hne : d.toNat ≠ r.toNat := fun heq => h (BitVec.eq_of_toNat_eq heq.symm)
  cases hb : c.sup && 24 ≤ r.toNat with
  | true =>
    obtain ⟨hsup, hr24⟩ : c.sup = true ∧ 24 ≤ r.toNat := by simpa using hb
    rw [Core.s_bank (by rw [Core.setS_sup]; exact hb) hr, Core.s_bank hb hr]
    cases hbd : c.sup && 24 ≤ d.toNat with
    | true =>
      have hd24 : 24 ≤ d.toNat := by simpa [hsup] using hbd
      have hidx : d.toNat - 24 ≠ r.toNat - 24 := by omega
      simp [Core.setS_bank hbd hd, hidx]
    | false => rw [Core.setS_user hbd hd]
  | false =>
    rw [Core.s_user (by rw [Core.setS_sup]; exact hb) hr, Core.s_user hb hr]
    cases hbd : c.sup && 24 ≤ d.toNat with
    | true => simp [Core.setS_bank hbd hd]
    | false => simp [Core.setS_user hbd hd, hne]

/-- A write to s24 to s31 reaches the user registers in user mode only (R277). -/
theorem Core.setS_sregs_high (h : 24 ≤ r.toNat) (v : Word) :
    (c.setS r v).sregs = if c.sup then c.sregs else c.sregs.set r.toNat v r.isLt := by
  have hr : r ≠ 0 := by rintro rfl; exact absurd h (by decide)
  cases hsup : c.sup with
  | true => rw [Core.setS_bank (by simp [hsup, h]) hr]; rfl
  | false => rw [Core.setS_user (by simp [hsup]) hr]; rfl

/-- A write below s24 leaves the supervisor bank. -/
theorem Core.setS_supBank_low (h : r.toNat < 24) (v : Word) : (c.setS r v).supBank = c.supBank := by
  by_cases hr : r = 0
  · rw [hr, Core.setS_zero]
  · rw [Core.setS_user (by simp [h]) hr]
end

/-! ### O8 -/

/-- Settles O8: each bank keeps what is written to it, and a write reaches the bank in force only. -/
theorem registerZeroAndBanks : Obligations.RegisterZeroAndBanks := by
  unfold Obligations.RegisterZeroAndBanks
  intro c d r v
  exact ⟨c.s_zero, c.setS_zero v, fun hd => Core.s_setS_same hd v, fun h => Core.s_setS_ne h v,
    fun h => Core.setS_sregs_high h v, fun h => Core.setS_supBank_low h v⟩

end Sys2Proof.Machine
end

section
/-!
Select, the immediate forms, compares and predicates (R15; spec/08_encoding.md R152; spec/09_scalar_control.md
R176, R177, R179, R180): what each form writes, as a number or bit by bit.
-/
namespace Sys2Proof.Machine
open Sys2Proof.Claims

/-! ### Instructions that only write a register -/

/-- An instruction that only changes registers of its core completes with that change. -/
theorem completes_of_regOp {i : Instr} {gd : Guard} {s : State} {f g : Core → Core} (hexec : exec i s = regOp gd s f)
    (hon : s.me.on gd = true) (heq : f s.me = g s.me) : Completes i s (s.regs g) := by
  rw [Completes, hexec, regOp_on hon, State.regs, State.updCore_congr heq]

/-! ### Immediates (R15, R152) -/

/-- An immediate with its `IMMX` extension, zero-extended, as a number. -/
theorem toNat_immZ {w : Nat} (hw : w + 16 ≤ 64) (c : Core) (x : BitVec w) : (c.immZ x).toNat = immUnsigned c w x.toNat := by
  unfold immUnsigned Core.immZ
  cases c.hint 0 with
  | none => exact BitVec.toNat_setWidth_of_le (by omega)
  | some p => exact (BitVec.toNat_setWidth_of_le (by omega)).trans (toNat_append_add p x)

/-- A sign-extended immediate with its `IMMX` extension, read as a signed number. -/
theorem toInt_immS {w : Nat} (hw : 0 < w) (hw64 : w + 16 ≤ 64) (c : Core) (x : BitVec w) :
    (c.immS x).toInt = immSigned c w x.toNat := by
  unfold immSigned Core.immS
  cases c.hint 0 with
  | none => exact (BitVec.toInt_signExtend_of_le (by omega)).trans (signed_toNat hw x).symm
  | some p =>
    refine (BitVec.toInt_signExtend_of_le (by omega)).trans ?_
    simp only [← toNat_append_add, Nat.add_comm w 16, signed_toNat (show 0 < 16 + w by omega)]

/-- The sum of a word and a sign-extended immediate. -/
theorem add_immS {w : Nat} (hw : 0 < w) (c : Core) (x : Word) (i : BitVec w) :
    x + c.immS i = BitVec.ofInt 64 (x.toNat + immSigned c w i.toNat) := by
  rw [BitVec.ofInt_add, ofInt_immSigned hw, BitVec.ofInt_natCast, BitVec.ofNat_toNat, BitVec.setWidth_eq]

/-! ### Shifts and rotates, as numbers -/

theorem shiftLeft_eq_ofNat (x : Word) (n : Nat) : x <<< n = BitVec.ofNat 64 (x.toNat * 2 ^ n) := by
  apply BitVec.eq_of_toNat_eq
  rw [BitVec.toNat_shiftLeft, BitVec.toNat_ofNat, Nat.shiftLeft_eq]

theorem ushiftRight_eq_ofNat (x : Word) (n : Nat) : x >>> n = BitVec.ofNat 64 (x.toNat / 2 ^ n) := by
  apply BitVec.eq_of_toNat_eq
  rw [BitVec.toNat_ushiftRight, BitVec.toNat_ofNat, Nat.shiftRight_eq_div_pow,
    Nat.mod_eq_of_lt (Nat.lt_of_le_of_lt (Nat.div_le_self _ _) x.isLt)]

theorem sshiftRight_eq_ofInt (x : Word) (n : Nat) : x.sshiftRight n = BitVec.ofInt 64 (signed 64 x.toNat / 2 ^ n) := by
  rw [BitVec.sshiftRight, signed_toNat (by decide), Int.shiftRight_eq_div_pow]
  push_cast
  rfl

/-- The two parts of a rotated word have no bit in common, so that they add up. -/
theorem rotateLeft_eq_ofNat (x : Word) {n : Nat} (hn : n < 64) :
    x.rotateLeft n = BitVec.ofNat 64 (x.toNat * 2 ^ n + x.toNat / 2 ^ (64 - n)) := by
  have hdisjoint : x <<< n &&& x >>> (64 - n) = 0#64 := by
    ext i hi
    simp only [BitVec.getElem_and, BitVec.getElem_shiftLeft, BitVec.getElem_ushiftRight, BitVec.getElem_zero]
    by_cases h : i < n
    · simp [h]
    · simp [BitVec.getLsbD_of_ge x (64 - n + i) (by omega)]
  rw [BitVec.rotateLeft_eq_rotateLeftAux_of_lt hn, BitVec.rotateLeftAux, ← BitVec.add_eq_or_of_and_eq_zero _ _ hdisjoint,
    shiftLeft_eq_ofNat, ushiftRight_eq_ofNat, BitVec.ofNat_add]

/-! ### Compares (R179) -/

/-- A comparison of words is the one of R179 on readings that tell words apart and order them as U asks for. -/
theorem compare_eq_holds {w : Nat} {u : BitVec 1} {f : BitVec w → Int} (hf : Function.Injective f)
    (hlt : ∀ x y, aluLt u x y = decide (f x < f y)) (cc : BitVec 3) (x y : BitVec w) :
    compare u cc x y = holds cc.toNat (f x) (f y) := by
  unfold compare holds
  generalize cc.toNat = k
  rw [Bool.eq_iff_iff]
  match k with
  | 0 | 1 | 2 | 3 | 4 | k + 5 => simp [hlt, hf.eq_iff]

/-- The readings are the unsigned ones with U = 1, and the signed ones with U = 0 (R174, R179). -/
theorem compare_eq {w : Nat} (u : BitVec 1) (cc : BitVec 3) (x y : BitVec w) :
    compare u cc x y = if u = 1 then holds cc.toNat x.toNat y.toNat else holds cc.toNat x.toInt y.toInt := by
  by_cases hu : u = 1
  · rw [if_pos hu]
    refine compare_eq_holds (f := fun x => (x.toNat : Int)) (fun x y h => BitVec.eq_of_toNat_eq (Int.ofNat_inj.mp h)) ?_ cc x y
    intro x y
    rw [aluLt, if_pos hu, BitVec.ult_eq_decide]
    simp
  · rw [if_neg hu]
    refine compare_eq_holds (f := BitVec.toInt) (fun x y => BitVec.eq_of_toInt_eq) ?_ cc x y
    intro x y
    rw [aluLt, if_neg hu, BitVec.slt_eq_decide]

/-- The low `n` bits of a register compared, in the readings of R179. -/
theorem compare_setWidth {n : Nat} (hn : 0 < n) (u : BitVec 1) (cc : BitVec 3) (x y : Word) :
    compare u cc (x.setWidth n) (y.setWidth n) = if u = 1 then holds cc.toNat (x.toNat % 2 ^ n : Nat) (y.toNat % 2 ^ n : Nat)
      else holds cc.toNat (signed n (x.toNat % 2 ^ n)) (signed n (y.toNat % 2 ^ n)) := by
  rw [compare_eq, ← signed_toNat hn, ← signed_toNat hn, BitVec.toNat_setWidth, BitVec.toNat_setWidth]

/-- Two registers compared at the width W asks for, in the readings of R179. -/
theorem compare_form (u w : BitVec 1) (cc : BitVec 3) (x y : Word) :
    (if w = 1 then compare u cc (x.setWidth 32) (y.setWidth 32) else compare u cc x y) =
      let n := if w = 1 then 32 else 64
      if u = 1 then holds cc.toNat (x.toNat % 2 ^ n : Nat) (y.toNat % 2 ^ n : Nat)
      else holds cc.toNat (signed n (x.toNat % 2 ^ n : Nat)) (signed n (y.toNat % 2 ^ n : Nat)) := by
  by_cases hw : w = 1
  · simp only [if_pos hw]
    exact compare_setWidth (by decide) u cc x y
  · have hwide := compare_setWidth (n := 64) (by decide) u cc x y
    rw [BitVec.setWidth_eq, BitVec.setWidth_eq] at hwide
    simp only [if_neg hw]
    exact hwide

/-- A register compared with an immediate and its `IMMX` extension, in the readings of R179. -/
theorem compare_imm {w : Nat} (hw : 0 < w) (hw64 : w + 16 ≤ 64) (c : Core) (u : BitVec 1) (cc : BitVec 3) (x : Word)
    (v : BitVec w) : compare u cc x (if u = 1 then c.immZ v else c.immS v) =
      if u = 1 then holds cc.toNat x.toNat (immUnsigned c w v.toNat)
      else holds cc.toNat (signed 64 x.toNat) (immSigned c w v.toNat) := by
  rw [compare_eq, signed_toNat (by decide)]
  by_cases hu : u = 1
  · rw [if_pos hu, if_pos hu, if_pos hu, toNat_immZ hw64]
  · rw [if_neg hu, if_neg hu, if_neg hu, toInt_immS hw hw64]

/-! ### Predicates, bit by bit (R180) -/

theorem getLsbD_predAll (b : Bool) {k : Nat} (hk : k < 256) : (predAll b).getLsbD k = b := by
  cases b with
  | true => exact (BitVec.getLsbD_allOnes (v := 256)).trans (decide_eq_true hk)
  | false => exact BitVec.getLsbD_zero

/-- `pins` replaces the bits of its 64-bit part and keeps the others. -/
theorem getLsbD_predInsert (p : Pred) {k : Nat} (x : Word) {i : Nat} (hi : i < 256) :
    (predInsert p k x).getLsbD i = if 64 * k ≤ i ∧ i < 64 * k + 64 then x.getLsbD (i - 64 * k) else p.getLsbD i := by
  simp only [predInsert, BitVec.getLsbD_or, BitVec.getLsbD_and, BitVec.getLsbD_not, BitVec.getLsbD_shiftLeft,
    BitVec.getLsbD_setWidth, BitVec.getLsbD_allOnes]
  by_cases hlow : i < 64 * k
  · simp [hi, hlow, show ¬64 * k ≤ i by omega]
  · have hpart : i - 64 * k < 256 := by omega
    by_cases hhigh : i < 64 * k + 64
    · simp [hi, hlow, hpart, hhigh, show 64 * k ≤ i by omega, show i - 64 * k < 64 by omega]
    · have hge : 64 ≤ i - 64 * k := by omega
      simp [hi, hlow, hhigh, show ¬i - 64 * k < 64 by omega, BitVec.getLsbD_of_ge x _ hge]

/-- A 64-bit part of a predicate, as a number. -/
theorem wordAt_eq_ofNat (p : Pred) (k : Nat) : wordAt p k = BitVec.ofNat 64 (p.toNat / 2 ^ (64 * k) % 2 ^ 64) := by
  apply BitVec.eq_of_toNat_eq
  rw [wordAt, BitVec.extractLsb'_toNat, Nat.shiftRight_eq_div_pow, BitVec.toNat_ofNat, Nat.mod_mod]

/-- The number of 1 bits is the length of their list. -/
theorem popCount_eq_length {w : Nat} (x : BitVec w) : popCount x = ((List.range w).filter x.getLsbD).length := by
  have hcount (l : List Nat) (k : Nat) : l.foldl (fun k i => k + b2n (bitOf x i)) k = k + (l.filter x.getLsbD).length := by
    induction l generalizing k with
    | nil => rfl
    | cons a l ih =>
      rw [List.foldl_cons, ih, List.filter_cons, bitOf]
      cases x.getLsbD a with
      | true => simp [b2n]; omega
      | false => simp [b2n]
  rw [popCount, hcount, Nat.zero_add]

/-! ### O5 -/

/-- A form of R176 or R177 writes one register, with the value that its rule gives; the cases are in the order of `immForm`: `sel`,
`add`, the three shifts, `rotl`, `and`, `or`, `xor` and `li`, `lsi`. -/
theorem exec_of_immForm {s : State} {i : Instr} {gd : Guard} {d : BitVec 5} {v : Word} (h : immForm s.me i = some (gd, d, v)) :
    ∃ f : Core → Word, exec i s = regOp gd s (fun c => c.setS d (f c)) ∧ f s.me = v := by
  unfold immForm at h
  split at h <;> cases h
  case h_1 => exact ⟨_, rfl, rfl⟩
  case h_2 => exact ⟨_, rfl, add_immS (by decide) _ _ _⟩
  case h_3 => exact ⟨_, rfl, shiftLeft_eq_ofNat _ _⟩
  case h_4 => exact ⟨_, rfl, ushiftRight_eq_ofNat _ _⟩
  case h_5 => exact ⟨_, rfl, sshiftRight_eq_ofInt _ _⟩
  case h_6 n => exact ⟨_, rfl, rotateLeft_eq_ofNat _ n.isLt⟩
  case h_7 | h_8 | h_9 | h_10 => exact ⟨_, rfl, by rw [ofInt_immSigned (by decide)]⟩
  case h_11 i =>
    refine ⟨_, rfl, ?_⟩
    rw [shiftLeft_eq_ofNat, BitVec.ofNat_add, ← toNat_immZ (by decide), BitVec.ofNat_toNat, BitVec.setWidth_eq]

/-- Settles O5: each form writes the one register named, and the value is that of its rule. -/
theorem selectAndImmediateResults : Obligations.SelectAndImmediateResults := by
  unfold Obligations.SelectAndImmediateResults
  intro i gd d v s hform hon
  obtain ⟨f, hexec, rfl⟩ := exec_of_immForm hform
  exact completes_of_regOp hexec hon rfl

/-! ### O6 -/

/-- A form of R179 or R180 writes one predicate, with the bits that its rule gives; the cases are in the order of `predForm`: the two
compares, `pand`, `por`, `pxor`, `pandn`, `porn` and `pnot`, `pset`, `pclr`, `pins`. -/
theorem exec_of_predForm {s : State} {i : Instr} {gd : Guard} {d : BitVec 5} {f : Nat → Bool}
    (h : predForm s.me i = some (gd, d, f)) :
    ∃ g : Core → Pred, exec i s = regOp gd s (fun c => c.setP d.toNat (g c)) ∧ ∀ k, k < 256 → (g s.me).getLsbD k = f k := by
  unfold predForm at h
  split at h <;> cases h
  case h_1 => exact ⟨_, rfl, fun k hk => (getLsbD_predAll _ hk).trans (compare_form _ _ _ _ _)⟩
  case h_2 => exact ⟨_, rfl, fun k hk => (getLsbD_predAll _ hk).trans (compare_imm (by decide) (by decide) _ _ _ _ _)⟩
  case h_3 => exact ⟨_, rfl, fun k _ => BitVec.getLsbD_and⟩
  case h_4 => exact ⟨_, rfl, fun k _ => BitVec.getLsbD_or⟩
  case h_5 => exact ⟨_, rfl, fun k _ => BitVec.getLsbD_xor⟩
  case h_6 | h_7 | h_8 => exact ⟨_, rfl, fun k hk => by simp [hk]⟩
  case h_9 => exact ⟨_, rfl, fun k hk => getLsbD_predAll true hk⟩
  case h_10 => exact ⟨_, rfl, fun k hk => getLsbD_predAll false hk⟩
  case h_11 => exact ⟨_, rfl, fun k hk => getLsbD_predInsert _ _ hk⟩

/-- `pext` and `pcnt` write one register, with the value that R180 gives. -/
theorem exec_of_predRead {s : State} {i : Instr} {gd : Guard} {d : BitVec 5} {v : Nat} (h : predRead s.me i = some (gd, d, v)) :
    ∃ f : Core → Word, exec i s = regOp gd s (fun c => c.setS d (f c)) ∧ f s.me = BitVec.ofNat 64 v := by
  unfold predRead at h
  split at h <;> cases h
  case h_1 => exact ⟨_, rfl, wordAt_eq_ofNat _ _⟩
  case h_2 => exact ⟨_, rfl, congrArg (BitVec.ofNat 64) (popCount_eq_length _)⟩

/-- Settles O6: each form writes the one predicate or register named, with the bits or the value of its rule. -/
theorem compareAndPredicateResults : Obligations.CompareAndPredicateResults := by
  unfold Obligations.CompareAndPredicateResults
  refine ⟨fun i gd d f s _ hform hon => ?_, fun i gd d v s _ hform hon => ?_⟩
  · obtain ⟨g, hexec, hbits⟩ := exec_of_predForm hform
    exact ⟨g s.me, hbits, completes_of_regOp hexec hon rfl⟩
  · obtain ⟨f, hexec, hval⟩ := exec_of_predRead hform
    exact completes_of_regOp hexec hon (congrArg (s.me.setS d) hval)

end Sys2Proof.Machine
end

section
/-!
Guards and hint chains (R13; spec/08_encoding.md R148 to R156, R171, R172): where a word holds its guard, what an
instruction does under its guard, and what a hint word does.
-/
namespace Sys2Proof.Machine
open Sys2Proof.Claims

/-! ### The fields of a packed word (R148, R150) -/

section
variable (g m : BitVec 6) (d a b f : BitVec 5)

theorem fGuard_packRRR : fGuard (packRRR g m d a b f) = g := by
  unfold fGuard packRRR
  iterate 4 rw [BitVec.extractLsb'_append_eq_of_le (by decide)]
  exact BitVec.extractLsb'_append_eq_left

theorem fMaj_packRRR : fMaj (packRRR g m d a b f) = m := by
  unfold fMaj packRRR
  iterate 4 rw [BitVec.extractLsb'_append_eq_of_le (by decide)]
  exact BitVec.extractLsb'_append_eq_right

theorem fFn_packRRR : fFn (packRRR g m d a b f) = f := BitVec.extractLsb'_append_eq_right

theorem fGuard_packRRI (n : BitVec 10) : fGuard (packRRI g m d a n) = g := by
  unfold fGuard packRRI
  iterate 3 rw [BitVec.extractLsb'_append_eq_of_le (by decide)]
  exact BitVec.extractLsb'_append_eq_left

theorem fGuard_packRI (n : BitVec 15) : fGuard (packRI g m d n) = g := by
  unfold fGuard packRI
  iterate 2 rw [BitVec.extractLsb'_append_eq_of_le (by decide)]
  exact BitVec.extractLsb'_append_eq_left

theorem fGuard_packBR (n : BitVec 20) : fGuard (packBR g m n) = g := by
  unfold fGuard packBR
  rw [BitVec.extractLsb'_append_eq_of_le (by decide)]
  exact BitVec.extractLsb'_append_eq_left

theorem fGuard_packMEM (k : BitVec 3) (o : BitVec 7) : fGuard (packMEM g m d b k o) = g := by
  unfold fGuard packMEM
  iterate 4 rw [BitVec.extractLsb'_append_eq_of_le (by decide)]
  exact BitVec.extractLsb'_append_eq_left

end

section
variable (k : BitVec 4) (p : BitVec 16)

theorem fGuard_packHint : fGuard (packHint k p) = 0 := by
  unfold fGuard packHint
  iterate 2 rw [BitVec.extractLsb'_append_eq_of_le (by decide)]
  exact BitVec.extractLsb'_append_eq_left

/-- A hint word is one (R153). -/
theorem isHint_packHint : isHint (packHint k p) = true := by
  have hmaj : fMaj (packHint k p) = 0x3F#6 := by
    unfold fMaj packHint
    iterate 2 rw [BitVec.extractLsb'_append_eq_of_le (by decide)]
    exact BitVec.extractLsb'_append_eq_right
  rw [isHint, hmaj]
  rfl

/-- A hint word as a number (R153). -/
theorem packHint_eq_ofNat : packHint k p = BitVec.ofNat 32 (0x03F00000 + k.toNat * 2 ^ 16 + p.toNat) := by
  have hnum : (packHint k p).toNat = 0x03F00000 + k.toNat * 2 ^ 16 + p.toNat := by
    rw [packHint, toNat_append_add, toNat_append_add, show (0#6 ++ 0x3F#6).toNat = 0x3F from rfl]
    omega
  rw [← hnum, BitVec.ofNat_toNat, BitVec.setWidth_eq]

end

/-- The guard bits of a word name its guard (R148). -/
theorem decodeGuard_guardBits (gd : Guard) : decodeGuard (guardBits gd) = some gd := by
  cases gd with
  | none => rfl
  | pos g => revert g; decide
  | neg g => revert g; decide

/-! ### What an instruction does under its guard (R13, R171) -/

/-- The major opcode `m` with the function code `f` is guarded per lane. -/
def laneCode (m : BitVec 6) (f : BitVec 5) : Bool :=
  (decide (0x20 ≤ m.toNat ∧ m.toNat ≤ 0x28) && !(m.toNat == 0x27 && (f.toNat == 5 || f.toNat == 12 || f.toNat == 13)))
    || (m.toNat == 0x33 && f.toNat != 0) || (m.toNat == 0x36 && (f.toNat == 1 || f.toNat == 2))

theorem laneGuarded_packRRR (g m : BitVec 6) (d a b f : BitVec 5) : laneGuarded (packRRR g m d a b f) = laneCode m f := by
  have hfn (w : Code) : bitsOf w 4 0 = (fFn w).toNat := by
    rw [bitsOf, fFn, BitVec.extractLsb'_toNat, Nat.shiftRight_zero, Nat.pow_zero, Nat.div_one]
  rw [laneGuarded, hfn, fMaj_packRRR, fFn_packRRR]
  rfl

/-- What comes of an instruction under the guard `gd` whose effect is `a` (R13). -/
def guarded (gd : Guard) (s : State) (a : Act) : Outcome := .next ((if s.me.on gd then a else .done s).finish s.cur)

/-- Guarded off, the core only goes on. -/
theorem guarded_off {gd : Guard} {s : State} (h : s.me.on gd = false) (a : Act) : guarded gd s a = .next (s.nextWord s.cur) := by
  rw [guarded, h]; rfl

/-- The instruction `i` acts under the guard `gd`: a privileged one in supervisor mode only (R171). -/
inductive ActsUnder (i : Instr) (gd : Guard) : Prop where
  | scalar (hexec : ∀ s, ∃ a, exec i s = guarded gd s a)
  | priv (hpriv : privileged i = true) (hexec : ∀ s, ∃ a u, exec i s = if s.me.sup then guarded gd s a else u)

/-- Guarded off, it only lets the core go on (R13). -/
theorem ActsUnder.completes_off {i : Instr} {gd : Guard} (h : ActsUnder i gd) {s : State} (hoff : s.me.on gd = false)
    (hsup : privileged i = true → s.me.sup = true) : Completes i s s := by
  cases h with
  | scalar hexec =>
    obtain ⟨a, ha⟩ := hexec s
    rw [Completes, ha, guarded_off hoff]
  | priv hpriv hexec =>
    obtain ⟨a, u, ha⟩ := hexec s
    rw [Completes, ha, if_pos (hsup hpriv), guarded_off hoff]

/-- `wrctl` is privileged for the trap registers only (R181). -/
theorem actsUnder_wrctl (gd : Guard) (d : BitVec 5) (k : BitVec 10) : ActsUnder (.wrctl gd d k) gd := by
  cases hk : ctlPrivileged k.toNat with
  | false =>
    refine .scalar fun s => ?_
    rw [exec, execWrctl, hk]
    exact ⟨_, rfl⟩
  | true =>
    refine .priv ?_ fun s => ?_
    · simpa [ctlPrivileged, privileged] using hk
    · rw [exec, execWrctl, hk]
      exact ⟨_, _, rfl⟩

/-- An instruction whose word is no hint and is not guarded per lane acts under the guard of its word: each row of R157 in turn. -/
theorem actsUnder_guard {i : Instr} (hword : i.hasWord = true) (hhint : isHint (encodeWord i) = false)
    (hlane : laneGuarded (encodeWord i) = false) : ∃ gd, fGuard (encodeWord i) = guardBits gd ∧ ActsUnder i gd := by
  cases i
  case wrctl gd d k => exact ⟨gd, fGuard_packRRR _ _ _ _ _ _, actsUnder_wrctl gd d k⟩
  case rft | tinv | aspill | atag | wspill | wtag | keyld | saltld =>
    exact ⟨_, fGuard_packRRR _ _ _ _ _ _, .priv rfl fun _ => ⟨_, _, rfl⟩⟩
  case immx | rmode | cpol | order | etype => exact Bool.noConfusion ((isHint_packHint _ _).symm.trans hhint)
  case addImm | shlImm | shrN64Imm | shrI64Imm | rotlImm | andImm | orImm | xorImm | cmpImm | jalr | claim | vrelease =>
    exact ⟨_, fGuard_packRRI _ _ _ _ _, .scalar fun _ => ⟨_, rfl⟩⟩
  case li | lsi => exact ⟨_, fGuard_packRI _ _ _ _, .scalar fun _ => ⟨_, rfl⟩⟩
  case br | jal => exact ⟨_, fGuard_packBR _ _ _, .scalar fun _ => ⟨_, rfl⟩⟩
  case ldB | ldH | ldW | ldD | ldBS | ldHS | ldWS | stB | stH | stW | stD | ldAcq | stRel | ldff | ldfe | fet | stef | stxf
      | stxe =>
    exact ⟨_, fGuard_packMEM _ _ _ _ _ _, .scalar fun _ => ⟨_, rfl⟩⟩
  case vld | vlds | vldx | vst | vsts | vstx | vaddFp | vsubFp | vmulFp | vdiv | vminFp | vmaxFp | vsqrt | vabsFp | vfma | vaddInt
      | vsubInt | vmulInt | vmulh | vminInt | vmaxInt | vand | vor | vxor | vandn | vshl | vshr | vrotl | vabsInt | vadds | vsubs
      | vcmp | vcvt | vcvn | vrsum | vrmin | vrmax | vrand | vror | vrxor | vssum | vsmin | vsmax | vsand | vsor | vsxor | vbcast
      | vslideup | vslidedn | vperm | vmov | vins | vpack6 | vunp6 | vpack4 | vunp4 | vidx | vrcp | vrsqrt | vexp2 | vlog2
      | ardr | awrr | rndV | pdrop =>
    exact Bool.noConfusion ((laneGuarded_packRRR _ _ _ _ _ _).symm.trans hlane)
  all_goals cases hword <;> exact ⟨_, fGuard_packRRR _ _ _ _ _ _, .scalar fun _ => ⟨_, rfl⟩⟩

/-! ### Hints (R152 to R154, R172) -/

/-- The information word of a reason and a word, side by side (R172). -/
theorem illegalInfo_eq_ofNat {r : Nat} (hr : r < 2 ^ 32) (w : Code) : illegalInfo r w = BitVec.ofNat 64 (r * 2 ^ 32 + w.toNat) := by
  apply BitVec.eq_of_toNat_eq
  have hsum : r * 2 ^ 32 ||| w.toNat = r * 2 ^ 32 + w.toNat := by
    rw [← Nat.shiftLeft_eq, Nat.shiftLeft_add_eq_or_of_lt w.isLt]
  have hw := w.isLt
  rw [illegalInfo, BitVec.toNat_or, BitVec.toNat_setWidth_of_le (by decide), BitVec.toNat_ofNat, BitVec.toNat_ofNat,
    Nat.mod_eq_of_lt (by omega : r * 2 ^ 32 < 2 ^ 64), hsum, Nat.mod_eq_of_lt (by omega)]

/-- With no trap waiting, the trap raised is the one taken, and a slot the word was woken with is given up. -/
theorem State.raiseTrap_of_not_pending {s : State} {n : Nat} (h : (s.core n).pending = none) (cause : BitVec 8) (info pc : Word) :
    s.raiseTrap n cause info pc = (s.giveUp n).takeTrap n cause info pc := by rw [State.raiseTrap, h]; rfl

section
variable {hs : List Code} {w : Code}

/-- A first or second hint joins the chain (R154). -/
theorem decodeFetched_joins (hhint : isHint w = true) (hg : fGuard w = 0) (hlen : hs.length < 2) : decodeFetched hs w = .hint w := by
  rw [decodeFetched, if_pos hhint, if_neg (not_not.mpr hg), if_pos hlen]

/-- A third hint, all payloads legal, makes the chain illegal (R154, R172). -/
theorem decodeFetched_third (hhint : isHint w = true) (hg : fGuard w = 0) (hlen : 2 ≤ hs.length)
    (hpay : badPayload (hs ++ [w]) = none) : decodeFetched hs w = .illegal (illegalInfo 6 w) := by
  rw [decodeFetched, if_pos hhint, if_neg (not_not.mpr hg), if_neg (Nat.not_lt.mpr hlen), hpay]

/-- Issue of a hint that joins the chain. -/
theorem hintOp_joins {s : State} (h : decodeFetched s.me.hints w = .hint w) : hintOp w s = .next (s.regs fun c => c.pushHint w) := by
  rw [State.me] at h
  rw [hintOp, h]
  rfl

/-- Issue of a hint that makes the chain illegal takes trap 0x01 at the chain's first word. -/
theorem hintOp_illegal {s : State} {info : Word} (h : decodeFetched s.me.hints w = .illegal info) (hp : s.me.pending = none) :
    hintOp w s = .next ((s.giveUp s.cur).takeTrap s.cur 0x01 info (s.core s.cur).chainStart) := by
  rw [State.me] at h hp
  rw [hintOp, h]
  exact congrArg Host.Outcome.next (State.raiseTrap_of_not_pending hp _ _ _)

/-- The hint instructions issue the hint words of R153. -/
theorem exec_of_hintWord {p : BitVec 16} {i : Instr} (hi : i ∈ [.immx p, .rmode p, .cpol p, .order p, .etype p])
    (hw : hintWord i = some w) : ∃ k, w = packHint k p ∧ ∀ s, exec i s = hintOp (packHint k p) s := by
  have hpacked (k : BitVec 4) (h : some (BitVec.ofNat 32 (0x03F00000 + k.toNat * 2 ^ 16 + p.toNat)) = some w) :
      w = packHint k p := (Option.some.inj h).symm.trans (packHint_eq_ofNat k p).symm
  simp only [List.mem_cons, List.not_mem_nil, or_false] at hi
  rcases hi with rfl | rfl | rfl | rfl | rfl
  · exact ⟨0, hpacked 0 hw, fun _ => rfl⟩
  · exact ⟨1, hpacked 1 hw, fun _ => rfl⟩
  · exact ⟨2, hpacked 2 hw, fun _ => rfl⟩
  · exact ⟨3, hpacked 3 hw, fun _ => rfl⟩
  · exact ⟨4, hpacked 4 hw, fun _ => rfl⟩
end

/-! ### O7 -/

/-- Settles O7: an instruction guarded off does nothing under the guard of its word, and a hint is what `decodeFetched` finds in
its chain. -/
theorem guardsAndChains : Obligations.GuardsAndChains := by
  unfold Obligations.GuardsAndChains
  refine ⟨fun i gd s hword hhint hlane hgd hoff hsup => ?_, fun p i w s hi hw => ?_⟩
  · obtain ⟨gd', hbits, hacts⟩ := actsUnder_guard hword hhint hlane
    rw [hbits, decodeGuard_guardBits] at hgd
    cases hgd
    exact hacts.completes_off hoff hsup
  · obtain ⟨k, rfl, hexec⟩ := exec_of_hintWord hi hw
    have hhint := isHint_packHint k p
    have hguard := fGuard_packHint k p
    refine ⟨fun hlen => ?_, fun hlen hpay hpend => ?_⟩
    · rw [hexec, hintOp_joins (decodeFetched_joins hhint hguard hlen)]
      rfl
    · rw [Traps, hexec, hintOp_illegal (decodeFetched_third hhint hguard hlen hpay) hpend, illegalInfo_eq_ofNat (by decide)]

end Sys2Proof.Machine
end

section
/-!
The address checks of R188 that trap (spec/10_memory_sync_messages.md R56, R59, R188).
-/
namespace Sys2Proof.Machine
open Sys2Proof.Claims

/-! ### The checks that trap (R188) -/

section
variable {s : State} {n off z : Nat} {ea : Word}

/-- A plain access where no space lies. -/
theorem State.check_nowhere (hp : placeOf ea = none) (aligned r w : Bool) :
    s.check n .plain 0 ea z aligned r w = .no (.trap s 0x05 ea) := by
  simp [State.check, hp]

/-- A plain access to the bytes of the own plate that is not naturally aligned. -/
theorem State.check_misaligned (hp : placeOf ea = some (.plate n off)) (ho : off < 0x20000) (hz : off % z ≠ 0)
    (aligned r w : Bool) : s.check n .plain 0 ea z aligned r w = .no (.trap s 0x03 ea) := by
  have hring : ¬(0x20000 ≤ off ∧ off < 0x20400) := by omega
  have htile : ¬(0x21000 ≤ off ∧ off < 0x21200) := by omega
  simp [State.check, hp, hz, hring, htile]

/-- A plain access beyond everything that the own plate's window holds. -/
theorem State.check_unpopulated (hp : placeOf ea = some (.plate n off)) (ho : 0x21200 ≤ off) (hz : off % z = 0)
    (aligned r w : Bool) : s.check n .plain 0 ea z aligned r w = .no (.trap s 0x07 ea) := by
  have hbytes : ¬off < 0x20000 := by omega
  have hring : ¬(0x20000 ≤ off ∧ off < 0x20400) := by omega
  have htile : ¬(0x21000 ≤ off ∧ off < 0x21200) := by omega
  simp [State.check, hp, hz, hring, htile, plateOk, hbytes]
end

/-- A scalar load or store whose check fails takes the trap of the check (R188, R189). -/
theorem traps_of_check {i : Instr} {gd : Guard} {ea : Word} {z : Nat} {s : State} {cause : BitVec 8}
    (hform : (∃ d sg acq, loadForm s.me i = some (gd, d, ea, z, sg, acq)) ∨ (∃ d rel, storeForm s.me i = some (gd, d, ea, z, rel)))
    (hon : s.me.on gd = true) (hpend : s.me.pending = none)
    (hcheck : ∀ aligned r w, s.check s.cur .plain 0 ea z aligned r w = .no (.trap s cause ea)) : Traps i s cause ea := by
  rcases hform with ⟨d, sg, acq, hload⟩ | ⟨d, rel, hstore⟩
  · obtain ⟨-, aligned, hexec⟩ := exec_of_loadForm hload hon
    rw [Traps, hexec, State.load, hcheck, Act.finish_trap, State.raiseTrap_of_not_pending hpend]
  · obtain ⟨aligned, hexec⟩ := exec_of_storeForm hstore hon
    rw [Traps, hexec, State.store, hcheck, Act.finish_trap, State.raiseTrap_of_not_pending hpend]

/-- Settles O18: a load and a store make the one check of R188, which traps with the address in each of the three cases. -/
theorem addressChecksTrap : Obligations.AddressChecksTrap := by
  unfold Obligations.AddressChecksTrap
  intro i gd ea z s hform hon hpend hcur
  refine ⟨fun off hea ho hz => ?_, fun off hea ho htop hz => ?_, fun hp => ?_⟩ <;>
    refine traps_of_check hform hon hpend ?_
  · exact State.check_misaligned (hea ▸ placeOf_plateVa hcur (by omega)) ho hz
  · exact State.check_unpopulated (hea ▸ placeOf_plateVa hcur htop) ho hz
  · exact State.check_nowhere hp

end Sys2Proof.Machine
end

section
/-!
Agents starting and stopping (spec/12_matrix_copy_jobs.md R243; spec/03_memory_spaces.md R67): what a free handle is, what the start
and the stop of an agent change, and what they leave alone.
-/
namespace Sys2Proof.Machine
open Sys2Proof.Claims

/-! ### Tile entries and free handles -/

section
variable {c : Core}

/-- A tile entry after one has been replaced (R65). -/
theorem Core.tile_setTile (t k : Nat) (x : Tile) : (c.setTile t x).tile k = if k = t ∧ t < 32 then x else c.tile k := by
  have hget : ∀ (v : Vector Tile 32) (d : Tile), v.getD k d = v[k]?.getD d := fun v d => by
    simp [Vector.getD, Array.getD_eq_getD_getElem?]
  rw [Core.tile, Core.tile, Core.setTile, hget, hget, Vector.getElem?_setIfInBounds]
  by_cases ht : t = k
  · subst ht
    by_cases hk : t < 32 <;> simp [hk]
  · simp [ht, Ne.symm ht]

@[simp] theorem Core.tile_setTile_same {t : Nat} (ht : t < 32) (x : Tile) : (c.setTile t x).tile t = x := by
  simp [Core.tile_setTile, ht]

theorem Core.tile_setTile_ne {t k : Nat} (h : k ≠ t) (x : Tile) : (c.setTile t x).tile k = c.tile k := by
  simp [Core.tile_setTile, h]

/-- The tile a descriptor names is one of the 32 (R65, R243). -/
theorem ADesc.tile_lt (w : List Word) : ADesc.tile w < 32 := Nat.mod_lt _ (by decide)

/-- The handle given is free, and every lower one of its kind is in use (R243). -/
theorem Core.freeHandle_some {first h : Nat} (hfree : c.freeHandle first = some h) :
    first ≤ h ∧ h < first + 8 ∧ Store.find h c.agents = none ∧
      ∀ k, first ≤ k → k < h → (Store.find k c.agents).isSome = true := by
  rw [Core.freeHandle, ← List.range'_eq_map_range, List.find?_range'_eq_some] at hfree
  obtain ⟨hnone, hmem, hlower⟩ := hfree
  obtain ⟨hle, hlt⟩ := List.mem_range'_1.1 hmem
  refine ⟨hle, hlt, Option.isNone_iff_eq_none.1 hnone, fun k hk hkh => ?_⟩
  simpa using hlower k hk hkh
end

/-! ### Starting an agent (R243) -/

section
variable {s : State} {n h : Nat} {rack : Bool} {w : List Word}

/-- A descriptor that passes the checks takes the lowest free handle of its kind (R243). -/
theorem State.freeHandle_of_agentCard (hcard : s.agentCard n rack w = .ok h) :
    (s.core n).freeHandle (if rack then 0x81 else 1) = some h := by
  unfold State.agentCard at hcard
  extract_lets at hcard
  split at hcard
  · repeat' split at hcard
    all_goals cases hcard
  · rename_i k hk
    repeat' split at hcard
    all_goals cases hcard
    exact hk

/-- The agent as it starts. -/
def Agent.started (w : List Word) (o : Nat) : Agent :=
  { desc := w, state := .running, elem := 0, count := 0, buf := [], written := 0, ack := 0
    reread := ADesc.wrap w, faulted := false, owner := o, tlb := [] }

/-- The tiles of a core as the agent with handle `h` starts. -/
def Core.claimTile (c : Core) (w : List Word) (h : Nat) : Core :=
  if ADesc.tiled w then c.setTile (ADesc.tile w) { c.tile (ADesc.tile w) with agent := BitVec.ofNat 8 h } else c

/-- A register is written beside the slots and the tiles. -/
theorem Core.setS_slots (c : Core) (d : BitVec 5) (v : Word) (l : Store Agent) (t : Vector Tile 32) :
    ({ c with agents := l, tiles := t } : Core).setS d v = { c.setS d v with agents := l, tiles := t } := by
  unfold Core.setS
  split
  · rfl
  · split <;> rfl

/-- The start of an agent changes its slot, its tile and s[d] (R243). -/
theorem State.startAgent_eq (d : BitVec 5) : s.startAgent n d w h = s.updCore n fun c =>
    { c.setS d (BitVec.ofNat 64 h) with
      agents := Store.put h (Agent.started w c.own) c.agents, tiles := (c.claimTile w h).tiles } := by
  refine State.updCore_congr (Eq.trans ?_ (Core.setS_slots (s.core n) d _ _ _))
  unfold Core.claimTile
  cases ADesc.tiled w <;> rfl

/-- The tile of a tile kind takes the handle; no other tile changes (R65, R243). -/
theorem Core.claimTile_tile (c : Core) (k : Nat) : (c.claimTile w h).tile k =
    if ADesc.tiled w = true ∧ k = ADesc.tile w then { c.tile k with agent := BitVec.ofNat 8 h } else c.tile k := by
  unfold Core.claimTile
  cases ADesc.tiled w with
  | false => simp
  | true =>
    by_cases hk : k = ADesc.tile w
    · subst hk; simp [ADesc.tile_lt]
    · simp [Core.tile_setTile_ne hk, hk]
end

/-- `subs` and `rack` with a descriptor in the own plate that passes the checks (R234, R243). -/
theorem agentInstr_starts {gd : Guard} {s : State} {rack : Bool} {d a : BitVec 5} {off h : Nat} (hon : (s.core s.cur).on gd = true)
    (hblock : ownBlock s.cur ((s.core s.cur).s a) 192 = .ok off) (hready : s.rcReady s.cur = true)
    (hcard : s.agentCard s.cur rack ((s.core s.cur).plateWords off 24) = .ok h) :
    agentInstr gd s rack d a = .next ((s.startAgent s.cur d ((s.core s.cur).plateWords off 24) h).nextWord s.cur) := by
  rw [agentInstr, scalarOp_on hon]
  simp only [hblock, hcard, hready, if_true]
  rfl

/-- `subs` and `rack` with a descriptor that fails a check (R234, R243). -/
theorem agentInstr_traps {gd : Guard} {s : State} {rack : Bool} {d a : BitVec 5} {off cause : Nat} (hon : (s.core s.cur).on gd = true)
    (hblock : ownBlock s.cur ((s.core s.cur).s a) 192 = .ok off) (hpend : (s.core s.cur).pending = none)
    (hcard : s.agentCard s.cur rack ((s.core s.cur).plateWords off 24) = .error cause) :
    agentInstr gd s rack d a = .next ((s.giveUp s.cur).takeTrap s.cur 0x0E (BitVec.ofNat 64 cause) (s.core s.cur).chainStart) := by
  rw [agentInstr, scalarOp_on hon]
  simp only [hblock, hcard, Act.finish_trap, State.raiseTrap_of_not_pending hpend]

/-- A start in the lowest free slot, with what it changes and leaves alone (R243). -/
theorem starts_of_agentCard {i : Instr} {s : State} {rack : Bool} {d : BitVec 5} {w : List Word} {h first : Nat}
    (hfirst : first = if rack then 0x81 else 1) (hcard : s.agentCard s.cur rack w = .ok h)
    (hexec : Completes i s (s.startAgent s.cur d w h)) :
    first ≤ h ∧ h < first + 8 ∧ Store.find h s.me.agents = none ∧
      (∀ k, first ≤ k → k < h → (Store.find k s.me.agents).isSome = true) ∧
      ∃ t x, Completes i s t ∧ Store.find h t.me.agents = some x ∧
        x.desc = w ∧ x.state = .running ∧ x.elem = 0 ∧ x.count = 0 ∧ x.owner = s.me.own ∧
        (∀ k, k ≠ h → Store.find k t.me.agents = Store.find k s.me.agents) ∧
        (ADesc.tiled w = true → (t.me.tile (ADesc.tile w)).agent.toNat = h) ∧
        (∀ k, (ADesc.tiled w = false ∨ k ≠ ADesc.tile w) → t.me.tile k = s.me.tile k) ∧
        t.me.s d = (if d = 0 then 0 else BitVec.ofNat 64 h) ∧ (∀ r, r ≠ d → t.me.s r = s.me.s r) ∧
        t.me.plate = s.me.plate ∧ t.me.rings = s.me.rings ∧ t.memB = s.memB ∧ t.memC = s.memC := by
  obtain ⟨hle, hlt, hfree, hlower⟩ := Core.freeHandle_some (State.freeHandle_of_agentCard hcard)
  rw [← hfirst] at hle hlt hlower
  have h256 : h < 256 := by
    have : first ≤ 0x81 := by rw [hfirst]; split <;> decide
    omega
  refine ⟨hle, hlt, hfree, hlower, _, Agent.started w s.me.own, hexec, ?_⟩
  have hme : (s.startAgent s.cur d w h).me = { s.me.setS d (BitVec.ofNat 64 h) with
      agents := Store.put h (Agent.started w s.me.own) s.me.agents, tiles := (s.me.claimTile w h).tiles } := by
    rw [State.startAgent_eq]; exact State.core_updCore_same ..
  have htile : ∀ k, (s.startAgent s.cur d w h).me.tile k = (s.me.claimTile w h).tile k := by
    intro k; rw [hme]; rfl
  have hs : ∀ r, (s.startAgent s.cur d w h).me.s r = (s.me.setS d (BitVec.ofNat 64 h)).s r := by
    intro r; rw [hme]; rfl
  simp only [htile, hs, Core.claimTile_tile]
  refine ⟨by simp [hme], rfl, rfl, rfl, rfl, rfl, fun k hk => by simp [hme, Store.find_put_ne hk], fun ht => ?_, fun k hk => ?_,
    ?_, fun r hr => Core.s_setS_ne hr _, by simp [hme], by simp [hme], rfl, rfl⟩
  · simp [ht, Nat.mod_eq_of_lt h256]
  · rw [if_neg (by rcases hk with hk | hk <;> simp [hk])]
  · split
    · rename_i hd; subst hd; exact Core.s_zero _
    · rename_i hd; exact Core.s_setS_same hd _

/-! ### What a release of a tile does (R67) -/

/-- The end of a fill or drain: the tile becomes empty, and a fill leaves its bytes undefined (R67). -/
theorem Core.tileRelease_busy {c : Core} {t : Nat} (hbusy : (c.tile t).state = .filling ∨ (c.tile t).state = .draining) (fly : Bool) :
    ∃ p sp fl, c.tileRelease t fly =
      .ok { c.setTile t { c.tile t with state := .empty, prog := p } with spoilt := sp, flights := fl }
        (decide ((c.tile t).state = .filling)) := by
  rcases hbusy with hfill | hdrain
  · exact ⟨_, _, _, by simp only [Core.tileRelease, hfill]; rfl⟩
  · exact ⟨_, _, _, by simp only [Core.tileRelease, hdrain]; rfl⟩

/-- Several writes of a plate change nothing but its bytes. -/
theorem Core.foldl_plateWrite_eq {α : Type} {w : Nat} (a : α → Nat) (k : Nat) (v : α → BitVec w) (l : List α) (c : Core) :
    ∃ p, l.foldl (fun c x => c.plateWrite (a x) k (v x)) c = { c with plate := p } := by
  induction l generalizing c with
  | nil => exact ⟨c.plate, rfl⟩
  | cons x l ih =>
    obtain ⟨p, hp⟩ := ih (c.plateWrite (a x) k (v x))
    exact ⟨p, hp⟩

/-- Undefined bytes change a plate and the count of free values (R65, R67). -/
theorem State.spoilBytes_eq (s : State) (n a len : Nat) :
    ∃ p k, s.spoilBytes n a len = { s.updCore n fun c => { c with plate := p } with freeCtr := k } := by
  obtain ⟨p, hp⟩ := Core.foldl_plateWrite_eq (fun i => a + i) 1 (fun i => Config.freeByte (s.freeCtr + i)) (List.range len) (s.core n)
  refine ⟨p, s.freeCtr + len, ?_⟩
  rw [State.spoilBytes, State.updCore, hp]
  rfl

/-- The count of free values is no core's. -/
theorem State.core_freeCtr (s : State) (k n : Nat) : ({ s with freeCtr := k } : State).core n = s.core n := rfl

/-- A tile-table store replaces the core, with other bytes in its plate where the tile's become undefined (R65). -/
theorem State.applyTile_eq (s : State) (n t : Nat) (c : Core) (spoil : Bool) :
    ∃ pl k, s.applyTile n t c spoil = { s.updCore n fun _ => { c with plate := pl } with freeCtr := k } ∧
      (spoil = false → pl = c.plate) := by
  cases spoil with
  | false => exact ⟨c.plate, s.freeCtr, rfl, fun _ => rfl⟩
  | true =>
    obtain ⟨pl, k, h⟩ := State.spoilBytes_eq (s.updCore n fun _ => c) n (c.tile t).start (c.tile t).bytes
    refine ⟨pl, k, ?_, fun h => nomatch h⟩
    rw [State.updCore_updCore] at h
    exact h

/-- An agent leaves its tile. -/
def State.leaveTile (s : State) (n h : Nat) (a : Agent) : State :=
  let t := ADesc.tile a.desc
  let x := (s.core n).tile t
  if ADesc.tiled a.desc && x.agent.toNat == h && (x.state == .filling || x.state == .draining) then
    match (s.core n).tileRelease t (Config.unitInFlight s.moves) with
    | .ok c spoil => s.applyTile n t c spoil
    | .trap .. => s
  else s

/-- The agent with handle `h` holds its tile. -/
def State.holdsTile (s : State) (n h : Nat) (a : Agent) : Bool :=
  ADesc.tiled a.desc && ((s.core n).tile (ADesc.tile a.desc)).agent.toNat == h

/-- The AGENT of a tile becomes 0, where `mine` says so. -/
def Core.freeTile (c : Core) (t : Nat) (mine : Bool) : Core := if mine then c.setTile t { c.tile t with agent := 0 } else c

@[simp] theorem Core.freeTile_agents (c : Core) (t : Nat) (m : Bool) : (c.freeTile t m).agents = c.agents := by cases m <;> rfl
@[simp] theorem Core.freeTile_plate (c : Core) (t : Nat) (m : Bool) : (c.freeTile t m).plate = c.plate := by cases m <;> rfl
@[simp] theorem Core.freeTile_sregs (c : Core) (t : Nat) (m : Bool) : (c.freeTile t m).sregs = c.sregs := by cases m <;> rfl
@[simp] theorem Core.freeTile_rings (c : Core) (t : Nat) (m : Bool) : (c.freeTile t m).rings = c.rings := by cases m <;> rfl
theorem Core.freeTile_tile (c : Core) {t : Nat} (ht : t < 32) : (c.freeTile t true).tile t = { c.tile t with agent := 0 } :=
  Core.tile_setTile_same ht _

/-- A stop leaves the tile, gives up the slot at a port, and frees the agent's slot and its tile's AGENT (R243). -/
theorem State.stopAgent_eq (s : State) (n h : Nat) (a : Agent) : s.stopAgent n h a =
    ((s.leaveTile n h a).unwait (agentRequester n h)).updCore n fun c =>
      ({ c with agents := Store.del h c.agents } : Core).freeTile (ADesc.tile a.desc) (s.holdsTile n h a) := by
  unfold State.stopAgent
  extract_lets t x mine u
  rw [show s.leaveTile n h a = u from rfl]
  rfl

/-- Requests that leave a plate port give back slots, and change nothing else of its core. -/
theorem Core.leavePort_eq (c : Core) (p : PortWait → Bool) :
    ∃ r q, c.leavePort p = { c with reserved := r, portWait := q } := by
  have hfold : ∀ (l : List PortWait) (c : Core), ∃ r,
      l.foldl (fun c q => c.setResv q.ring (c.resv q.ring - 1)) c = { c with reserved := r } := by
    intro l
    induction l with
    | nil => exact fun c => ⟨c.reserved, rfl⟩
    | cons q l ih =>
      intro c
      obtain ⟨r, hr⟩ := ih (c.setResv q.ring (c.resv q.ring - 1))
      exact ⟨r, hr⟩
  obtain ⟨r, hr⟩ := hfold (c.portWait.filter fun q => p q && q.granted) c
  exact ⟨r, _, by rw [Core.leavePort, hr]⟩

/-- What giving up a slot at a port leaves of each core (R32). -/
theorem State.core_unwait (s : State) (who n : Nat) :
    ∃ r q, (s.unwait who).core n = { s.core n with reserved := r, portWait := q } := by
  unfold State.unwait
  split
  · rcases Store.get_map (fun _ c => Core.leavePort c fun q => q.issuer == who && q.tag == 0) Core.reset n s.cores with h | h
    · exact ⟨_, _, h⟩
    · obtain ⟨r, q, hr⟩ := (s.core n).leavePort_eq fun q => q.issuer == who && q.tag == 0
      exact ⟨r, q, h.trans hr⟩
  · exact ⟨_, _, rfl⟩
/-- A tile that its agent neither fills nor drains stays as it is. -/
theorem State.leaveTile_idle {s : State} {n h : Nat} {a : Agent} (hidle : s.holdsTile n h a = true →
      ((s.core n).tile (ADesc.tile a.desc)).state ≠ .filling ∧ ((s.core n).tile (ADesc.tile a.desc)).state ≠ .draining) :
    s.leaveTile n h a = s := by
  refine if_neg fun hbusy => ?_
  obtain ⟨hmine, hbusy⟩ := Bool.and_eq_true_iff.1 hbusy
  obtain ⟨hfill, hdrain⟩ := hidle hmine
  simp [hfill, hdrain] at hbusy

/-- A tile that its agent fills or drains becomes empty, and a fill leaves its bytes undefined (R67). -/
theorem State.leaveTile_busy {s : State} {n h : Nat} {a : Agent} (hmine : s.holdsTile n h a = true)
    (hbusy : ((s.core n).tile (ADesc.tile a.desc)).state = .filling ∨ ((s.core n).tile (ADesc.tile a.desc)).state = .draining) :
    ∃ p sp fl pl k, s.leaveTile n h a = { s.updCore n fun c =>
        { c.setTile (ADesc.tile a.desc) { c.tile (ADesc.tile a.desc) with state := .empty, prog := p } with
          spoilt := sp, flights := fl, plate := pl } with freeCtr := k } ∧
      (((s.core n).tile (ADesc.tile a.desc)).state ≠ .filling → pl = (s.core n).plate) := by
  obtain ⟨p, sp, fl, hrel⟩ := Core.tileRelease_busy hbusy (Config.unitInFlight s.moves)
  have hleave : s.leaveTile n h a = s.applyTile n (ADesc.tile a.desc)
      { (s.core n).setTile (ADesc.tile a.desc) { (s.core n).tile (ADesc.tile a.desc) with state := .empty, prog := p } with
        spoilt := sp, flights := fl } (decide (((s.core n).tile (ADesc.tile a.desc)).state = .filling)) := by
    refine (if_pos (Bool.and_eq_true_iff.2 ⟨hmine, by simpa using hbusy⟩)).trans ?_
    rw [hrel]
  obtain ⟨pl, k, happly, hplate⟩ := s.applyTile_eq n (ADesc.tile a.desc)
    { (s.core n).setTile (ADesc.tile a.desc) { (s.core n).tile (ADesc.tile a.desc) with state := .empty, prog := p } with
      spoilt := sp, flights := fl } (decide (((s.core n).tile (ADesc.tile a.desc)).state = .filling))
  exact ⟨p, sp, fl, pl, k, hleave.trans happly, fun hfill => hplate (decide_eq_false hfill)⟩

/-- What leaving its tile leaves of an agent's core, and of the tile (R67). -/
theorem State.core_leaveTile (s : State) (n h : Nat) (a : Agent) : ∃ tl sp fl pl,
    (s.leaveTile n h a).core n = { s.core n with tiles := tl, spoilt := sp, flights := fl, plate := pl } ∧
    (s.holdsTile n h a = true → ((s.leaveTile n h a).core n).tile (ADesc.tile a.desc) = { (s.core n).tile (ADesc.tile a.desc) with
      state := if ((s.core n).tile (ADesc.tile a.desc)).state = .filling ∨ ((s.core n).tile (ADesc.tile a.desc)).state = .draining
        then .empty else ((s.core n).tile (ADesc.tile a.desc)).state
      prog := (((s.leaveTile n h a).core n).tile (ADesc.tile a.desc)).prog }) ∧
    (s.holdsTile n h a = false ∨ ((s.core n).tile (ADesc.tile a.desc)).state ≠ .filling → pl = (s.core n).plate) := by
  by_cases hbusy : s.holdsTile n h a = true ∧
      (((s.core n).tile (ADesc.tile a.desc)).state = .filling ∨ ((s.core n).tile (ADesc.tile a.desc)).state = .draining)
  · obtain ⟨hmine, hbusy⟩ := hbusy
    obtain ⟨p, sp, fl, pl, k, hleave, hplate⟩ := State.leaveTile_busy hmine hbusy
    have hcore : (s.leaveTile n h a).core n = { (s.core n).setTile (ADesc.tile a.desc)
        { (s.core n).tile (ADesc.tile a.desc) with state := .empty, prog := p } with spoilt := sp, flights := fl, plate := pl } := by
      rw [hleave, State.core_freeCtr, State.core_updCore_same]
    refine ⟨_, sp, fl, pl, hcore, fun _ => ?_, fun h => hplate (h.resolve_left (by simp [hmine]))⟩
    have htile : ((s.leaveTile n h a).core n).tile (ADesc.tile a.desc) =
        { (s.core n).tile (ADesc.tile a.desc) with state := .empty, prog := p } := by
      rw [hcore]; exact Core.tile_setTile_same (ADesc.tile_lt _) _
    rw [htile, if_pos hbusy]
  · have hidle := not_and.1 hbusy
    have hleave : s.leaveTile n h a = s := State.leaveTile_idle fun hmine => not_or.1 (hidle hmine)
    refine ⟨_, _, _, _, by rw [hleave], fun hmine => ?_, fun _ => rfl⟩
    rw [hleave, if_neg (hidle hmine)]

/-- Leaving a tile changes no main memory, and not which core issues. -/
theorem State.leaveTile_frame (s : State) (n h : Nat) (a : Agent) :
    (s.leaveTile n h a).cur = s.cur ∧ (s.leaveTile n h a).memB = s.memB ∧ (s.leaveTile n h a).memC = s.memC := by
  unfold State.leaveTile
  dsimp only
  split
  · split
    · rename_i c spoil _
      obtain ⟨pl, k, happly, -⟩ := s.applyTile_eq n (ADesc.tile a.desc) c spoil
      rw [happly]
      exact ⟨rfl, rfl, rfl⟩
    · exact ⟨rfl, rfl, rfl⟩
  · exact ⟨rfl, rfl, rfl⟩

/-- A stop, with what it changes and leaves alone (R67, R243). -/
theorem stops_of_exec {i : Instr} {s : State} {h : Nat} {a : Agent} (hexec : Completes i s (s.stopAgent s.cur h a)) :
    ∃ t, Completes i s t ∧ Store.find h t.me.agents = none ∧
      (∀ q, q ≠ h → Store.find q t.me.agents = Store.find q s.me.agents) ∧
      (ADesc.tiled a.desc = true → (s.me.tile (ADesc.tile a.desc)).agent.toNat = h →
        (t.me.tile (ADesc.tile a.desc)).agent = 0 ∧
        (t.me.tile (ADesc.tile a.desc)).state =
          if (s.me.tile (ADesc.tile a.desc)).state = .filling ∨ (s.me.tile (ADesc.tile a.desc)).state = .draining then .empty
          else (s.me.tile (ADesc.tile a.desc)).state) ∧
      (ADesc.tiled a.desc = false ∨ (s.me.tile (ADesc.tile a.desc)).agent.toNat ≠ h ∨
          (s.me.tile (ADesc.tile a.desc)).state ≠ .filling → t.me.plate = s.me.plate) ∧
      t.me.sregs = s.me.sregs ∧ t.me.rings = s.me.rings ∧ t.memB = s.memB ∧ t.memC = s.memC := by
  obtain ⟨tl, sp, fl, pl, hleave, htile, hplate⟩ := s.core_leaveTile s.cur h a
  obtain ⟨r, q, hunwait⟩ := (s.leaveTile s.cur h a).core_unwait (agentRequester s.cur h) s.cur
  obtain ⟨l, hcores⟩ := (s.leaveTile s.cur h a).unwait_eq (agentRequester s.cur h)
  obtain ⟨hcur, hmemB, hmemC⟩ := s.leaveTile_frame s.cur h a
  have hme : (s.stopAgent s.cur h a).me = ({ (s.leaveTile s.cur h a).core s.cur with
      reserved := r, portWait := q, agents := Store.del h s.me.agents } : Core).freeTile (ADesc.tile a.desc)
        (s.holdsTile s.cur h a) := by
    have hstop : (s.stopAgent s.cur h a).cur = s.cur := by rw [State.stopAgent_eq, hcores]; exact hcur
    rw [State.me, hstop, State.stopAgent_eq, State.core_updCore_same, hunwait, hleave]
    rfl
  refine ⟨_, hexec, by simp [hme], fun k hk => by simp [hme, Store.find_del_ne hk], fun htiled hagent => ?_, fun hidle => ?_, ?_, ?_,
    ?_, ?_⟩
  · have hmine : s.holdsTile s.cur h a = true := by simp [State.holdsTile, htiled, ← hagent, State.me]
    rw [hme, hmine, Core.freeTile_tile _ (ADesc.tile_lt _)]
    exact ⟨rfl, congrArg Tile.state (htile hmine)⟩
  · have hplate' := hplate (by
      rcases hidle with htiled | hagent | hfill
      · exact .inl (by simp [State.holdsTile, htiled])
      · exact .inl (by simpa [State.holdsTile, State.me] using fun _ => hagent)
      · exact .inr hfill)
    rw [hme, Core.freeTile_plate, hleave]
    exact hplate'
  · rw [hme, Core.freeTile_sregs, hleave]; rfl
  · rw [hme, Core.freeTile_rings, hleave]; rfl
  · rw [State.stopAgent_eq, State.updCore_memB, hcores]; exact hmemB
  · rw [State.stopAgent_eq, State.updCore_memC, hcores]; exact hmemC

/-! ### O37 -/

/-- A ring names the rack as its link (R243, R275). -/
theorem any_linked_iff {c : Core} {h : Nat} : (c.rings.toList.any fun r => r.lv && r.lr && r.lrack.toNat == h) = true ↔
    ∃ r ∈ c.rings.toList, r.lv = true ∧ r.lr = true ∧ r.lrack.toNat = h := by
  simp only [List.any_eq_true, Bool.and_eq_true, beq_iff_eq, and_assoc]

/-! ### `unsubs` and `unrack` (R243) -/

theorem exec_unsubs (gd : Guard) (a : BitVec 5) (s : State) : exec (.unsubs gd a) s = execUnsubs gd a s := rfl
theorem exec_unrack (gd : Guard) (a : BitVec 5) (s : State) : exec (.unrack gd a) s = execUnrack gd a s := rfl

section
variable {gd : Guard} {a : BitVec 5} {s : State} {x : Agent} (hon : s.me.on gd = true)
include hon

/-- `unsubs` of a steep's handle (R243). -/
theorem completes_unsubs (hsteep : 1 ≤ (s.me.s a).toNat ∧ (s.me.s a).toNat ≤ 8)
    (hfind : Store.find (s.me.s a).toNat s.me.agents = some x) :
    Completes (.unsubs gd a) s (s.stopAgent s.cur (s.me.s a).toNat x) := by
  simp only [State.me] at hsteep hfind
  rw [Completes, exec_unsubs, execUnsubs, scalarOp_on hon]
  simp only [if_pos hsteep, hfind]
  rfl

/-- `unsubs` of a handle that is no steep's, or not in use (R243). -/
theorem traps_unsubs (hpend : s.me.pending = none)
    (hnone : ¬(1 ≤ (s.me.s a).toNat ∧ (s.me.s a).toNat ≤ 8) ∨ Store.find (s.me.s a).toNat s.me.agents = none) :
    Traps (.unsubs gd a) s 0x05 (s.me.s a) := by
  simp only [State.me] at hnone hpend
  rw [Traps, exec_unsubs, execUnsubs, scalarOp_on hon]
  rcases hnone with hout | hfind
  · simp only [if_neg hout, Act.finish_trap, State.raiseTrap_of_not_pending hpend]; rfl
  · simp only [hfind, ite_self, Act.finish_trap, State.raiseTrap_of_not_pending hpend]; rfl

/-- `unrack` of a rack's handle that no ring names, once the records accepted are written (R243). -/
theorem completes_unrack (hrack : 0x81 ≤ (s.me.s a).toNat ∧ (s.me.s a).toNat ≤ 0x88)
    (hfind : Store.find (s.me.s a).toNat s.me.agents = some x)
    (hlink : ¬∃ r ∈ s.me.rings.toList, r.lv = true ∧ r.lr = true ∧ r.lrack.toNat = (s.me.s a).toNat)
    (hbuf : x.state = .running → x.buf = []) :
    Completes (.unrack gd a) s (s.stopAgent s.cur (s.me.s a).toNat x) := by
  rw [← any_linked_iff] at hlink
  simp only [State.me] at hrack hfind hlink
  have hwritten : (x.state == .running && !x.buf.isEmpty) = false := by
    by_cases hrun : x.state = .running
    · simp [hbuf hrun]
    · simp [hrun]
  rw [Completes, exec_unrack, execUnrack, scalarOp_on hon]
  simp only [if_pos hrack, hfind, if_neg hlink, hwritten]
  rfl

/-- `unrack` of a rack that a ring names as its link (R243). -/
theorem traps_unrack_linked (hrack : 0x81 ≤ (s.me.s a).toNat ∧ (s.me.s a).toNat ≤ 0x88)
    (hfind : Store.find (s.me.s a).toNat s.me.agents = some x)
    (hlink : ∃ r ∈ s.me.rings.toList, r.lv = true ∧ r.lr = true ∧ r.lrack.toNat = (s.me.s a).toNat)
    (hpend : s.me.pending = none) : Traps (.unrack gd a) s 0x0E 0x0B := by
  rw [← any_linked_iff] at hlink
  simp only [State.me] at hrack hfind hlink hpend
  rw [Traps, exec_unrack, execUnrack, scalarOp_on hon]
  simp only [if_pos hrack, hfind, if_pos hlink, Act.finish_trap, State.raiseTrap_of_not_pending hpend]

/-- `unrack` of a handle that is no rack's, or not in use (R243). -/
theorem traps_unrack (hpend : s.me.pending = none)
    (hnone : ¬(0x81 ≤ (s.me.s a).toNat ∧ (s.me.s a).toNat ≤ 0x88) ∨ Store.find (s.me.s a).toNat s.me.agents = none) :
    Traps (.unrack gd a) s 0x05 (s.me.s a) := by
  simp only [State.me] at hnone hpend
  rw [Traps, exec_unrack, execUnrack, scalarOp_on hon]
  rcases hnone with hout | hfind
  · simp only [if_neg hout, Act.finish_trap, State.raiseTrap_of_not_pending hpend]; rfl
  · simp only [hfind, ite_self, Act.finish_trap, State.raiseTrap_of_not_pending hpend]; rfl
end

/-! ### O37 -/

/-- Settles O37: a start takes the lowest free handle and its tile; a stop frees them as a release does. -/
theorem agentsStartAndStop : Obligations.AgentsStartAndStop := by
  unfold Obligations.AgentsStartAndStop
  refine ⟨fun gd d a off h s hon hblock hready => ⟨fun hcard => ?_, fun hcard => ?_, fun cause hpend => ⟨fun hcard => ?_, fun hcard => ?_⟩⟩,
    fun gd a s hon => ⟨fun x hfind => ⟨fun hlo hhi => ?_, fun hlo hhi hlink hbuf => ?_, fun hlo hhi hlink hpend => ?_⟩,
      fun hpend => ⟨traps_unsubs hon hpend, traps_unrack hon hpend⟩⟩⟩
  · exact starts_of_agentCard rfl hcard (agentInstr_starts hon hblock hready hcard)
  · exact starts_of_agentCard rfl hcard (agentInstr_starts hon hblock hready hcard)
  · exact agentInstr_traps hon hblock hpend hcard
  · exact agentInstr_traps hon hblock hpend hcard
  · exact stops_of_exec (completes_unsubs hon ⟨hlo, hhi⟩ hfind)
  · exact stops_of_exec (completes_unrack hon ⟨hlo, hhi⟩ hfind hlink hbuf)
  · exact traps_unrack_linked hon ⟨hlo, hhi⟩ hfind hlink hpend

end Sys2Proof.Machine
end

section
/-!
A steep whose target ring is the inbox (spec/12_matrix_copy_jobs.md R244; spec/02_execution_model.md R31;
spec/07_pipelines_splices.md R147): the port takes its request for one of a core, which follows the messages that the core's ring engine still has to send, and
gives it no slot while one waits.
-/
namespace Sys2Proof.Machine
open Sys2Proof.Claims

/-! ### A request that follows a message of a ring engine -/

section
variable {s : State} {t j o who : Nat}

/-- A port whose queue holds nothing lets a request in that its slots and the limiter admit (R124, R324). -/
theorem State.portAdmits_of_portIdle (hidle : portIdle s o t) : s.portAdmits t o = true := by
  obtain ⟨⟨hpaused, hchanging⟩, hwait, hreq, hlimit⟩ := hidle
  simp only [State.portRequests, List.append_eq_nil_iff, List.map_eq_nil_iff] at hreq
  obtain ⟨⟨-, hqueued⟩, hcrossed⟩ := hreq
  have hheld : s.entryOwners 9 t = [] := by simp [State.entryOwners, hqueued, hcrossed, hwait]
  simp [State.portAdmits, hpaused, hchanging, hlimit, hheld, mayQueue, reservedEntries]

/-- The plate port of core `t` as a request enters its empty queue. -/
theorem State.portWait_enterPort (hwait : (s.core t).portWait = []) (tag : Nat) :
    (s.enterPort t j o who tag).core t = { s.core t with portWait := [⟨o, who, j, false, true, tag⟩] } := by
  have hdebit : (s.debit o 9 t).core t = s.core t := by unfold State.debit; split <;> rfl
  rw [State.enterPort, State.core_updCore_same, hdebit, hwait]
  rfl

/-- A request for an inbox slot draws none while a message of a ring engine of its requester's number is still to enter (R31,
R147). -/
theorem State.passPort_follows (hidle : portIdle s o t) (hroom : (s.core t).hasRoom 0 = true) (hdev : s.devBefore who t = true) :
    ∃ u, s.passPort t 0 o who 0 = some (false, u) ∧ (u.core t).rings = (s.core t).rings := by
  have hadmits := State.portAdmits_of_portIdle hidle
  obtain ⟨-, hwait, -, -⟩ := hidle
  have henter := State.portWait_enterPort (j := 0) (o := o) (who := who) hwait 0
  have hdev' : (s.enterPort t 0 o who 0).devBefore who t = true := by
    have hmsgs : (s.enterPort t 0 o who 0).devMsgs = s.devMsgs := by unfold State.enterPort State.debit; split <;> rfl
    rw [State.devBefore, hmsgs]; exact hdev
  have hdraw : ∀ k, State.drawPort t who 0 0 k (s.enterPort t 0 o who 0) = s.enterPort t 0 o who 0 := by
    intro k
    cases k with
    | zero => rfl
    | succ k => exact if_pos (by simp [henter, State.portReady, hdev'])
  refine ⟨(s.enterPort t 0 o who 0).waitPort t 0 o who 0, ?_, ?_⟩
  · simp [State.passPort, State.winPort, hwait, hroom, hadmits, hdraw, henter, PortWait.is]
  · simp [State.waitPort, henter, PortWait.is]
end

/-- A steep that targets an inbox appends no record while a message of a ring engine of its number is still to enter there. -/
theorem State.steepAppend_follows {s : State} {n h : Nat} {a : Agent} (hmoves : moving s n h 1 a) (hring : ADesc.ring a.desc = 0)
    (htarget : s.targetOk n (ADesc.tcore a.desc) = true) (hroom : (s.core (ADesc.tcore a.desc)).hasRoom 0 = true)
    (hidle : portIdle s a.owner (ADesc.tcore a.desc)) (hdev : s.devBefore (agentRequester n h) (ADesc.tcore a.desc) = true) :
    ∃ u, s.steepAppend n h = some u ∧ (u.core (ADesc.tcore a.desc)).ring 0 = (s.core (ADesc.tcore a.desc)).ring 0 := by
  obtain ⟨hfind, hrun, hfault, hkind, hctx, hstop⟩ := hmoves
  have hagent : s.agentAt n h 1 = some a := by simp [State.agentAt, hfind, hrun, hfault, hkind, hctx, hstop]
  have hsize : ((s.core (ADesc.tcore a.desc)).ring 0).log2n ≠ 0 := by
    intro hzero
    simp [Core.hasRoom, Ring.size, hzero] at hroom
  have hkept : s.steepLost n a.desc = false := by simpa [State.steepLost, htarget, hring] using hsize
  obtain ⟨u, hpass, hrings⟩ := State.passPort_follows hidle hroom hdev
  refine ⟨u, ?_, by rw [Core.ring, Core.ring, hrings]⟩
  simp only [State.steepAppend, hagent, hkept, hring, hpass]
  rfl

/-! ### O50 -/

/-- A steep to the inbox of core 0 that has its marker still to append. -/
def inboxSteep : Agent :=
  { desc := [0x801], state := .running, elem := 1, count := 1, buf := [], written := 0, ack := 0, reread := false, faulted := false
    owner := 1, tlb := [] }

/-- A message to core 0 whose sender has the number of that steep. -/
def steepNumbered : DevMsg := ⟨0, 1, false, 0, some (agentRequester 0 1), [], agentRequester 0 1, 33⟩

/-- Core 0 with an empty inbox of eight slots and that steep; the message is still to enter. -/
def inboxSteepState : State := { State.reset with
  cores := [(0, { Core.reset with
    ctx := some 1, rings := Core.reset.rings.set 0 { Ring.free with log2n := 3 }, agents := [(1, inboxSteep)] })]
  devMsgs := [steepNumbered] }

/-- The steep moves, its ring has room and its port is idle. -/
theorem inboxSteepState_meets : moving inboxSteepState 0 1 1 inboxSteep ∧ inboxSteepState.targetOk 0 0 = true ∧
    (inboxSteepState.core 0).hasRoom 0 = true ∧ portIdle inboxSteepState 1 0 ∧
    inboxSteepState.devBefore (agentRequester 0 1) 0 = true := by
  unfold moving portIdle draws
  decide +kernel

/-- Refutes O50: the clause of the steeps takes any target ring, also the inbox, and any messages that wait at the device, also one
whose sending core has the number of the steep. The marker's request then follows that message (R31, R147), so that the move
leaves it at the port and appends nothing. `subs` refuses a target ring below 2 (R243) and no core has such a number (R124), so no
run reaches the state: the clause lacks `2 ≤ ADesc.ring w`, or that no message of that number waits. -/
theorem not_agentsMoveData : ¬ Obligations.AgentsMoveData := by
  unfold Obligations.AgentsMoveData
  intro hall
  obtain ⟨hmoves, htarget, hroom, hidle, hdev⟩ := inboxSteepState_meets
  obtain ⟨-, -, -, -, -, hsteep, -, -⟩ := hall 0 1 inboxSteep inboxSteepState rfl
  obtain ⟨-, hmarker⟩ := hsteep hmoves htarget hroom (.inl rfl) hidle
  obtain ⟨t, hexec, hring, -⟩ := hmarker rfl rfl
  obtain ⟨u, happend, hsame⟩ := State.steepAppend_follows hmoves rfl htarget hroom hidle hdev
  have hu : t = u := by
    have hnext := event_next.1 (show event "STEEP_RECORD_APPEND" (inboxSteepState.steepAppend 0 1) = .next t from hexec)
    exact Option.some.inj (hnext.symm.trans happend)
  subst hu
  have htail : (0 : BitVec 32) = 0 + 1 := congrArg Ring.tail (hsame.symm.trans hring)
  exact absurd htail (by decide)

end Sys2Proof.Machine
end

section
/-!
What every step keeps (spec/04_ordering.md R78, spec/26_boot_and_bring_up.md R355, spec/27_fleet_operation.md R359): a sound state
has image B in canonical form and legal registers. Image B changes only by writes of bytes, and few moves change the registers, so
that each operation of the machine takes a sound state to a sound one: one lemma for each.
-/
namespace Sys2Proof.Machine

/-! ### Sound states -/

/-- Image B is canonical, and the registers are legal. -/
def State.Sound (s : State) : Prop := s.memoryWf = true ∧ s.registersLegal = true

section
variable {s t : State}

/-- An update of anything but image B, BOOT.STATE and PWRLIM keeps a state sound. -/
theorem State.Sound.same (h : s.Sound)
    (e : (t.memB, t.boot.state, t.pwrLim) = (s.memB, s.boot.state, s.pwrLim)) : t.Sound := by
  obtain ⟨hm, hrest⟩ := Prod.mk.inj e
  obtain ⟨hb, hp⟩ := Prod.mk.inj hrest
  obtain ⟨hwf, hlegal⟩ := h
  refine ⟨?_, ?_⟩
  · rw [State.memoryWf, hm]; exact hwf
  · rw [State.registersLegal, hb, hp]; exact hlegal

/-- Another image B in canonical form keeps it sound too. -/
theorem State.Sound.ofImage (h : s.Sound) (hm : Memory.wf bMem t.memB = true)
    (e : (t.boot.state, t.pwrLim) = (s.boot.state, s.pwrLim)) : t.Sound := by
  obtain ⟨hb, hp⟩ := Prod.mk.inj e
  refine ⟨hm, ?_⟩
  rw [State.registersLegal, hb, hp]; exact h.2

theorem State.Sound.ite {c : Prop} {_ : Decidable c} (hs : s.Sound) (ht : t.Sound) : (if c then s else t).Sound := by
  split <;> assumption

/-- Repeated operations keep a state sound when each does. -/
theorem State.Sound.foldl {α : Type} {f : State → α → State} (h : s.Sound) (hf : ∀ u a, u.Sound → (f u a).Sound) (l : List α) :
    (l.foldl f s).Sound := by
  induction l generalizing s with
  | nil => exact h
  | cons a l ih => exact ih (hf s a h)

/-! ### The parts of the state, and main memory -/

theorem State.Sound.setCore (h : s.Sound) {n : Nat} {c : Core} : (s.setCore n c).Sound := h.same rfl
theorem State.Sound.updCore (h : s.Sound) {n : Nat} {f : Core → Core} : (s.updCore n f).Sound := h.same rfl
theorem State.Sound.setCluster (h : s.Sound) {g : Nat} {c : Cluster} : (s.setCluster g c).Sound := h.same rfl
theorem State.Sound.updCluster (h : s.Sound) {g : Nat} {f : Cluster → Cluster} : (s.updCluster g f).Sound := h.same rfl
theorem State.Sound.updOwner (h : s.Sound) {o : Nat} {f : Owner → Owner} : (s.updOwner o f).Sound := h.same rfl
theorem State.Sound.updFunc (h : s.Sound) {i : Nat} {f : Func → Func} : (s.updFunc i f).Sound := h.same rfl
theorem State.Sound.updIsland (h : s.Sound) {i : Nat} {f : Island → Island} : (s.updIsland i f).Sound := h.same rfl
theorem State.Sound.withFreeCtr (h : s.Sound) {k : Nat} : ({ s with freeCtr := k } : State).Sound := h.same rfl
theorem State.Sound.withDevMsgs (h : s.Sound) {l : List DevMsg} : ({ s with devMsgs := l } : State).Sound := h.same rfl
theorem State.Sound.withCopies (h : s.Sound) {l : List Copy} : ({ s with copies := l } : State).Sound := h.same rfl
theorem State.Sound.withCores (h : s.Sound) {l : Store Core} {k : Nat} : ({ s with cores := l, moves := k } : State).Sound := h.same rfl
theorem State.Sound.debit (h : s.Sound) {o k i : Nat} : (s.debit o k i).Sound := .ite h h.updOwner

theorem State.Sound.bRekey (h : s.Sound) {key : KeyVal} {u : Nat} : (s.bRekey key u).Sound := by
  refine h.ofImage (State.bWf_bRekey h.1 key u) ?_
  unfold State.bRekey
  split
  · split <;> rfl
  · rfl

theorem State.Sound.bWriteByte (h : s.Sound) {key : KeyVal} {pa : Nat} {v : Byte} : (s.bWriteByte key pa v).Sound :=
  h.bRekey.ofImage (State.bWf_bWriteByte h.1 key pa v) rfl

theorem State.Sound.bWrite (h : s.Sound) {w : Nat} {key : KeyVal} {x : BitVec w} {pa n : Nat} : (s.bWrite key x pa n).Sound := by
  induction n with
  | zero => exact h
  | succ n ih => exact ih.bWriteByte

theorem State.Sound.detectLine (h : s.Sound) {line : Nat} {inC : Bool} {o : Nat} {va : Word} {n cause : Nat} :
    (s.detectLine line inC o va n cause).Sound := .ite h (h.same rfl)

theorem State.Sound.report (h : s.Sound) {cls cause : Nat} {o : Option Nat} {va : Word} {n : Nat} {detail : Word} {kill stop : Bool}
    {pa : Word} {func : Option Nat} {struct : Word} : (s.report cls cause o va n detail kill stop pa func struct).Sound := (h.same rfl)

theorem State.Sound.fillLine (h : s.Sound) {line o : Nat} {sup : Bool} : (s.fillLine line o sup).Sound := by
  unfold State.fillLine
  split
  · exact h
  · exact (h.detectLine (line := line) (inC := false) (o := o) (va := 0) (n := 0) (cause := 0)).same rfl

theorem State.Sound.markSector (h : s.Sound) {o pa : Nat} : (s.markSector o pa).Sound :=
  h.foldl (fun _ _ hu => .ite hu.bWrite hu) _

theorem State.Sound.cross (h : s.Sound) {o who line : Nat} {path : List (Nat × Nat)} {entered : Bool} :
    (s.cross o who line path entered).Sound := h.same rfl

theorem State.Sound.chargeBack (h : s.Sound) {o line : Nat} {path : List (Nat × Nat)} : (s.chargeBack o line path).Sound := by
  unfold State.chargeBack
  refine State.Sound.cross ?_
  split
  · exact .ite h h.updOwner
  · exact h

theorem State.Sound.soil (h : s.Sound) {o line : Nat} : (s.soil o line).Sound := h.same rfl

theorem State.Sound.writeBackLine (h : s.Sound) {line : Nat} {o : Option Nat} : (s.writeBackLine line o).Sound := by
  unfold State.writeBackLine
  split
  · exact h
  · refine .ite ?_ h
    extract_lets q u v w key x y
    have hv : v.Sound := h.detectLine.chargeBack
    have hw : w.Sound := .ite hv.soil hv
    have hx : x.Sound := hw.foldl (fun _ _ hu => hu.bWriteByte) _
    clear_value x
    have hy : y.Sound := hx.same rfl
    exact hy.markSector

theorem State.Sound.dropLine (h : s.Sound) {line : Nat} : (s.dropLine line).Sound := h.same rfl
theorem State.Sound.closeMerges (h : s.Sound) {line : Nat} {data : List Byte} {mark : Option (BitVec 32)} :
    (s.closeMerges line data mark).Sound := h.same rfl

theorem State.Sound.cWrite (h : s.Sound) {w o : Nat} {sup : Bool} {x : BitVec w} {pa n : Nat} : (s.cWrite o sup x pa n).Sound :=
  (h.fillLine (line := pa / 128) (o := o) (sup := sup)).same rfl

theorem State.Sound.clearPoison (h : s.Sound) {img : Image} {line : Nat} : (s.clearPoison img line).Sound := by
  unfold State.clearPoison
  cases img with
  | b => exact h.same rfl
  | c => dsimp only; split <;> exact h.same rfl

theorem State.Sound.joinOrder (h : s.Sound) {d : Dest} {o pa n : Nat} : (s.joinOrder d o pa n).Sound := h.same rfl

theorem State.Sound.imgWrite (h : s.Sound) {w : Nat} {img : Image} {o : Nat} {sup : Bool} {x : BitVec w} {pa n : Nat} :
    (s.imgWrite img o sup x pa n).Sound := by
  have hj := h.joinOrder (d := .main img) (o := o) (pa := pa) (n := n)
  cases img with
  | c => exact .ite hj.cWrite.clearPoison hj.cWrite
  | b =>
    unfold State.imgWrite
    extract_lets i d u v
    have hd : d.Sound := .ite hj hj.detectLine
    have hu : u.Sound := hd.bWrite
    have hv : v.Sound := .ite hu.clearPoison hu
    exact hv.markSector

/-! ### The cache directory and translation -/

theorem State.Sound.evict (h : s.Sound) {c : Copy} : (s.evict c).Sound :=
  .ite (State.Sound.withCopies (.ite h.chargeBack h))
    (.ite (State.Sound.withCopies (.ite h.writeBackLine h)) h.writeBackLine.withCopies.dropLine)

theorem State.Sound.allocate (h : s.Sound) {cls inst set line o : Nat} {ways : List Nat} {dirty : Bool} :
    (s.allocate cls inst set line o ways dirty).Sound := by
  unfold State.allocate
  refine .ite h ?_
  extract_lets w held ctr u
  have hu : u.Sound := h.same rfl
  split
  · exact hu.same rfl
  · rename_i v _ _
    have hv : v.Sound := by
      dsimp only [v]; split
      · exact hu.evict
      · exact hu
    exact hv.same rfl

theorem State.Sound.touchClass (h : s.Sound) {n o cls line tc : Nat} {alloc : Bool} :
    (s.touchClass n o cls line tc alloc).Sound := by
  unfold State.touchClass
  extract_lets w at_ find
  split
  · exact h
  · split
    · exact h
    · split
      · exact .ite h.evict h.withCopies.allocate
      · exact .ite h.allocate h

theorem State.Sound.touchLocked (h : s.Sound) {line : Nat} : (s.touchLocked line).Sound := .ite h (h.same rfl)

theorem State.Sound.touch (h : s.Sound) {n o line cache : Nat} {tier : Tier} {stream : Bool} {op : CacheOp} {tc : Nat} :
    (s.touch n o line cache tier stream op tc).Sound := by
  unfold State.touch
  extract_lets u v
  have hu : u.Sound := .ite h.touchClass h
  have hv : v.Sound := .ite hu.touchClass hu
  exact .ite (.ite (.ite hv.touchClass.soil hv.touchClass) hv.touchLocked) hv

theorem State.Sound.walkTouch (h : s.Sound) {k : Walker} {o : Nat} {sup : Bool} {va : Nat} : (s.walkTouch k o sup va).Sound :=
  .ite h (h.foldl (fun _ _ hu => hu.detectLine.cross.touch) _)

theorem State.Sound.setTlb (h : s.Sound) {l : List Trans} {k : Walker} : (s.setTlb l k).Sound := by
  cases k <;> exact h.same rfl

theorem State.Sound.mapTlbs (h : s.Sound) {f : List Trans → List Trans} : (s.mapTlbs f).Sound := h.same rfl
theorem State.Sound.dropPage (h : s.Sound) {o va shift : Nat} : (s.dropPage o va shift).Sound := h.mapTlbs
theorem State.Sound.dropOwnerTlb (h : s.Sound) {o : Nat} : (s.dropOwnerTlb o).Sound := h.mapTlbs
theorem State.Sound.markStale (h : s.Sound) {p : Job → Bool} : (s.markStale p).Sound := h.same rfl

theorem State.Sound.renew (h : s.Sound) {k : Walker} {o : Nat} : (s.renew k o).Sound := by
  cases k <;> first | exact h.updCluster | exact h

theorem State.Sound.kilnOp (h : s.Sound) {o pa : Nat} : (s.kilnOp o pa).Sound := h.cross
theorem State.Sound.kilnWrite (h : s.Sound) {w o : Nat} {x : BitVec w} {pa k : Nat} : (s.kilnWrite o x pa k).Sound :=
  h.kilnOp.bWrite.joinOrder.markSector
theorem State.Sound.pushFrame (h : s.Sound) {o stack f : Nat} {va : Word} {n : Nat} : (s.pushFrame o stack f va n).Sound :=
  .ite h.kilnWrite.kilnWrite h.kilnOp.report

theorem State.Sound.copyLine (h : s.Sound) {key : KeyVal} {o va a b : Nat} : (s.copyLine key o va a b).Sound := by
  unfold State.copyLine
  extract_lets u v w
  have hw : w.Sound := (h.detectLine.kilnOp.foldl (fun _ _ hu => hu.bWriteByte) _).clearPoison
  clear_value w
  exact hw.same rfl

theorem State.Sound.setBreak (h : s.Sound) {b : Break} {x : BreakStep} : (s.setBreak b x).Sound := h.same rfl
theorem State.Sound.endBreak (h : s.Sound) {b : Break} : (s.endBreak b).Sound := h.same rfl

/-- Each step of a share break keeps the state sound (R313). -/
theorem State.Sound.breakGo (h : s.Sound) {k : Walker} {b : Break} {va : Nat} : (s.breakGo k b va).1.Sound := by
  unfold State.breakGo
  extract_lets o f0 stack same
  cases b.step with
  | sole => dsimp only; exact .ite h.cWrite.setBreak h.endBreak
  | shared =>
    dsimp only; split
    · exact h.endBreak
    · exact h.kilnWrite.setBreak
  | popped f => dsimp only; exact (h.foldl (fun _ _ hu => hu.copyLine.markSector) _).setBreak
  | copied f => exact h.kilnWrite.setBreak
  | counted f => dsimp only; exact .ite h.cWrite.setBreak h.pushFrame.endBreak
  | swapped f => exact h.kilnWrite.setBreak
  | last => exact h.pushFrame.setBreak
  | done => exact h.dropPage.markStale.setBreak
  | dropped ids =>
    dsimp only; split
    · exact h.renew
    · exact h.renew.same rfl
  | writing =>
    dsimp only; split
    · exact h
    · exact .ite h h.endBreak

/-- A translation keeps the state sound, whatever it gives. -/
theorem State.Sound.translate (h : s.Sound) {k : Walker} {o : Nat} {sup : Bool} {va : Nat} {r w x : Bool} :
    (s.translate k o sup va r w x).1.Sound := by
  unfold State.translate
  extract_lets ok fresh plain
  have hfresh : ∀ u : State, u.Sound → (fresh u).1.Sound := by
    intro u hu
    dsimp only [fresh]
    have hw := hu.walkTouch (k := k) (o := o) (sup := sup) (va := va)
    split
    · exact hw
    · exact hw
    · split
      · exact hw
      · split
        · exact hw.same rfl
        · exact hw.setTlb
  have hplain : ∀ u : State, u.Sound → (plain u).1.Sound := by
    intro u hu
    dsimp only [plain]
    split
    · split
      · exact hu
      · split
        · exact hfresh _ hu.setTlb
        · exact hu
    · exact hfresh u hu
  split
  · exact hplain s h
  · rename_i b _
    have hgo := h.breakGo (k := k) (b := b) (va := va)
    split
    · rename_i hb; rw [hb] at hgo; exact hplain _ hgo
    · rename_i hb; rw [hb] at hgo; exact hgo
    · rename_i hb; rw [hb] at hgo; exact hgo
end
end Sys2Proof.Machine
end

section
/-!
What every step keeps, continued: accesses and what they do at plates, cluster windows and memory (spec/04_ordering.md R80,
spec/10_memory_sync_messages.md), and the shared operations over handlers and contexts (spec/02_execution_model.md).
-/
namespace Sys2Proof.Machine

section
variable {s : State}

/-! ### Ports and windows -/

theorem State.Sound.raiseVector (h : s.Sound) {f v : Nat} : (s.raiseVector f v).Sound := h.updFunc

theorem State.Sound.feReturn (h : s.Sound) {t : Nat} {q : Parked} {v : Word} : (s.feReturn t q v).Sound := h.updCore
theorem State.Sound.joinStore (h : s.Sound) {a : Access} : (s.joinStore a).Sound := .ite h.joinOrder h
theorem State.Sound.joinParked (h : s.Sound) {t : Nat} {q : Parked} : (s.joinParked t q).Sound := .ite h.joinOrder h

theorem State.Sound.fePort (h : s.Sound) {t : Nat} : (s.fePort t).Sound :=
  h.setCore.foldl (fun _ _ hu => hu.joinParked.feReturn) _

theorem State.Sound.spoilFilling (h : s.Sound) {t a z : Nat} : (s.spoilFilling t a z).Sound := .ite h (h.same rfl)
theorem State.Sound.plateStore (h : s.Sound) {t a z : Nat} {data : Word} : (s.plateStore t a z data).Sound :=
  .ite h.updCore.spoilFilling h.updCore

theorem State.Sound.placeWrite (h : s.Sound) {a : Access} {x : Word} : (s.placeWrite a x).Sound := by
  unfold State.placeWrite
  cases a.dest with
  | plate t => exact h.plateStore.joinOrder
  | cluster g => exact h.updCluster.joinOrder
  | main img => exact h.imgWrite

theorem State.Sound.passCaches (h : s.Sound) {n : Nat} {a : Access} {op : CacheOp} : (s.passCaches n a op).Sound := by
  unfold State.passCaches
  split
  · exact h.touch
  · exact h

theorem State.Sound.rangeLine (h : s.Sound) {op : RangeOp} {line : Nat} : (s.rangeLine op line).Sound := by
  have undir : ∀ {u : State}, u.Sound →
      ({ u with copies := u.copies.filter fun c => !(c.line == line && c.cls != 3) } : State).Sound := fun hu => hu.same rfl
  cases op with
  | clean => exact h.writeBackLine
  | inval => exact undir h.dropLine
  | flush => exact undir h.writeBackLine.dropLine
  | icinv => exact h

theorem State.Sound.dropCode (h : s.Sound) {a : Access} : (s.dropCode a).Sound := h.same rfl

theorem State.Sound.faultArrive (h : s.Sound) {t : Nat} {r : Rec} : (s.faultArrive t r).Sound := by
  unfold State.faultArrive
  extract_lets c base busy
  split
  · exact h.setCore
  · exact h.report

theorem State.Sound.joinSlot (h : s.Sound) {a : Access} {t j : Nat} : (s.joinSlot a t j).Sound := .ite h h.joinOrder

/-- Performing an access keeps the state sound, whatever it returns (R80, R87). -/
theorem State.Sound.applyAccess (h : s.Sound) {n : Nat} {a : Access} : (s.applyAccess n a).2.Sound := by
  unfold State.applyAccess
  split
  · exact h.passCaches.placeWrite
  · dsimp only; split
    · exact h.passCaches.placeWrite
    · exact h.passCaches
  · exact h.setCore.joinStore
  · split
    · exact h.setCore.joinStore.fePort
    · exact h
  · exact h.updCore.joinSlot
  · exact h.updCore.joinSlot
  · exact .ite h.faultArrive (h.same rfl)
  · exact .ite h.dropCode (.ite h.rangeLine h)
  · exact h

theorem State.Sound.failPeers (h : s.Sound) {o : Nat} {w : List Word} {cause : Nat} : (s.failPeers o w cause).Sound := h.same rfl

/-! ### Handlers, splices and kills -/

theorem State.Sound.setLanes (h : s.Sound) {n l : Nat} : (s.setLanes n l).Sound := h.same rfl
theorem State.Sound.takeback (h : s.Sound) {n : Nat} : (s.takeback n).Sound := h.setLanes
theorem State.Sound.restIdle (h : s.Sound) {n : Nat} : (s.restIdle n).Sound := .ite h.setLanes.updCore h
theorem State.Sound.boundary (h : s.Sound) {n : Nat} : (s.boundary n).Sound := h.takeback.restIdle
theorem State.Sound.sendDevice (h : s.Sound) {n t o : Nat} {r : Rec} : (s.sendDevice n t o r).Sound := h.same rfl
theorem State.Sound.replySplice (h : s.Sound) {n j cause : Nat} {r : Rec} {info tcause : Word} :
    (s.replySplice n j cause r info tcause).Sound := .ite h.sendDevice h
theorem State.Sound.failSplices (h : s.Sound) {n : Nat} {rings : List Nat} {cause : Nat} {info tcause : Word} :
    (s.failSplices n rings cause info tcause).Sound := h.updCore.foldl (fun _ _ hu => hu.updCore.replySplice) _

theorem State.Sound.commitSplice (h : s.Sound) {n j : Nat} {rings : List Nat} : (s.commitSplice n j rings).Sound := by
  unfold State.commitSplice
  extract_lets c r old heads u src v
  have hu : u.Sound := h.foldl (fun _ _ hx => hx.updCore) _
  have hv : v.Sound := .ite hu.updCore hu
  exact (hv.foldl (fun _ _ hx => hx.replySplice) _).restIdle

theorem State.Sound.commitAfter (h : s.Sound) {t : Transfer} : (s.commitAfter t).Sound := .ite h.commitSplice h.updCore
theorem State.Sound.childReturn (h : s.Sound) {n f : Nat} {rest : List Word} {x : Handler} : (s.childReturn n f rest x).Sound :=
  h.same rfl

theorem State.Sound.endHandler (h : s.Sound) {n : Nat} {requeue : Bool} : (s.endHandler n requeue).Sound := by
  unfold State.endHandler
  split
  · exact h.updCore
  · split
    · exact h.childReturn
    · dsimp only; split
      · exact h.updCore.updCore.boundary.commitSplice
      · exact h.updCore.updCore.boundary

theorem State.Sound.withdraw (h : s.Sound) {n : Nat} : (s.withdraw n).Sound := h.same rfl
theorem State.Sound.unwait (h : s.Sound) {who : Nat} : (s.unwait who).Sound := .ite (h.same rfl) h
theorem State.Sound.unclaim (h : s.Sound) {n : Nat} : (s.unclaim n).Sound := .ite h.setCluster h

theorem State.Sound.unreserve (h : s.Sound) {a : Access} : (s.unreserve a).Sound := by
  unfold State.unreserve
  split
  · exact h.updCore
  · exact h.updCore
  · exact h

theorem State.Sound.settle (h : s.Sound) {n : Nat} : (s.settle n).Sound := by
  unfold State.settle
  extract_lets l u v
  have hu : u.Sound := h.same rfl
  have hv : v.Sound := by
    refine hu.foldl (fun x a hx => .ite ?_ hx) _
    have hd : x.draw.2.Sound := hx.same rfl
    exact .ite hd.applyAccess hd.unreserve
  exact hv.updCore

theorem State.Sound.killOwner (h : s.Sound) {o : Nat} : (s.killOwner o).Sound := by
  unfold State.killOwner
  extract_lets colls u ns v w x
  have hu : u.Sound := h.foldl (fun _ _ hx => hx.failPeers) _
  have hv : v.Sound := hu.foldl (fun _ _ hx => hx.updCore.withdraw) _
  have hw : w.Sound := hv.foldl (fun _ _ hx => hx.settle) _
  have hx : x.Sound := hw.foldl (fun _ _ hx => hx.updCore) _
  clear_value x
  exact hx.same rfl

theorem State.Sound.sendFault (h : s.Sound) {n cause : Nat} {info pc : Word} : (s.sendFault n cause info pc).Sound := h.same rfl

theorem State.Sound.handlerFault (h : s.Sound) {n cause : Nat} {info : Word} : (s.handlerFault n cause info).Sound := by
  unfold State.handlerFault
  extract_lets c o
  split
  · exact h.report.updCore.boundary.failSplices
  · exact .ite h.killOwner.report h.sendFault.updCore.updCore.boundary

theorem State.Sound.takeTrap (h : s.Sound) {n : Nat} {cause : BitVec 8} {info pc : Word} : (s.takeTrap n cause info pc).Sound :=
  .ite h.killOwner.report (.ite h.setCore.handlerFault h.setCore.updCore)
theorem State.Sound.returnFromTrap (h : s.Sound) {n : Nat} : (s.returnFromTrap n).Sound :=
  .ite h.setCore.handlerFault h.setCore

theorem State.Sound.recordFault (h : s.Sound) {o : Nat} {src : FaultSrc} {va : Word} {write empty : Bool} {info : List Word} :
    (s.recordFault o src va write empty info).Sound := h.updOwner
theorem State.Sound.stallFault (h : s.Sound) {n : Nat} {va : Word} {write empty fetch : Bool} :
    (s.stallFault n va write empty fetch).Sound :=
  (State.Sound.recordFault (.ite h.unwait h)).updCore
theorem State.Sound.giveUp (h : s.Sound) {n : Nat} : (s.giveUp n).Sound := .ite h.unwait h
theorem State.Sound.raiseTrap (h : s.Sound) {n : Nat} {cause : BitVec 8} {info pc : Word} : (s.raiseTrap n cause info pc).Sound :=
  h.giveUp.takeTrap

/-! ### How an instruction ends -/

/-- The state an instruction's meaning leaves. -/
def Act.state : Act → State
  | .done s => s
  | .jump s _ => s
  | .stall s => s
  | .left s => s
  | .trap s _ _ => s

/-- A meaning leaves a sound state. -/
def Act.Sound (a : Act) : Prop := a.state.Sound

theorem State.Sound.done (h : s.Sound) : (Act.done s).Sound := h
theorem State.Sound.jump (h : s.Sound) {t : Word} : (Act.jump s t).Sound := h
theorem State.Sound.stall (h : s.Sound) : (Act.stall s).Sound := h
theorem State.Sound.left (h : s.Sound) : (Act.left s).Sound := h
theorem State.Sound.trap (h : s.Sound) {cause : BitVec 8} {info : Word} : (Act.trap s cause info).Sound := h

theorem Act.Sound.ite {c : Prop} {_ : Decidable c} {a b : Act} (ha : a.Sound) (hb : b.Sound) : (if c then a else b).Sound := by
  split <;> assumption

theorem Act.Sound.finish {a : Act} (h : a.Sound) {n : Nat} : (a.finish n).Sound := by
  cases a with
  | done s => exact State.Sound.updCore h
  | jump s t => exact State.Sound.updCore h
  | stall s => exact h
  | left s => exact h
  | trap s cause info => exact State.Sound.raiseTrap h

/-! ### Performing accesses -/

theorem State.Sound.detect (h : s.Sound) {n : Nat} {a : Access} {cause : Nat} : (s.detect n a cause).Sound := by
  unfold State.detect
  split
  · exact h.detectLine
  · exact h

theorem State.Sound.consumed (h : s.Sound) {n : Nat} {a : Access} {e : BitVec 32} {kill : Bool} : (s.consumed n a e kill).Sound :=
  h.report

theorem State.Sound.complete (h : s.Sound) {n : Nat} {g : Gather} : (s.complete n g).Sound := by
  unfold State.complete
  extract_lets u
  have hu : u.Sound := h.updCore
  split
  · exact hu.updCore
  · exact hu
  · exact hu.updCore
  · exact hu.updCore
  · dsimp only; split
    · exact .ite hu.updCluster.updCore hu.updCore
    · exact hu.updCluster.updCore
  · exact hu.updCluster.updCore
  · exact hu.updCluster.updCore

theorem State.Sound.deliver (h : s.Sound) {n gid idx : Nat} {v : Word} {poison : Option Word} :
    (s.deliver n gid idx v poison).Sound := by
  unfold State.deliver
  split
  · exact h
  · extract_lets parts u g
    have hu : u.Sound := by
      dsimp only [u]; split
      · exact h
      · exact h.updCore
      · exact h
    exact .ite hu.complete hu.updCore

theorem State.Sound.readIn (h : s.Sound) {n : Nat} {a : Access} : (s.readIn n a).Sound := .ite h.passCaches.fillLine h.passCaches

theorem State.Sound.performLoad (h : s.Sound) {n : Nat} {a : Access} {gid idx : Nat} {old : Option (List Byte × Option (BitVec 32))} :
    (s.performLoad n a gid idx old).Sound := by
  unfold State.performLoad
  extract_lets first u v w
  have hu : u.Sound := h.updCore.detect
  have hv : v.Sound := hu.same rfl
  have hw : w.Sound := hv.readIn
  split
  split
  · exact State.Sound.deliver (.ite hw hw.consumed)
  · exact hw.deliver

theorem State.Sound.blockLine (h : s.Sound) {o n line : Nat} {op : CacheOp} : (s.blockLine o n line op).Sound :=
  h.detectLine.cross.touch
theorem State.Sound.blockWrite (h : s.Sound) {w o : Nat} {x : BitVec w} {pa k : Nat} : (s.blockWrite o x pa k).Sound :=
  h.joinOrder.cWrite

theorem State.Sound.savedAppend (h : s.Sound) {o n : Nat} {r : Rec} : (s.savedAppend o n r).Sound := by
  unfold State.savedAppend
  extract_lets base key w g u v
  have hu : u.Sound := h.blockLine
  have hv : v.Sound := hu.foldl (fun _ _ hx => hx.blockWrite) _
  exact hv.blockLine.blockWrite

theorem State.Sound.lateReply (h : s.Sound) {n : Nat} {a : Access} {g : Gather} {old : Option (List Byte × Option (BitVec 32))} :
    (s.lateReply n a g old).Sound := by
  -- `savedAppend` as a variable: what the last match looks up must not be computed.
  obtain ⟨f, hf⟩ : ∃ f, f = @State.lateReply := ⟨_, rfl⟩
  obtain ⟨append, hfun⟩ : ∃ append, append = @State.savedAppend := ⟨_, rfl⟩
  have happend : ∀ {u : State} {o m : Nat} {r : Rec}, u.Sound → (append u o m r).Sound := by
    intro u o m r hu
    rw [hfun]
    exact hu.savedAppend
  rw [← hf]
  delta State.lateReply at hf
  rw [← hfun] at hf
  rw [hf]
  clear hf hfun
  beta_reduce
  extract_lets done first u v
  have hu : u.Sound := h.same rfl
  have hv : v.Sound := .ite hu hu.detect.readIn
  split
  split
  extract_lets w base tail y
  have hw : w.Sound := by
    dsimp only [w]; split
    · exact .ite hv hv.consumed
    · exact hv
  have hy : y.Sound := happend hw
  clear_value y
  split
  · exact hy.same rfl
  · exact hy

theorem State.Sound.passOlder (h : s.Sound) {n : Nat} {a : Access} : (s.passOlder n a).Sound := .ite h h.updCore

theorem State.Sound.joinMerge (h : s.Sound) {n : Nat} {a : Access} : (s.joinMerge n a).Sound := by
  unfold State.joinMerge
  extract_lets line
  refine .ite h ?_
  split
  · exact h.same rfl
  · exact h.same rfl

theorem State.Sound.multicast (h : s.Sound) {m : Merge} : (s.multicast m).Sound := by
  unfold State.multicast
  extract_lets u v
  have hu : u.Sound := h.same rfl
  have hv : v.Sound := by
    refine hu.foldl (fun x a hx => ?_) _
    dsimp only; split
    · split
      · exact hx.performLoad
      · exact hx
    · exact hx.lateReply
    · exact hx
  exact hv.fillLine

theorem State.Sound.joinFill (h : s.Sound) {n : Nat} {a : Access} : (s.joinFill n a).Sound := by
  unfold State.joinFill
  split
  · exact h.multicast
  · exact h

theorem State.Sound.giveBack (h : s.Sound) {n : Nat} {ret : Option SReg} {v : Word} : (s.giveBack n ret v).Sound := by
  unfold State.giveBack
  split
  · exact h.updCore
  · exact h

theorem State.Sound.performFe (h : s.Sound) {n t : Nat} {a : Access} {op : FeOp} {data : Word} {ret : Option SReg} :
    (s.performFe n t a op data ret).Sound := by
  unfold State.performFe
  extract_lets u holds
  have hu : u.Sound := h.updCore
  split
  · have hg : ∀ {c : Core} {x : Word}, ((((u.setCore t c).joinStore a).fePort t).giveBack n ret x).Sound :=
      hu.setCore.joinStore.fePort.giveBack
    exact .ite hg.updCore hg
  · exact hu.updCore.updCore

/-- Performing any queued access keeps the state sound (R80). -/
theorem State.Sound.perform (h : s.Sound) {n : Nat} {a : Access} : (s.perform n a).Sound := by
  unfold State.perform
  extract_lets u
  have hu : u.Sound := h.passOlder
  split
  · exact hu.performLoad
  · split
    · exact hu.performFe
    · exact hu.updCore
  · rename_i v w _ _ _ _ _ _
    have hv : v.Sound := hu.same rfl
    have hw : w.Sound := hv.updCore.detect
    split
    · split
      · exact State.Sound.updCore (.ite hw hw.consumed)
      · exact hw.killOwner.consumed
    · exact (hw.applyAccess (n := n) (a := { a with op := .atom _ _ _ _ })).giveBack
  · exact hu.updCore.applyAccess.giveBack
  · exact hu.updCore.applyAccess

theorem State.Sound.forward (h : s.Sound) {n : Nat} {a b : Access} : (s.forward n a b).Sound := by
  unfold State.forward
  split
  · exact h.updCore.deliver
  · exact h

/-! ### Tiles and tags -/

theorem State.Sound.spoilBytes (h : s.Sound) {n a len : Nat} : (s.spoilBytes n a len).Sound := h.same rfl
theorem State.Sound.applyTile (h : s.Sound) {n t : Nat} {c : Core} {spoil : Bool} : (s.applyTile n t c spoil).Sound :=
  .ite h.setCore.spoilBytes h.setCore
theorem State.Sound.takeAcc (h : s.Sound) {n g a : Nat} : (s.takeAcc n g a).Sound := h.updCluster
end

end Sys2Proof.Machine
end

section
/-!
What every step keeps, continued: effective addresses and the issue of accesses (spec/10_memory_sync_messages.md R188, R189), the
queues of the arbitration points (spec/06_owner_draws.md R124, R126), the dispatcher, the ring engine and instruction fetch
(spec/02_execution_model.md R40, spec/07_pipelines_splices.md, spec/21_issue_and_scheduling.md R296).
-/
namespace Sys2Proof.Machine

/-- What an enabled move leaves is sound. -/
def SoundOption (m : Option State) : Prop := ∀ t, m = some t → t.Sound

/-- What an outcome leaves is sound. -/
def SoundOutcome (o : Outcome) : Prop := ∀ t, o = .next t → t.Sound

/-- What a check leaves is sound: the state in which it passed, or the instruction's end. -/
def Chk.Sound : Chk → Prop
  | .ok s _ => s.Sound
  | .no a => a.Sound

section
variable {s : State}

theorem State.Sound.some (h : s.Sound) : SoundOption (some s) := by
  rintro t ⟨⟩; exact h
theorem soundOption_none : SoundOption none := by rintro t ⟨⟩
theorem SoundOption.ite {c : Prop} {_ : Decidable c} {a b : Option State} (ha : SoundOption a) (hb : SoundOption b) :
    SoundOption (if c then a else b) := by split <;> assumption
theorem State.Sound.onlyIf (h : s.Sound) {b : Bool} : SoundOption (onlyIf b s) := by
  cases b
  · exact soundOption_none
  · exact h.some
theorem SoundOption.map {m : Option State} (hm : SoundOption m) {f : State → State} (hf : ∀ u, u.Sound → (f u).Sound) :
    SoundOption (m.map f) := by
  cases m with
  | none => exact soundOption_none
  | some u => exact (hf u (hm u rfl)).some
theorem State.Sound.mapSome {α : Type} {m : Option α} {f : α → State} (hf : ∀ a, (f a).Sound) : SoundOption (m.map f) := by
  cases m with
  | none => exact soundOption_none
  | some a => exact (hf a).some
theorem SoundOption.orElse {a b : Option State} (ha : SoundOption a) (hb : SoundOption b) : SoundOption (a <|> b) := by
  cases a with
  | none => exact hb
  | some u => exact ha

theorem State.Sound.next (h : s.Sound) : SoundOutcome (.next s) := by rintro t ⟨⟩; exact h
theorem SoundOutcome.ite {c : Prop} {_ : Decidable c} {a b : Outcome} (ha : SoundOutcome a) (hb : SoundOutcome b) :
    SoundOutcome (if c then a else b) := by split <;> assumption
theorem SoundOption.event {m : Option State} (hm : SoundOption m) {name : String} : SoundOutcome (event name m) :=
  fun t ht => hm t (event_next.1 ht)

/-! ### Instructions under their guard -/

theorem State.Sound.scalarOp (h : s.Sound) {gd : Guard} {f : State → Nat → Act} (hf : (f s s.cur).Sound) :
    SoundOutcome (scalarOp gd s f) := by
  refine State.Sound.next (Act.Sound.finish ?_)
  split
  · exact hf
  · exact h

theorem soundOutcome_laneOp {f : State → Nat → Act} (hf : (f s s.cur).Sound) : SoundOutcome (laneOp s f) :=
  (Act.Sound.finish hf).next

theorem State.Sound.regOp (h : s.Sound) {gd : Guard} {f : Core → Core} : SoundOutcome (regOp gd s f) := h.scalarOp h.updCore

theorem State.Sound.privOp (h : s.Sound) {i : Instr} {gd : Guard} {f : State → Nat → Act} (hf : (f s s.cur).Sound) :
    SoundOutcome (privOp i gd s f) :=
  .ite (h.scalarOp hf) (Act.Sound.finish (a := .trap s _ _) h).next

/-! ### Addresses and accesses -/

/-- A translation that goes on soundly gives a sound check. -/
theorem State.Sound.xlate (h : s.Sound) {n : Nat} {va : Word} {r w x : Bool} {k : State → Nat → Word → Chk}
    (hk : ∀ u pa leaf, u.Sound → (k u pa leaf).Sound) : (s.xlate n va r w x k).Sound := by
  unfold State.xlate
  extract_lets c
  have ht := h.translate (k := .core n) (o := c.own) (sup := c.sup) (va := va.toNat) (r := r) (w := w) (x := x)
  split
  all_goals rename_i hx; rw [hx] at ht
  · exact hk _ _ _ ht
  · exact ht
  · exact ht.stallFault
  · exact ht

theorem Chk.Sound.ite {c : Prop} {_ : Decidable c} {a b : Chk} (ha : a.Sound) (hb : b.Sound) : (if c then a else b).Sound := by
  split <;> assumption

theorem State.Sound.check (h : s.Sound) {n : Nat} {form : Form} {lane : Nat} {ea : Word} {z : Nat} {aligned r w : Bool} :
    (s.check n form lane ea z aligned r w).Sound := by
  unfold State.check
  extract_lets c trap
  have ht : ∀ cause, (trap cause).Sound := fun _ => h
  split
  · exact ht _
  · exact .ite (ht _) (.ite (ht _) (.ite (ht _) (.ite (ht _) (.ite (ht _) (.ite (ht _) (.ite (ht _) (.ite (ht _) h)))))))
  · refine .ite (ht _) ?_
    split
    any_goals exact ht _
    all_goals
      refine .ite (ht _) (.ite (ht _) ?_)
      split <;> exact h
  · refine .ite (ht _) (.ite (ht _) (.ite (ht _) (.ite (ht _) (h.xlate ?_))))
    intro u pa leaf hu
    exact .ite hu hu

theorem State.Sound.checkAll (h : s.Sound) {n : Nat} {form : Form} {z : Nat} {aligned r w : Bool} {l : List (Nat × Word)}
    {acc : List Elem} : match s.checkAll n form z aligned r w l acc with | .ok (t, _) => t.Sound | .error a => a.Sound := by
  induction l generalizing s acc with
  | nil => exact h
  | cons x l ih =>
    obtain ⟨i, ea⟩ := x
    have hc := h.check (n := n) (form := form) (lane := i) (ea := ea) (z := z) (aligned := aligned) (r := r) (w := w)
    rw [State.checkAll]
    cases hx : s.check n form i ea z aligned r w with
    | ok t e => rw [hx] at hc; exact ih hc
    | no a => rw [hx] at hc; exact hc

theorem State.Sound.takeTags (h : s.Sound) {n : Nat} {es : List Elem} : (s.takeTags n es).Sound := by
  refine h.foldl (fun u e hu => ?_) es
  split
  · exact hu.takeAcc
  · exact hu

/-- Issuing loads keeps the state sound: the parts are read, queued and joined to windows (R80). -/
theorem State.Sound.issueLoads (h : s.Sound) {n : Nat} {dst : GDest} {es : List Elem} {va : Word} {acq stay : Bool} :
    (s.issueLoads n dst es va acq stay).Sound := by
  unfold State.issueLoads
  refine .ite h ?_
  extract_lets u
  have hu : u.Sound := h.takeTags
  generalize hid : u.newId = x
  obtain ⟨gid, v⟩ := x
  have hv : v.Sound := by
    have hnew : u.newId.2.Sound := hu.same rfl
    rwa [hid] at hnew
  dsimp -zeta only
  extract_lets step g done queued
  have pieces : ∀ (e : Elem) (l : List (Nat × Nat)) (x : State × List Part), x.1.Sound →
      (l.foldl (fun (x : State × List Part) (y : Nat × Nat) =>
        let (id, s) := x.1.newId
        let a := s.accessOf n id (.load gid x.2.length) e (e.addr + y.1) y.2 acq none
        let s := s.updCore n fun c => { c with pend := c.pend ++ [a] }
        (s.joinMerge n a, x.2 ++ [⟨e.lane, y.1, y.2, none⟩])) x).1.Sound := by
    intro e l
    induction l with
    | nil => intro x hx; exact hx
    | cons y l ih =>
      intro x hx
      refine ih _ ?_
      have hid : x.1.newId.2.Sound := hx.same rfl
      exact hid.updCore.joinMerge
  have hstep : ∀ (x : State × List Part) (e : Elem), x.1.Sound → (step x e).1.Sound := by
    intro x e hx
    dsimp only [step]
    split
    · exact hx.cross
    · exact pieces e _ x hx
  have hfold : ∀ (l : List Elem) (x : State × List Part), x.1.Sound → (l.foldl step x).1.Sound := by
    intro l
    induction l with
    | nil => intro x hx; exact hx
    | cons e l ih => intro x hx; exact ih _ (hstep x e hx)
  have hdone : done.Sound := (hfold es (v, []) hv).complete
  have hqueued : queued.Sound := (hfold es (v, []) hv).updCore
  exact .ite (.ite hdone.updCore.left hdone.done) (.ite hqueued.updCore.left (.ite hqueued.updCore.left hqueued.done))

/-- A store performed at issue that is accepted leaves a sound state. -/
theorem State.Sound.storeOwn (h : s.Sound) {n : Nat} {e : Elem} {x : Word} {rel : Option Nat} {t : State}
    (ht : s.storeOwn n e x rel = .ok t) : t.Sound := by
  unfold State.storeOwn at ht
  split at ht
  · split at ht
    · cases ht
    · cases ht; exact h.applyTile
  · cases ht; exact h.applyAccess

theorem State.Sound.storeList (h : s.Sound) {n : Nat} {rel : Option Nat} {l : List (Elem × Word)} {t : State}
    (ht : s.storeList n rel l = .ok t) : t.Sound := by
  induction l generalizing s with
  | nil => cases ht; exact h
  | cons y l ih =>
    obtain ⟨e, x⟩ := y
    rw [State.storeList] at ht
    split at ht
    · split at ht
      · rename_i ho; exact ih (h.storeOwn ho) ht
      · cases ht
    · refine ih (h.foldl (fun u y hu => ?_) _) ht
      have hid : u.newId.2.Sound := hu.same rfl
      exact hid.updCore

theorem State.Sound.issueStores (h : s.Sound) {n : Nat} {l : List (Elem × Word)} {rel : Option Nat} :
    (s.issueStores n l rel).Sound := by
  unfold State.issueStores
  extract_lets es
  refine .ite h ?_
  split
  · rename_i ht; exact h.takeTags.storeList ht
  · exact h

/-! ### Arbitration points -/

theorem State.Sound.setPoint (h : s.Sound) {k i : Nat} {p : Point} : (s.setPoint k i p).Sound := h.same rfl
theorem State.Sound.updExceed (h : s.Sound) {o k : Nat} {f : Exceed → Exceed} : (s.updExceed o k f).Sound := h.updOwner

theorem State.Sound.lotterySlot (h : s.Sound) {k i : Nat} {reqs : List (Nat × Nat)} {held : List Nat} :
    (s.lotterySlot k i reqs held).2.Sound := by
  unfold State.lotterySlot
  extract_lets p won present winner waits next u v
  have hv : v.Sound := State.Sound.foldl h.setPoint (fun _ _ hx => hx.updExceed) _
  clear_value v
  cases winner with
  | none => exact hv
  | some o => exact hv.updExceed

theorem State.Sound.updAccess (h : s.Sound) {n id : Nat} {f : Access → Access} : (s.updAccess n id f).Sound := h.same rfl
theorem State.Sound.updTraffic (h : s.Sound) {x y : Traffic} : (s.updTraffic x y).Sound := h.same rfl
theorem State.Sound.goOn (h : s.Sound) {x : Traffic} : (s.goOn x).Sound := .ite (h.same rfl) h.updTraffic

theorem State.Sound.arrive (h : s.Sound) {k i : Nat} : (s.arrive k i).Sound := by
  unfold State.arrive
  extract_lets may u v
  have hu : u.Sound := h.foldl (fun _ _ hx => .ite hx.debit.updAccess hx) _
  have hv : v.Sound := hu.foldl (fun _ _ hx => .ite hx.debit.updTraffic hx) _
  exact .ite (hv.foldl (fun _ _ hx => .ite hx.debit.updCore hx) _) hv

theorem State.Sound.openRow (h : s.Sound) {i o pa : Nat} : (s.openRow i o pa).Sound := by
  unfold State.openRow
  extract_lets key l m u
  have hu : u.Sound :=
    State.Sound.foldl (h.foldl (fun _ _ hx => hx.updAccess) _) (fun _ _ hx => hx.goOn) _
  clear_value u
  exact hu.same rfl

theorem State.Sound.grantAccess (h : s.Sound) {k i who : Nat} : (s.grantAccess k i who).Sound := by
  unfold State.grantAccess
  split
  · extract_lets u v
    have hu : u.Sound := h.updAccess
    have hv : v.Sound := .ite (hu.same rfl) hu
    exact .ite hv.openRow hv
  · exact .ite h.goOn.openRow h.goOn
  · exact h

theorem State.Sound.grantPort (h : s.Sound) {t n : Nat} : (s.grantPort t n).Sound := h.updCore
theorem State.Sound.grantAtPort (h : s.Sound) {t n : Nat} : (s.grantAtPort t n).Sound := .ite h.grantAccess h.grantPort
theorem State.Sound.enterPort (h : s.Sound) {t j o who tag : Nat} : (s.enterPort t j o who tag).Sound := h.debit.updCore

theorem State.Sound.drawPort (h : s.Sound) {t who j tag k : Nat} : (State.drawPort t who j tag k s).Sound := by
  induction k generalizing s with
  | zero => exact h
  | succ k ih =>
    rw [State.drawPort]
    refine .ite h ?_
    extract_lets l present held
    have hl := h.lotterySlot (k := 9) (i := t) (reqs := present) (held := held)
    split
    all_goals rename_i hx; rw [hx] at hl
    · exact ih hl.grantAtPort
    · exact hl

theorem State.Sound.winPort (h : s.Sound) {t j o who tag : Nat} : (s.winPort t j o who tag).2.Sound := by
  unfold State.winPort
  extract_lets ask u
  have hask : ∀ u : State, u.Sound → (ask u).2.Sound := by
    intro u hu
    dsimp only [ask]
    split
    · exact hu.updCore
    · exact hu
  split
  · exact hask s h
  · split
    · exact h
    · exact hask _ h.enterPort.drawPort

theorem State.Sound.waitPort (h : s.Sound) {t j o who tag : Nat} : (s.waitPort t j o who tag).Sound := h.updCore

/-- A message that passes a port, or comes to wait there, leaves a sound state. -/
theorem State.Sound.passPort (h : s.Sound) {t j o who tag : Nat} {b : Bool} {u : State}
    (hu : s.passPort t j o who tag = .some (b, u)) : u.Sound := by
  unfold State.passPort at hu
  have hw := h.winPort (t := t) (j := j) (o := o) (who := who) (tag := tag)
  dsimp only at hu
  split at hu
  all_goals rename_i hx; rw [hx] at hw
  · cases hu; exact hw.updCore
  · split at hu
    · cases hu
    · cases hu; exact hw.waitPort

/-! ### The dispatcher and the ring engine -/

theorem State.Sound.enter (h : s.Sound) {n : Nat} {x : Handler} {s1 s2 s3 s4 : Word} : (s.enter n x s1 s2 s3 s4).Sound := h.same rfl
theorem State.Sound.inboxRecord (h : s.Sound) {n : Nat} {c : Core} : (s.inboxRecord n c).Sound := h.setCore.enter

theorem State.Sound.dispatchNow (h : s.Sound) {n : Nat} : (s.dispatchNow n).Sound := by
  unfold State.dispatchNow
  extract_lets c
  split
  · exact h
  · dsimp only; split
    · exact .ite h.setCore.enter h.inboxRecord
    · exact h.inboxRecord
  · exact h.setCore.enter
  · exact h.setCore.enter

theorem State.Sound.transferNow (h : s.Sound) {n : Nat} : (s.transferNow n).Sound := by
  unfold State.transferNow
  split
  · exact h
  · exact h.updCore.enter

theorem State.Sound.engineAct (h : s.Sound) {n j : Nat} : SoundOption (s.engineAct n j) := by
  unfold State.engineAct
  extract_lets c g r kind halted t i d u
  have hu : u.Sound := h.failSplices
  refine .ite soundOption_none (.ite (.ite soundOption_none h.setCore.some) (.ite soundOption_none (.ite (.ite ?_ ?_) (.ite ?_ ?_))))
  · exact State.Sound.mapSome fun _ => h.setCore
  · exact .ite h.setCore.some (.ite soundOption_none h.updCore.updCore.some)
  · exact State.Sound.some (.ite hu.updCore hu)
  · exact .ite h.setCore.some soundOption_none

theorem State.Sound.engineMove (h : s.Sound) {n j : Nat} : SoundOption (s.engineMove n j) :=
  h.engineAct.map fun _ hu => hu.restIdle

theorem State.Sound.handlerReads (h : s.Sound) {n : Nat} {r : Rec} : (s.handlerReads n r).Sound := by
  unfold State.handlerReads
  extract_lets read u
  have hread : ∀ (v : State) (a : Word), v.Sound → (read v a).Sound := fun v a hv => .ite hv hv.walkTouch
  have hu : u.Sound := .ite h (hread s _ h)
  exact .ite hu (hread u _ hu)

theorem State.Sound.spliceNow (h : s.Sound) {n j : Nat} : SoundOption (s.spliceNow n j) := by
  unfold State.spliceNow
  extract_lets c rings heads r
  refine .ite soundOption_none (.ite h.failSplices.some ?_)
  split
  · exact h.handlerReads.failSplices.some
  · exact .ite soundOption_none h.handlerReads.recordFault.some
  · exact .ite h.handlerReads.commitAfter.some (.ite soundOption_none h.handlerReads.updCore.some)

theorem State.Sound.commitNow (h : s.Sound) {n j : Nat} : SoundOption (s.commitNow n j) := by
  unfold State.commitNow
  split
  · exact .ite h.updCore.commitSplice.some soundOption_none
  · exact soundOption_none

theorem State.Sound.spliceMove (h : s.Sound) {n j : Nat} : SoundOption (s.spliceMove n j) := h.commitNow.orElse h.spliceNow

theorem State.Sound.alignNow (h : s.Sound) {n j : Nat} : SoundOption (s.alignNow n j) := by
  unfold State.alignNow
  dsimp only
  split
  · exact soundOption_none
  · exact .ite h.failSplices.some soundOption_none

theorem State.Sound.block (h : s.Sound) {n cause ring core : Nat} : (s.block n cause ring core).Sound := h.updCore

theorem State.Sound.wake (h : s.Sound) {n : Nat} : (s.wake n).Sound := by
  unfold State.wake
  split
  · split
    · exact h.updCore
    · exact State.Sound.updCore (.ite h.updCore h)
  · exact h

theorem State.Sound.takeSlot (h : s.Sound) {n t j : Nat} : (s.takeSlot n t j).2.Sound := h.winPort
theorem State.Sound.waitSlot (h : s.Sound) {n t j cause : Nat} : (s.waitSlot n t j cause).Sound := h.waitPort.block

/-! ### Instruction fetch -/

theorem State.Sound.choose (h : s.Sound) : s.choose.2.Sound := by
  unfold State.choose
  split
  · exact h.same rfl
  · exact h

theorem State.Sound.fillCode (h : s.Sound) {n : Nat} {va : Word} {pa : Nat} {leaf : Word} : (s.fillCode n va pa leaf).2.Sound := by
  unfold State.fillCode
  extract_lets c acc first u line cache v w key x
  have hu : u.Sound := h.detect.joinFill
  have hw : w.Sound := hu.cross.touch
  clear_value w
  split
  · exact hw
  · exact hw.updCore

theorem State.Sound.fetchAhead (h : s.Sound) {n : Nat} : (s.fetchAhead n).Sound := by
  unfold State.fetchAhead
  extract_lets c a
  refine .ite h ?_
  have hc := h.choose
  split
  all_goals rename_i hx; rw [hx] at hc
  · exact hc
  · rename_i u _
    have ht := State.Sound.translate hc (k := .core n) (o := c.own) (sup := c.sup) (va := a) (r := false) (w := false) (x := true)
    split
    · rename_i ht'; rw [ht'] at ht; exact ht.fillCode
    · exact hc

/-- What a fetch leaves is sound. -/
def Fetch.Sound : Fetch → Prop
  | .word s _ => s.Sound
  | .stop a => a.Sound

theorem State.Sound.fetch (h : s.Sound) {n : Nat} : (s.fetch n).Sound := by
  unfold State.fetch
  extract_lets c a
  split
  · exact h
  · split
    · exact h.fetchAhead
    · exact h.setCore.fetchAhead
    · have hx := h.xlate (n := n) (va := c.pc) (r := false) (w := false) (x := true)
        (k := fun s pa leaf => .ok s ⟨0, .main (Leaf.image leaf), pa, 4, c.pc, leaf⟩) (fun _ _ _ hu => hu)
      split
      · rename_i hno; rw [hno] at hx; exact hx
      · rename_i e hok
        rw [hok] at hx
        have hf := State.Sound.fillCode hx (n := n) (va := c.pc) (pa := e.addr) (leaf := e.leaf)
        split
        all_goals rename_i hfill; rw [hfill] at hf
        · exact State.Sound.ite hf hf.consumed
        · exact hf.fetchAhead

/-! ### Control registers, branches and ends -/

theorem State.Sound.writeCtl (h : s.Sound) {n k : Nat} {v : Word} : (s.writeCtl n k v).Sound := by
  unfold State.writeCtl
  extract_lets c owner
  have howner : ∀ f, (owner f).Sound := fun f => h.updOwner
  split
  case h_17 => exact h
  all_goals first | exact h.setCore | exact howner _
end

end Sys2Proof.Machine
end

section
/-!
What every step keeps, continued: loads, stores, atomics, fences, range operations and messages
(spec/10_memory_sync_messages.md), and vector instructions (spec/11_vector.md).
-/
namespace Sys2Proof.Machine

section
variable {s : State}

/-! ### Loads, stores and full/empty accesses -/

/-- An instruction that goes on where a check passes. -/
theorem Chk.Sound.elim {c : Chk} (hc : c.Sound) {k : State → Elem → Act} (hk : ∀ u e, u.Sound → (k u e).Sound) :
    (match c with | .no a => a | .ok s e => k s e).Sound := by
  cases c with
  | ok u e => exact hk u e hc
  | no a => exact hc

theorem State.Sound.load (h : s.Sound) {n : Nat} {d : BitVec 5} {ea : Word} {z : Nat} {signed aligned acq : Bool} :
    (s.load n d ea z signed aligned acq).Sound := by
  unfold State.load
  extract_lets dst
  have hc := h.check (n := n) (form := .plain) (lane := 0) (ea := ea) (z := z) (aligned := aligned) (r := true) (w := false)
  split
  all_goals rename_i hx; rw [hx] at hc
  · exact hc
  · exact State.Sound.issueLoads hc

theorem State.Sound.store (h : s.Sound) {n : Nat} {d : BitVec 5} {ea : Word} {z : Nat} {aligned : Bool} {rel : Option Nat} :
    (s.store n d ea z aligned rel).Sound := by
  unfold State.store
  extract_lets v
  have hc := h.check (n := n) (form := .plain) (lane := 0) (ea := ea) (z := z) (aligned := aligned) (r := false) (w := true)
  split
  all_goals rename_i hx; rw [hx] at hc
  · exact hc
  · exact State.Sound.issueStores hc

theorem State.Sound.plainLoad (h : s.Sound) {gd : Guard} {d b : BitVec 5} {o : BitVec 7} {z : Nat} {signed : Bool} :
    SoundOutcome (plainLoad gd s d b o z signed) := h.scalarOp h.load
theorem State.Sound.plainStore (h : s.Sound) {gd : Guard} {d b : BitVec 5} {o : BitVec 7} {z : Nat} :
    SoundOutcome (plainStore gd s d b o z) := h.scalarOp h.store

theorem State.Sound.feOwn (h : s.Sound) {n : Nat} {op : FeOp} {e : Elem} {v : Word} {ret : Option SReg} {a : Access} :
    (s.feOwn n op e v ret a).Sound := by
  unfold State.feOwn
  refine .ite h.stall ?_
  split
  · exact h.setCore.joinStore.fePort.giveBack.done
  · exact h.updCore.left

theorem State.Sound.feRemote (h : s.Sound) {n : Nat} {op : FeOp} {e : Elem} {a : Access} : (s.feRemote n op e a).Sound :=
  .ite h.stall (.ite h.updCore.updCore.left h.updCore.done)

theorem State.Sound.newId (h : s.Sound) : s.newId.2.Sound := h.same rfl

theorem State.Sound.fullEmpty (h : s.Sound) {n : Nat} {op : FeOp} {d : BitVec 5} {ea : Word} {z : Nat} :
    (s.fullEmpty n op d ea z).Sound := by
  unfold State.fullEmpty
  extract_lets v ret
  have hc := h.check (n := n) (form := .fe) (lane := 0) (ea := ea) (z := z) (aligned := true) (r := op.returns) (w := !op.returns)
  split
  all_goals rename_i hx; rw [hx] at hc
  · exact hc
  · exact .ite (State.Sound.feOwn hc) (State.Sound.newId hc).feRemote

theorem State.Sound.feInstr (h : s.Sound) {gd : Guard} {op : FeOp} {d b : BitVec 5} {z : BitVec 1} {o : BitVec 6} :
    SoundOutcome (feInstr gd s op d b z o) := by
  unfold Machine.feInstr
  exact h.scalarOp h.fullEmpty

/-! ### Atomics, fences and range operations -/

theorem State.Sound.sendAtomic (h : s.Sound) {n : Nat} {e : Elem} {op : AccOp} {ret : Option SReg} {acq : Bool} {rel : Option Nat} :
    (s.sendAtomic n e op ret acq rel).Sound :=
  .ite (.ite h.stall h.applyAccess.giveBack.done) (.ite h.stall h.newId.updCore.done)

theorem State.Sound.atomic (h : s.Sound) {n : Nat} {op : AtomOp} {z : Nat} {ret : Option (BitVec 5)} {a b : BitVec 5} :
    (s.atomic n op z ret a b).Sound := by
  unfold State.atomic
  extract_lets c d x e0 acq
  have hc := h.check (n := n) (form := .atom) (lane := 0) (ea := c.s a) (z := z) (aligned := true) (r := true) (w := true)
  split
  all_goals rename_i hx; rw [hx] at hc
  · exact hc
  · exact State.Sound.sendAtomic hc

theorem State.Sound.decrementWake (h : s.Sound) {n : Nat} {ret : Option (BitVec 5)} {a b : BitVec 5} :
    (s.decrementWake n ret a b).Sound := by
  unfold State.decrementWake
  extract_lets c d amount acq
  have hc := h.check (n := n) (form := .dec) (lane := 0) (ea := c.s a) (z := 4) (aligned := true) (r := true) (w := true)
  split
  all_goals rename_i hx; rw [hx] at hc
  · exact hc
  · exact State.Sound.sendAtomic hc

theorem State.Sound.fence (h : s.Sound) {n : Nat} {all : Bool} {σ : Nat} : (s.fence n all σ).Sound := h.newId.updCore

/-- What the lines of a range leave is sound. -/
def RangeRes.Sound : RangeRes → Prop
  | .all s => s.Sound
  | .no a => a.Sound

theorem RangeRes.Sound.act {r : RangeRes} (h : r.Sound) : r.act.Sound := by
  cases r <;> exact h

theorem State.Sound.rangeLines (h : s.Sound) {n : Nat} {op : RangeOp} {q w : Bool} {line k : Nat} :
    (s.rangeLines n op q w line k).Sound := by
  induction k generalizing s line with
  | zero => exact h
  | succ k ih =>
    rw [State.rangeLines]
    have hc := h.check (n := n) (form := .range) (lane := 0) (ea := BitVec.ofNat 64 (128 * line)) (z := 128) (aligned := false) (r := !w) (w := w)
    split
    · split
      · exact ih h.updCore
      · exact h.trap
    · split
      all_goals rename_i hx; rw [hx] at hc
      · exact hc
      · split
        · exact ih hc
        · split
          · exact ih (State.Sound.newId hc).updCore.updCore
          · exact State.Sound.stall hc

theorem State.Sound.rangeOp (h : s.Sound) {n : Nat} {op : RangeOp} {q w : Bool} {a b : BitVec 5} : (s.rangeOp n op q w a b).Sound := by
  unfold State.rangeOp
  extract_lets c len
  split
  · exact h.trap
  · have hl := h.rangeLines (n := n) (op := op) (q := q) (w := w) (line := (c.s a).toNat / 128 + c.rangeAt)
      (k := rangeCount (c.s a) len - c.rangeAt)
    split
    all_goals rename_i hx; rw [hx] at hl
    · exact State.Sound.updCore hl
    · exact hl

theorem State.Sound.execIcsync (h : s.Sound) {gd : Guard} {a b : BitVec 5} : SoundOutcome (execIcsync gd a b s) := by
  refine h.scalarOp ?_
  dsimp only
  have hr := h.rangeOp (n := s.cur) (op := .icinv) (q := false) (w := false) (a := a) (b := b)
  split
  all_goals rename_i hx; rw [hx] at hr
  · exact hr
  · exact (State.Sound.updCore hr).done

theorem State.Sound.execIcinvRange (h : s.Sound) {gd : Guard} {a b : BitVec 5} : SoundOutcome (execIcinvRange gd a b s) := by
  refine h.scalarOp ?_
  have hr := h.rangeOp (n := s.cur) (op := .icinv) (q := true) (w := false) (a := a) (b := b)
  split
  all_goals rename_i hx; rw [hx] at hr
  · exact hr
  · exact (State.Sound.updCore hr).left

/-! ### Messages, rings and asynchronous loads -/

theorem State.Sound.storeWords (h : s.Sound) {n a : Nat} {ws : List Word} : (s.storeWords n a ws).Sound :=
  (h.foldl (fun _ _ hu => hu.plateStore) _).joinOrder

theorem State.Sound.enterStore (h : s.Sound) {n t : Nat} {op : AccOp} : (s.enterStore n t op).Sound :=
  .ite h.newId.applyAccess.done h.newId.updCore.done

theorem State.Sound.sendTo (h : s.Sound) {n t j cause : Nat} {op : AccOp} : (s.sendTo n t j cause op).Sound := by
  unfold State.sendTo
  refine .ite h.stall (.ite h.stall (.ite h.stall ?_))
  have ht := h.takeSlot (n := n) (t := t) (j := j)
  split
  all_goals rename_i hx; rw [hx] at ht
  · exact ht.enterStore
  · exact .ite ht.stall ht.waitSlot.left

theorem State.Sound.inlineCall (h : s.Sound) {n : Nat} {m : Rec} : (s.inlineCall n m).Sound := by
  unfold State.inlineCall
  extract_lets c sp f base frame u k v
  have hv : v.Sound := h.storeWords.updCore
  exact .ite h.trap (.ite h.trap (.ite h.stall hv.withFreeCtr.jump))

theorem State.Sound.execSend (h : s.Sound) {gd : Guard} {a b : BitVec 5} : SoundOutcome (execSend gd a b s) := by
  refine h.scalarOp ?_
  extract_lets c t m inline
  refine .ite h.trap (.ite h.trap (.ite h.inlineCall ?_))
  have ht : (if (inline && (s.core s.cur).portWait.any fun q => !q.granted) = true then s.takeSlot s.cur t 0 else (true, s)).2.Sound := by
    split
    · exact h.takeSlot
    · exact h
  generalize (if (inline && (s.core s.cur).portWait.any fun q => !q.granted) = true then s.takeSlot s.cur t 0 else (true, s)) = p
    at ht ⊢
  obtain ⟨b, u⟩ := p
  have hu : u.Sound := ht
  cases b with
  | false => exact Act.Sound.ite hu.stall hu.unwait.inlineCall
  | true => exact h.sendTo

theorem State.Sound.push (h : s.Sound) {n : Nat} {tgt : PushTo} {r : Rec} : (s.push n tgt r).Sound := by
  cases tgt with
  | ring t j => exact h.sendTo
  | rack j k =>
    unfold State.push
    refine .ite h.stall ?_
    split
    · exact h.setCore.done
    · exact h.stall

theorem State.Sound.pushRead (h : s.Sound) {n : Nat} {tgt : PushTo} {src r : Rec} : (s.pushRead n tgt src r).Sound := by
  unfold State.pushRead
  have hp := h.push (n := n) (tgt := tgt) (r := r)
  split
  · rename_i hx; rw [hx] at hp; exact (State.Sound.updCore hp).left
  · rename_i hx; rw [hx] at hp; exact (State.Sound.updCore hp).done
  · exact hp

theorem State.Sound.execRpush (h : s.Sound) {gd : Guard} {a b : BitVec 5} : SoundOutcome (execRpush gd a b s) := by
  refine h.scalarOp ?_
  extract_lets c
  cases s.pushTarget s.cur (c.s a) with
  | none => exact h.trap
  | some tgt =>
    cases ownRecord s.cur (c.s b) with
    | error cause => exact h.trap
    | ok off => exact Act.Sound.ite h.stall (.ite h.trap h.pushRead)

theorem State.Sound.execRpop (h : s.Sound) {gd : Guard} {d a b : BitVec 5} : SoundOutcome (execRpop gd d a b s) := by
  refine h.scalarOp ?_
  extract_lets c
  cases c.queueRing (c.s b) with
  | none => exact h.trap
  | some j =>
    cases ownRecord s.cur (c.s a) with
    | error cause => exact h.trap
    | ok off => exact Act.Sound.ite h.block.left (.ite h.stall h.storeWords.updCore.done)

theorem State.Sound.execRpeek (h : s.Sound) {gd : Guard} {d b : BitVec 5} : SoundOutcome (execRpeek gd d b s) := by
  refine h.scalarOp ?_
  extract_lets c
  split
  · exact h.trap
  · exact .ite h.stall h.setCore.done

theorem State.Sound.issueAsync (h : s.Sound) {n : Nat} {e : Elem} {reply work : Word} : (s.issueAsync n e reply work).Sound :=
  .ite h.issueLoads h.takeTags.newId.cross.updCore.done

theorem State.Sound.execAldD (h : s.Sound) {gd : Guard} {a b : BitVec 5} : SoundOutcome (execAldD gd a b s) := by
  refine h.scalarOp ?_
  extract_lets c reply
  refine .ite h.trap ?_
  have hc := h.check (n := s.cur) (form := .async) (lane := 0) (ea := c.s a) (z := 8) (aligned := true) (r := true) (w := false)
  split
  all_goals rename_i hx; rw [hx] at hc
  · exact hc
  · refine .ite (State.Sound.stall hc) (.ite (State.Sound.stall hc) ?_)
    have ht := State.Sound.takeSlot hc (n := s.cur) (t := s.cur) (j := 0)
    split
    all_goals rename_i ht'; rw [ht'] at ht
    · exact .ite ht.stall ht.waitSlot.left
    · exact ht.issueAsync

/-! ### Vector instructions -/

theorem State.Sound.grant (h : s.Sound) {n : Nat} {d : BitVec 5} {g q : Nat} : (s.grant n d g q).Sound := h.setLanes.updCore

theorem State.Sound.execClaim (h : s.Sound) {gd : Guard} {d a : BitVec 5} {k : BitVec 9} : SoundOutcome (execClaim gd d a k s) :=
  h.scalarOp (.ite h.trap (.ite h.updCluster.updCore.done (.ite h.stall h.debit.updCluster.stall)))

theorem State.Sound.execVrelease (h : s.Sound) {gd : Guard} {d a : BitVec 5} {k : BitVec 9} : SoundOutcome (execVrelease gd d a k s) :=
  h.scalarOp (.ite h.trap h.grant.done)

theorem State.Sound.vload (h : s.Sound) {gd : Guard} {d : BitVec 5} {z : BitVec 2} {f : Core → Nat → Word} :
    SoundOutcome (vload gd s d z f) := by
  refine soundOutcome_laneOp ?_
  have hc := h.checkAll (n := s.cur) (form := .plain) (z := 2 ^ z.toNat) (aligned := false) (r := true) (w := false)
    (l := (s.core s.cur).laneAddrs gd (f (s.core s.cur))) (acc := [])
  split
  all_goals rename_i hx; rw [hx] at hc
  · exact hc
  · exact .ite (State.Sound.done hc) (State.Sound.issueLoads hc)

theorem State.Sound.vstore (h : s.Sound) {gd : Guard} {d : BitVec 5} {z : BitVec 2} {f : Core → Nat → Word} :
    SoundOutcome (vstore gd s d z f) := by
  refine soundOutcome_laneOp ?_
  extract_lets c
  have hc := h.checkAll (n := s.cur) (form := .plain) (z := 2 ^ z.toNat) (aligned := false) (r := false) (w := true)
    (l := c.laneAddrs gd (f c)) (acc := [])
  split
  all_goals rename_i hx; rw [hx] at hc
  · exact hc
  · exact State.Sound.issueStores hc

theorem State.Sound.lanewise (h : s.Sound) {n : Nat} {gd : Guard} {d w : Nat} {rounds : Bool} {f : Nat → RMode → Nat} :
    (s.lanewise n gd d w rounds f).Sound := h.setCore

theorem State.Sound.vfloat (h : s.Sound) {gd : Guard} {d a b : BitVec 5} {f : BitVec 2} {rounds : Bool}
    {op : FFmt → RMode → Nat → Nat → Nat} : SoundOutcome (vfloat gd s d a b f rounds op) := soundOutcome_laneOp h.lanewise.done

theorem State.Sound.vint (h : s.Sound) {gd : Guard} {d a b : BitVec 5} {x : BitVec 1}
    {op : {w : Nat} → BitVec 1 → BitVec w → BitVec w → BitVec w} : SoundOutcome (vint gd s d a b x op) :=
  soundOutcome_laneOp h.lanewise.done

theorem State.Sound.execVfma (h : s.Sound) {gd : Guard} {d a b c : BitVec 5} : SoundOutcome (execVfma gd d a b c s) :=
  soundOutcome_laneOp h.lanewise.done

theorem State.Sound.withType (h : s.Sound) {c : Core} {gd : Guard} {code r : Nat} {k : EType → Act} (hk : ∀ t, (k t).Sound) :
    (s.withType c gd code r k).Sound := by
  unfold State.withType
  split
  · exact hk _
  · exact .ite (hk _) h.trap

theorem State.Sound.execVcmp (h : s.Sound) {gd : Guard} {d a b : BitVec 5} {x : BitVec 1} {cc : BitVec 3} :
    SoundOutcome (execVcmp gd d a b x cc s) := soundOutcome_laneOp (h.withType fun _ => h.setCore.done)
theorem State.Sound.execVcvt (h : s.Sound) {gd : Guard} {d a b : BitVec 5} {t : BitVec 4} :
    SoundOutcome (execVcvt gd d a b t s) := soundOutcome_laneOp (h.withType fun _ => h.withType fun _ => h.lanewise.done)
theorem State.Sound.execVcvn (h : s.Sound) {gd : Guard} {d a b : BitVec 5} {t : BitVec 4} :
    SoundOutcome (execVcvn gd d a b t s) := soundOutcome_laneOp (h.withType fun _ => h.setCore.done)
theorem State.Sound.execVpack4 (h : s.Sound) {gd : Guard} {d a : BitVec 5} : SoundOutcome (execVpack4 gd d a s) :=
  soundOutcome_laneOp h.lanewise.done
theorem State.Sound.execVunp4 (h : s.Sound) {gd : Guard} {d a : BitVec 5} : SoundOutcome (execVunp4 gd d a s) :=
  soundOutcome_laneOp h.lanewise.done
theorem State.Sound.execVpack6 (h : s.Sound) {gd : Guard} {d a b : BitVec 5} : SoundOutcome (execVpack6 gd d a b s) :=
  soundOutcome_laneOp h.setCore.done
theorem State.Sound.execVunp6 (h : s.Sound) {gd : Guard} {d a b : BitVec 5} : SoundOutcome (execVunp6 gd d a b s) :=
  soundOutcome_laneOp h.lanewise.done
theorem State.Sound.vreduce (h : s.Sound) {gd : Guard} {d a : BitVec 5} {op : RedOp} : SoundOutcome (vreduce gd s d a op) :=
  soundOutcome_laneOp (h.withType fun _ => .ite h.done h.setCore.done)
theorem State.Sound.vscan (h : s.Sound) {gd : Guard} {d a : BitVec 5} {op : RedOp} : SoundOutcome (vscan gd s d a op) :=
  soundOutcome_laneOp (h.withType fun _ => .ite h.done h.setCore.done)
theorem State.Sound.vmove (h : s.Sound) {gd : Guard} {d : BitVec 5} {f : Core → Nat → Nat} : SoundOutcome (vmove gd s d f) :=
  soundOutcome_laneOp h.lanewise.done
theorem State.Sound.execVslideup (h : s.Sound) {gd : Guard} {d a b : BitVec 5} : SoundOutcome (execVslideup gd d a b s) :=
  soundOutcome_laneOp h.setCore.done
theorem State.Sound.execVins (h : s.Sound) {gd : Guard} {d a b : BitVec 5} : SoundOutcome (execVins gd d a b s) :=
  soundOutcome_laneOp h.setCore.done
theorem State.Sound.vapprox (h : s.Sound) {gd : Guard} {d a : BitVec 5} {f : BitVec 2} {op : FFmt → Nat → Nat} :
    SoundOutcome (vapprox gd s d a f op) := soundOutcome_laneOp h.lanewise.done
end

end Sys2Proof.Machine
end

section
/-!
What every step keeps, continued: control registers and branches (spec/09_scalar.md), jobs, agents and accumulator tiles
(spec/12_matrix_copy_jobs.md), sum trees (spec/13_sum_trees.md), draws, splices, ring binding and the instructions of the
supervisor (spec/14_draws_system_traps.md).
-/
namespace Sys2Proof.Machine

section
variable {s : State}

/-! ### Control registers and branches -/

theorem State.Sound.execRdctl (h : s.Sound) {gd : Guard} {d : BitVec 5} {k : BitVec 10} : SoundOutcome (execRdctl gd d k s) :=
  h.scalarOp (.ite h.stall h.updCore.done)

theorem State.Sound.execWrctl (h : s.Sound) {gd : Guard} {d : BitVec 5} {k : BitVec 10} : SoundOutcome (execWrctl gd d k s) :=
  .ite (h.privOp (.ite h.trap h.writeCtl.done)) (h.scalarOp (.ite h.trap h.writeCtl.done))

theorem State.Sound.execJalr (h : s.Sound) {gd : Guard} {d a : BitVec 5} {i : BitVec 10} : SoundOutcome (execJalr gd d a i s) :=
  h.scalarOp (.ite h.trap h.setCore.jump)

theorem State.Sound.endInstr (h : s.Sound) {gd : Guard} {requeue : Bool} : SoundOutcome (endInstr gd s requeue) :=
  h.scalarOp (.ite h.stall h.endHandler.left)

/-! ### Jobs -/

theorem State.Sound.acceptJob (h : s.Sound) {n : Nat} {d : BitVec 5} {p : Spec} : (s.acceptJob n d p).Sound :=
  (h.updCluster.foldl (fun _ _ hu => hu.takeAcc) _).updCore

theorem State.Sound.admitJob (h : s.Sound) {n : Nat} {d : BitVec 5} {p : Spec} : (s.admitJob n d p).Sound :=
  .ite (.ite h.acceptJob.done h.stall) (.ite h.stall h.debit.updCluster.stall)

theorem State.Sound.jobInstr (h : s.Sound) {gd : Guard} {d a : BitVec 5} {len : Nat}
    {card : State → Nat → List Word → Except (BitVec 8 × Word) Spec} : SoundOutcome (jobInstr gd s d a len card) := by
  refine h.scalarOp ?_
  extract_lets c
  split
  · exact h.trap
  · split
    · exact h.trap
    · exact h.admitJob

theorem State.Sound.dropWake (h : s.Sound) {g e : Nat} {j : Job} : (s.dropWake g e j).Sound := .ite h.updCore h

theorem State.Sound.freeJob (h : s.Sound) {g e : Nat} : (s.freeJob g e).Sound := by
  refine State.Sound.updCluster ?_
  split
  · exact .ite h.newId.updCore.withDevMsgs h
  · exact h

theorem State.Sound.execJpoll (h : s.Sound) {gd : Guard} {d a : BitVec 5} : SoundOutcome (execJpoll gd d a s) := by
  refine h.scalarOp ?_
  extract_lets id
  split
  · exact h.trap
  · exact h.updCore.done
  · exact (State.Sound.ite h.freeJob h).updCore.done

theorem State.Sound.execJwait (h : s.Sound) {gd : Guard} {d a : BitVec 5} : SoundOutcome (execJwait gd d a s) := by
  refine h.scalarOp ?_
  extract_lets id
  split
  · exact h.trap
  · exact h.updCore.done
  · split
    · exact h.freeJob.trap
    · exact h.updCore.done
    · exact h.updCore.done
    · exact h.updCore.stall

theorem State.Sound.execJcancel (h : s.Sound) {gd : Guard} {a : BitVec 5} : SoundOutcome (execJcancel gd a s) := by
  refine h.scalarOp ?_
  extract_lets id g
  have dropped : ∀ {e : Nat} {j : Job} {f : Cluster → Cluster}, ((s.dropWake g e j).updCluster g f).Sound := h.dropWake.updCluster
  split
  · exact h.trap
  · exact h.done
  · split
    case h_1 | h_2 | h_3 => exact .ite h.updCluster.done (State.Sound.done (.ite dropped.failPeers dropped))
    · exact h.freeJob.done
    · exact h.done
    · exact h.done

/-! ### Steeps, racks and accumulator tiles -/

theorem State.Sound.agentInstr (h : s.Sound) {gd : Guard} {rack : Bool} {d a : BitVec 5} :
    SoundOutcome (agentInstr gd s rack d a) := by
  refine h.scalarOp ?_
  extract_lets c
  split
  · exact h.trap
  · extract_lets w
    split
    · exact h.trap
    · exact .ite (State.Sound.done h.updCore) h.stall

theorem State.Sound.stopAgent (h : s.Sound) {n k : Nat} {a : Agent} : (s.stopAgent n k a).Sound := by
  refine State.Sound.updCore (State.Sound.unwait (.ite ?_ h))
  split
  · exact h.applyTile
  · exact h

theorem State.Sound.execUnsubs (h : s.Sound) {gd : Guard} {a : BitVec 5} : SoundOutcome (execUnsubs gd a s) := by
  refine h.scalarOp ?_
  extract_lets c k
  split
  · exact h.trap
  · exact h.stopAgent.done

theorem State.Sound.execUnrack (h : s.Sound) {gd : Guard} {a : BitVec 5} : SoundOutcome (execUnrack gd a s) := by
  refine h.scalarOp ?_
  extract_lets c k
  split
  · exact h.trap
  · exact .ite h.trap (.ite h.stall h.stopAgent.done)

theorem State.Sound.withAcc (h : s.Sound) {n : Nat} {v : Word} {k : Nat → Act} (hk : ∀ t, (k t).Sound) : (s.withAcc n v k).Sound := by
  refine .ite h.trap ?_
  split
  · exact h.trap
  · exact hk _

theorem State.Sound.execAclr (h : s.Sound) {gd : Guard} {a : BitVec 5} : SoundOutcome (execAclr gd a s) :=
  h.scalarOp (h.withAcc fun _ => h.issueStores)

theorem State.Sound.execArdr (h : s.Sound) {gd : Guard} {d a b : BitVec 5} : SoundOutcome (execArdr gd d a b s) :=
  soundOutcome_laneOp (.ite h.done (.ite h.trap (.ite h.trap (h.withAcc fun _ => .ite h.stall h.takeAcc.setCore.updCore.left))))

theorem State.Sound.execAwrr (h : s.Sound) {gd : Guard} {d a b : BitVec 5} : SoundOutcome (execAwrr gd d a b s) :=
  soundOutcome_laneOp (.ite h.done (.ite h.trap (.ite h.trap (h.withAcc fun _ => .ite h.takeAcc.done h.issueStores))))

/-! ### Sum trees -/

theorem State.Sound.putTree (h : s.Sound) {n w : Nat} {t : Tree} : (s.putTree n w t).Sound := h.updCluster

theorem State.Sound.treeUpdate (h : s.Sound) {n w : Nat} {v : Word} {bad : Bool} {f : Tree → Tree} :
    (s.treeUpdate n w v bad f).Sound := by
  unfold State.treeUpdate
  split
  · exact h.trap
  · exact .ite h.stall h.putTree.done

theorem State.Sound.treeQuery (h : s.Sound) {n w : Nat} {d : BitVec 5} {v : Word} {bad : Bool} {f : Tree → Nat} :
    (s.treeQuery n w d v bad f).Sound := by
  unfold State.treeQuery
  split
  · exact h.trap
  · exact .ite h.stall h.putTree.updCore.done

theorem State.Sound.execWld (h : s.Sound) {gd : Guard} {t a b : BitVec 5} : SoundOutcome (execWld gd t a b s) := by
  refine h.scalarOp ?_
  extract_lets c k ea
  split
  · exact h.trap
  · refine .ite h.trap ?_
    have hc := h.checkAll (n := s.cur) (form := .plain) (z := 4) (aligned := false) (r := true) (w := false)
      (l := (List.range k.toNat).map fun i => (i, ea + BitVec.ofNat 64 (4 * i))) (acc := [])
    split
    all_goals rename_i hx; rw [hx] at hc
    · exact hc
    · exact .ite (State.Sound.stall hc) (State.Sound.issueLoads hc)

theorem State.Sound.execWst (h : s.Sound) {gd : Guard} {d t b : BitVec 5} : SoundOutcome (execWst gd d t b s) := by
  refine h.scalarOp ?_
  extract_lets ea
  split
  · exact h.trap
  · refine .ite h.trap ?_
    have hc := h.checkAll (n := s.cur) (form := .plain) (z := 4) (aligned := false) (r := false) (w := true)
      (l := (List.range 256).map fun i => (i, ea + BitVec.ofNat 64 (4 * i))) (acc := [])
    split
    all_goals rename_i hx; rw [hx] at hc
    · exact hc
    · rename_i u es
      have hu : u.Sound := hc
      refine .ite hu.stall ?_
      extract_lets x
      have hi := (hu.putTree (n := s.cur) (w := t.toNat) (t := x)).issueStores (n := s.cur)
        (l := es.map fun e => (e, BitVec.ofNat 64 (x.leaf e.lane))) (rel := none)
      split
      · rename_i hx
        rw [hx] at hi
        exact (State.Sound.updCore hi).done
      · exact hu.stall
      · exact hi

theorem State.Sound.execWldv (h : s.Sound) {gd : Guard} {t a b : BitVec 5} : SoundOutcome (execWldv gd t a b s) := by
  refine h.scalarOp ?_
  extract_lets c f lanes
  have hu := h.treeUpdate (n := s.cur) (w := t.toNat) (v := f) (bad := decide (255 < f.toNat)) (f := fun x =>
    x.loadAt f.toNat ((List.range lanes).map fun i =>
      BitVec.ofNat 32 (roundMass x.exp.toInt (f32.val (c.vn a i % 2 ^ 32)) (s.modeAt s.cur i))))
  split
  · rename_i hx
    rw [hx] at hu
    exact (State.Sound.updCore hu).done
  · exact hu

theorem State.Sound.execWexp (h : s.Sound) {gd : Guard} {t a : BitVec 5} : SoundOutcome (execWexp gd t a s) := by
  refine h.scalarOp ?_
  extract_lets v
  have hu := h.treeUpdate (n := s.cur) (w := t.toNat) (v := v) (bad := badExp v) (f := fun x =>
    x.rescale (v.extractLsb' 0 8) (s.modeAt s.cur))
  split
  · rename_i hx
    rw [hx] at hu
    exact (State.Sound.updCore hu).done
  · exact hu

theorem State.Sound.execWseq (h : s.Sound) {gd : Guard} {d t : BitVec 5} : SoundOutcome (execWseq gd d t s) := by
  refine h.scalarOp ?_
  split
  · exact h.trap
  · exact .ite h.stall (State.Sound.done h.putTree.updCore)

/-! ### Draws, splices and ring binding -/

theorem State.Sound.execRndV (h : s.Sound) {gd : Guard} {d : BitVec 5} : SoundOutcome (execRndV gd d s) :=
  soundOutcome_laneOp h.setCore.done

theorem State.Sound.execPdrop (h : s.Sound) {gd : Guard} {d a : BitVec 5} : SoundOutcome (execPdrop gd d a s) :=
  soundOutcome_laneOp h.setCore.done

theorem State.Sound.execWdraw (h : s.Sound) {gd : Guard} {d t : BitVec 5} : SoundOutcome (execWdraw gd d t s) := by
  refine h.scalarOp ?_
  extract_lets u
  have hu := h.treeQuery (n := s.cur) (w := t.toNat) (d := d) (v := 0) (bad := false) (f := fun x => x.search u)
  split
  · rename_i hx
    rw [hx] at hu
    exact (State.Sound.updCore hu).done
  · exact hu

theorem State.Sound.execSplice (h : s.Sound) {gd : Guard} {a b : BitVec 5} : SoundOutcome (execSplice gd a b s) := by
  refine h.scalarOp ?_
  extract_lets c
  cases s.pushTarget s.cur (c.s a) with
  | none => exact h.trap
  | some tgt =>
    cases ownRecord s.cur (c.s b) with
    | error cause => exact h.trap
    | ok off => exact Act.Sound.ite h.stall h.pushRead

theorem State.Sound.execRbind (h : s.Sound) {gd : Guard} {a b : BitVec 5} : SoundOutcome (execRbind gd a b s) := by
  refine h.scalarOp ?_
  extract_lets c ring
  split
  · exact h.trap
  · extract_lets w g
    split
    · exact h.trap
    · exact .ite h.setCore.done h.stall

theorem State.Sound.execRunbind (h : s.Sound) {gd : Guard} {b : BitVec 5} : SoundOutcome (execRunbind gd b s) :=
  h.scalarOp (.ite h.trap (.ite h.stall h.setCore.done))

/-! ### The supervisor -/

theorem State.Sound.execReseedPlace (h : s.Sound) {gd : Guard} : SoundOutcome (execReseedPlace gd s) :=
  h.scalarOp (.ite h.stall h.updOwner.done)

theorem State.Sound.execPlprobe (h : s.Sound) {gd : Guard} {d a b : BitVec 5} : SoundOutcome (execPlprobe gd d a b s) := by
  refine h.scalarOp ?_
  extract_lets c va k
  refine .ite h.trap ?_
  split
  · have hx := h.xlate (n := s.cur) (va := va) (r := true) (w := false) (x := false)
      (k := fun s pa leaf => .ok s ⟨0, .main .c, pa, 1, va, leaf⟩) (fun u pa leaf hu => hu)
    split
    all_goals rename_i hx'; rw [hx'] at hx
    · exact hx
    · exact .ite (State.Sound.stall hx) (State.Sound.updCore hx).done
  · exact h.trap

theorem State.Sound.execExcq (h : s.Sound) {gd : Guard} {a b : BitVec 5} : SoundOutcome (execExcq gd a b s) := by
  refine h.scalarOp ?_
  extract_lets c va v
  refine .ite h.trap ?_
  split
  · exact h.trap
  · have hc := h.checkAll (n := s.cur) (form := .plain) (z := 8) (aligned := false) (r := false) (w := true)
      (l := (List.range 160).map fun i => (i, va + BitVec.ofNat 64 (8 * i))) (acc := [])
    split
    all_goals rename_i hx; rw [hx] at hc
    · exact hc
    · rename_i u es
      have hu : u.Sound := hc
      extract_lets ws u'
      have hu' : u'.Sound := .ite hu.updOwner hu
      have hi := hu'.issueStores (n := s.cur) (l := es.map fun e => (e, ws.getD e.lane 0)) (rel := none)
      split
      · exact hu.stall
      · exact hi

theorem State.Sound.execTinv (h : s.Sound) {gd : Guard} {a b : BitVec 5} : SoundOutcome (execTinv gd a b s) :=
  h.privOp (.ite h.trap (State.Sound.left (State.Sound.updCore (State.Sound.markStale (.ite h.dropOwnerTlb h.dropPage)))))

theorem State.Sound.spill (h : s.Sound) {n q x : Nat} {tree : Bool} {ws : List Word} {f : Cluster → Cluster} :
    (s.spill n q x tree ws f).Sound := by
  unfold State.spill
  extract_lets g pa
  have hi := h.issueStores (n := n) (l := ((List.range ws.length).zip ws).map fun (i, w) => (slotElem pa i, w)) (rel := none)
  split
  · rename_i hx
    rw [hx] at hi
    exact (State.Sound.updCluster hi).done
  · exact hi

theorem State.Sound.execAspill (h : s.Sound) {gd : Guard} {a : BitVec 5} : SoundOutcome (execAspill gd a s) := by
  refine h.privOp ?_
  extract_lets v t g q
  refine .ite h.trap ?_
  split
  · exact .ite h.trap h.spill
  · exact h.done

theorem State.Sound.execWspill (h : s.Sound) {gd : Guard} {a : BitVec 5} : SoundOutcome (execWspill gd a s) := by
  refine h.privOp ?_
  extract_lets v w t
  refine .ite h.trap ?_
  split
  · exact h.spill
  · exact h.done

theorem State.Sound.execAtag (h : s.Sound) {gd : Guard} {a b : BitVec 5} : SoundOutcome (execAtag gd a b s) := by
  refine h.privOp ?_
  extract_lets c v x g
  split
  · exact h.trap
  · exact .ite h.issueLoads h.updCluster.done

theorem State.Sound.execWtag (h : s.Sound) {gd : Guard} {a b : BitVec 5} : SoundOutcome (execWtag gd a b s) := by
  refine h.privOp ?_
  extract_lets c v x g
  split
  · exact h.trap
  · exact .ite h.issueLoads h.updCluster.done

theorem State.Sound.execKeyld (h : s.Sound) {gd : Guard} {a b : BitVec 5} : SoundOutcome (execKeyld gd a b s) := by
  refine h.privOp ?_
  extract_lets +onlyGivenNames c v
  split
  · exact h.trap
  · exact .ite h.trap (.ite h.trap (.ite h.stall (State.Sound.left h.updOwner.updCore)))

theorem State.Sound.saltChange (h : s.Sound) {f : Nat} : (s.saltChange f).Sound := h.foldl (fun _ _ hu => hu.updOwner) _

theorem State.Sound.execSaltld (h : s.Sound) {gd : Guard} {a b : BitVec 5} : SoundOutcome (execSaltld gd a b s) := by
  refine h.privOp ?_
  extract_lets c v
  split
  · exact h.trap
  · exact .ite h.trap (.ite h.stall (State.Sound.done h.updFunc.saltChange))

end

end Sys2Proof.Machine
end

section
/-!
What every step keeps, continued: the moves of the ordering machine and of the cores (spec/02_execution_model.md R34 to R46,
spec/04_ordering.md R80) and the issue of an instruction word (spec/21_issue_and_scheduling.md R290, R291, R294).
-/
namespace Sys2Proof.Machine

theorem SoundOption.bind {α : Type} {m : Option α} {f : α → Option State} (hf : ∀ a, SoundOption (f a)) : SoundOption (m.bind f) := by
  cases m with
  | none => exact soundOption_none
  | some a => exact hf a

section
variable {s : State}

/-! ### The ordering machine -/

theorem State.Sound.performMove (h : s.Sound) {n id : Nat} {kind : AccOp → Bool} : SoundOption (s.performMove n id kind) := by
  unfold State.performMove
  split
  · exact .ite (State.Sound.some (.ite h.joinMerge h.perform)) soundOption_none
  · exact soundOption_none

theorem State.Sound.forwardMove (h : s.Sound) {n load store : Nat} : SoundOption (s.forwardMove n load store) := by
  unfold State.forwardMove
  split
  · exact .ite h.forward.some soundOption_none
  · exact soundOption_none

theorem State.Sound.fillMove (h : s.Sound) {g o line : Nat} : SoundOption (s.fillMove g o line) := by
  refine State.Sound.onlyIf ?_
  split
  · exact h.fillLine.touch
  · exact h.fillLine

theorem State.Sound.writeBackMove (h : s.Sound) {line : Nat} : SoundOption (s.writeBackMove line) := by
  unfold State.writeBackMove
  split
  · exact h.writeBackLine.onlyIf
  · exact soundOption_none

theorem State.Sound.dropMove (h : s.Sound) {line : Nat} : SoundOption (s.dropMove line) := by
  unfold State.dropMove
  split
  · exact h.dropLine.withCopies.onlyIf
  · exact soundOption_none

theorem State.Sound.readyAccept (h : s.Sound) {n : Nat} : SoundOption (s.readyAccept n) := by
  unfold State.readyAccept
  extract_lets +onlyGivenNames c
  split
  · exact h.setCore.onlyIf
  · exact soundOption_none

theorem State.Sound.mergeExpire (h : s.Sound) {die o line : Nat} : SoundOption (s.mergeExpire die o line) := State.Sound.onlyIf (by exact h.same rfl)

theorem State.Sound.fillReply (h : s.Sound) {die o line : Nat} : SoundOption (s.fillReply die o line) :=
  SoundOption.bind fun _ => h.multicast.onlyIf

theorem State.Sound.windowReply (h : s.Sound) {n : Nat} : SoundOption (s.windowReply n) := h.updCore.onlyIf

theorem State.Sound.asyncMove (h : s.Sound) {n id : Nat} : SoundOption (s.asyncMove n id) := by
  unfold State.asyncMove
  split
  · exact h.lateReply.onlyIf
  · split
    · exact h.complete.onlyIf
    · exact h.performMove

/-! ### Waiting, the deadlock detector and traps between chains -/

theorem State.Sound.watchdogMove (h : s.Sound) {n : Nat} : SoundOption (s.watchdogMove n) := by
  unfold State.watchdogMove
  extract_lets +onlyGivenNames c
  split
  · exact h.unclaim.raiseTrap.onlyIf
  · exact soundOption_none

theorem State.Sound.gateMove (h : s.Sound) {n old new least : Nat} : SoundOption (s.gateMove n old new least) := by
  unfold State.gateMove
  extract_lets +onlyGivenNames c
  split
  · exact h.updCore.onlyIf
  · exact h.updCore.onlyIf

theorem State.Sound.wakeMove (h : s.Sound) {n : Nat} : SoundOption (s.wakeMove n) := .ite h.wake.some h.updCore.onlyIf

theorem State.Sound.hangMove (h : s.Sound) {n : Nat} : SoundOption (s.hangMove n) := by
  unfold State.hangMove
  extract_lets +onlyGivenNames c
  split
  · exact State.Sound.onlyIf (.ite h.updCore.report.sendFault h.updCore.report)
  · exact soundOption_none

theorem State.Sound.deadlockMove (h : s.Sound) {die : Nat} : SoundOption (s.deadlockMove die) := by
  unfold State.deadlockMove
  extract_lets +onlyGivenNames now last both hit traps u v
  have hu : u.Sound := h.same rfl
  have hv : v.Sound := hu.foldl (fun _ _ hw => hw.updCore) _
  refine State.Sound.some (hv.foldl (fun w x hw => ?_) _)
  obtain ⟨n, info⟩ := x
  cases hb : (w.core n).hold with
  | blocked b => simpa only [hb] using hw.withdraw.raiseTrap
  | _ => simpa only [hb] using hw

theorem State.Sound.trapMove (h : s.Sound) {n : Nat} : SoundOption (s.trapMove n) := h.unclaim.raiseTrap.onlyIf
theorem State.Sound.supLimitMove (h : s.Sound) {n : Nat} : SoundOption (s.supLimitMove n) := h.takeTrap.onlyIf

/-! ### Issue -/

theorem State.Sound.hintOp (h : s.Sound) {w : Code} : SoundOutcome (hintOp w s) := by
  unfold Machine.hintOp
  extract_lets +onlyGivenNames n
  split
  · exact h.updCore.next
  · exact h.trap.finish.next
  · exact h.next

/-- Every instruction that a word encodes keeps the state sound. -/
theorem State.Sound.runInstr (h : s.Sound) (i : Instr) : SoundOutcome (runInstr i s) := by
  delta Machine.runInstr
  cases i
  case add64 | sub64 | and64 | or64 | xor64 | andn64 | shl64 | shr64 | rotl64 | rotr64 | min64 | max64 | popc64 | clz64
    | ctz64 | mul64 | mulh64 | div64 | rem64 | add32 | sub32 | and32 | or32 | xor32 | andn32 | shl32 | shr32 | rotl32 | rotr32
    | min32 | max32 | popc32 | clz32 | ctz32 | mul32 | mulh32 | div32 | rem32 | sel | addImm | shlImm | shrN64Imm | shrI64Imm
    | rotlImm | andImm | orImm | xorImm | li | lsi | cmp | cmpImm | pins | pext | pcnt | vext | fmtld | fmtrd | pand | por
    | pxor | pandn | porn | pnot | pset | pclr =>
    exact h.regOp
  case endH | yieldH => exact h.endInstr
  case ldB | ldH | ldW | ldD | ldBS | ldHS | ldWS => exact h.plainLoad
  case stB | stH | stW | stD => exact h.plainStore
  case ldff | ldfe | fet | stef | stxf | stxe => exact h.feInstr
  case vld | vlds | vldx => exact h.vload
  case vst | vsts | vstx => exact h.vstore
  case vaddFp | vsubFp | vmulFp | vdiv | vminFp | vmaxFp | vsqrt | vabsFp => exact h.vfloat
  case vaddInt | vsubInt | vmulInt | vmulh | vminInt | vmaxInt | vand | vor | vxor | vandn | vshl | vshr | vrotl | vabsInt
    | vadds | vsubs =>
    exact h.vint
  case vrsum | vrmin | vrmax | vrand | vror | vrxor => exact h.vreduce
  case vssum | vsmin | vsmax | vsand | vsor | vsxor => exact h.vscan
  case vbcast | vslidedn | vperm | vmov | vidx => exact h.vmove
  case vrcp | vrsqrt | vexp2 | vlog2 => exact h.vapprox
  case mjob | cjob | coll => exact h.jobInstr
  case subs | rack => exact h.agentInstr
  case immx | rmode | cpol | order | etype => exact h.hintOp
  case rdctl => exact h.execRdctl
  case wrctl => exact h.execWrctl
  case br => exact h.scalarOp h.jump
  case jal => exact h.scalarOp h.setCore.jump
  case jalr => exact h.execJalr
  case ldAcq => exact h.scalarOp h.load
  case stRel => exact h.scalarOp h.store
  case aswapD | acasD | aadd64 | aandD | aorD | axorD | aminI64 | amaxI64 | aminN64 | amaxN64 | aadd32 | aswapW | acasW
    | aaddF32 | aaddF64 | qadd64 | qandD | qorD | qxorD | qminI64 | qmaxI64 | qminN64 | qmaxN64 | qadd32 | qaddF32 | qaddF64 =>
    exact h.scalarOp h.atomic
  case adecw | qdecw => exact h.scalarOp h.decrementWake
  case fence | fenceAll => exact h.scalarOp h.fence.done
  case cleanRange | invalRange | flushRange => exact h.scalarOp h.rangeOp.act
  case icsync => exact h.execIcsync
  case icinvRange => exact h.execIcinvRange
  case send => exact h.execSend
  case rpush => exact h.execRpush
  case rpop => exact h.execRpop
  case rpeek => exact h.execRpeek
  case aldD => exact h.execAldD
  case vfma => exact h.execVfma
  case vcmp => exact h.execVcmp
  case vcvt => exact h.execVcvt
  case vcvn => exact h.execVcvn
  case vslideup => exact h.execVslideup
  case vins => exact h.execVins
  case vpack6 => exact h.execVpack6
  case vunp6 => exact h.execVunp6
  case vpack4 => exact h.execVpack4
  case vunp4 => exact h.execVunp4
  case claim => exact h.execClaim
  case vrelease => exact h.execVrelease
  case jcancel => exact h.execJcancel
  case jpoll => exact h.execJpoll
  case jwait => exact h.execJwait
  case unsubs => exact h.execUnsubs
  case unrack => exact h.execUnrack
  case aclr => exact h.execAclr
  case ardr => exact h.execArdr
  case awrr => exact h.execAwrr
  case wclr | wset | wadd | wcut | wuncut => exact h.scalarOp h.treeUpdate
  case wld => exact h.execWld
  case wldv => exact h.execWldv
  case wexp => exact h.execWexp
  case wget | wsum | wpre | wfind => exact h.scalarOp h.treeQuery
  case wseq => exact h.execWseq
  case wst => exact h.execWst
  case rnd => exact h.scalarOp h.updCore.done
  case rndV => exact h.execRndV
  case pdrop => exact h.execPdrop
  case wdraw => exact h.execWdraw
  case splice => exact h.execSplice
  case rbind => exact h.execRbind
  case runbind => exact h.execRunbind
  case trap => exact h.scalarOp h.trap
  case reseedPlace => exact h.execReseedPlace
  case plprobe => exact h.execPlprobe
  case excq => exact h.execExcq
  case rft => exact h.privOp (State.Sound.left h.returnFromTrap)
  case tinv => exact h.execTinv
  case aspill => exact h.execAspill
  case atag => exact h.execAtag
  case wspill => exact h.execWspill
  case wtag => exact h.execWtag
  case keyld => exact h.execKeyld
  case saltld => exact h.execSaltld
  all_goals exact fun _ ht => nomatch ht

theorem State.Sound.boundaryTrap (h : s.Sound) {n : Nat} : SoundOption (s.boundaryTrap n) :=
  h.watchdogMove.orElse (h.supLimitMove.orElse h.trapMove)

theorem State.Sound.runWord (h : s.Sound) {n : Nat} {w : Code} : SoundOutcome (s.runWord n w) := by
  unfold State.runWord
  extract_lets +onlyGivenNames c
  split
  · exact h.updCore.next
  · exact h.trap.finish.next
  · exact .ite h.next (h.runInstr _)

theorem State.Sound.issueWord (h : s.Sound) : SoundOutcome s.issueWord := by
  unfold State.issueWord
  extract_lets +onlyGivenNames n
  split
  · rename_i ht
    exact State.Sound.next (h.boundaryTrap _ ht)
  · refine .ite h.runWord ?_
    have hf := h.fetch (n := n)
    split
    all_goals rename_i hx; rw [hx] at hf
    · exact (Act.Sound.finish hf).next
    · exact (State.Sound.updCore hf).runWord

theorem State.Sound.execIssue (h : s.Sound) {n : BitVec 11} : SoundOutcome (execIssue n s) :=
  .ite (State.Sound.issueWord (by exact h.same rfl)) fun _ ht => nomatch ht

end

end Sys2Proof.Machine
end

section
/-!
What every step keeps, continued: what the engines of a cluster do (spec/12_matrix_copy_jobs.md R226, R232, R233, R241, R242,
R247, R248; spec/04_ordering.md R91).
-/
namespace Sys2Proof.Machine

/-- The state an engine's accesses lead to is sound, whatever they come to. -/
def Eng.Sound {α : Type} : Eng α → Prop
  | .ok s _ => s.Sound
  | .fault s .. => s.Sound
  | .fail s _ => s.Sound
  | .busy s => s.Sound

theorem State.Sound.ok {s : State} (h : s.Sound) {α : Type} {x : α} : (Eng.ok s x).Sound := h
theorem State.Sound.fault {s : State} (h : s.Sound) {α : Type} {va : Nat} {w y : Bool} : (Eng.fault (α := α) s va w y).Sound := h
theorem State.Sound.fail {s : State} (h : s.Sound) {α : Type} {cause : Nat} : (Eng.fail (α := α) s cause).Sound := h
theorem State.Sound.busy {s : State} (h : s.Sound) {α : Type} : (Eng.busy (α := α) s).Sound := h

theorem Eng.Sound.ite {α : Type} {c : Prop} {_ : Decidable c} {a b : Eng α} (ha : a.Sound) (hb : b.Sound) :
    (if c then a else b).Sound := by split <;> assumption

theorem Eng.Sound.bind {α β : Type} {e : Eng α} (he : e.Sound) {f : State → α → Eng β} (hf : ∀ u x, u.Sound → (f u x).Sound) :
    (e.bind f).Sound := by
  cases e with
  | ok u x => exact hf u x he
  | fault u va w y => exact he
  | fail u cause => exact he
  | busy u => exact he

section
variable {s t : State}

/-! ### Pages and sectors -/

theorem State.Sound.engPages (h : s.Sound) {k : Walker} {o : Nat} {sup write : Bool} {l : List Nat} {m : Pages} :
    (s.engPages k o sup write l m).Sound := by
  induction l generalizing s m with
  | nil => exact h
  | cons va rest ih =>
    rw [State.engPages]
    refine .ite (ih h) ?_
    have ht := h.translate (k := k) (o := o) (sup := sup) (va := va) (r := !write) (w := write) (x := false)
    split
    all_goals rename_i hx; rw [hx] at ht
    · exact ih ht
    · exact ht
    · exact ht
    · exact ht

theorem State.Sound.engTouch (h : s.Sound) {k : Walker} {tc : Nat} {a : Access} {op : CacheOp} : (s.engTouch k tc a op).Sound :=
  h.cross.touch

theorem State.Sound.engLines (h : s.Sound) {n : Nat} {k : Walker} {tc : Nat} {always : Bool} {acc : Nat → Access} {l : List Nat} :
    (s.engLines n k tc always acc l).Sound := by
  induction l generalizing s with
  | nil => exact h
  | cons va rest ih =>
    unfold State.engLines
    extract_lets +onlyGivenNames a first u v
    have hu : u.Sound := h.detect.joinFill.engTouch
    have hv : v.Sound := .ite hu.fillLine hu
    split
    · exact State.Sound.fail (.ite hv hv.report)
    · exact ih hv

theorem State.Sound.engWrite (h : s.Sound) {w g : Nat} {j : Job} {m : Pages} {va k : Nat} {x : BitVec w} :
    (s.engWrite g j m va x k).Sound := h.engTouch.imgWrite

theorem State.Sound.setJob (h : s.Sound) {g e : Nat} {j : Job} : (s.setJob g e j).Sound := h.updCluster

theorem State.Sound.failJob (h : s.Sound) {g e : Nat} {j : Job} {cause : Nat} : (s.failJob g e j cause).Sound :=
  .ite h.setJob.failPeers h.setJob

theorem State.Sound.sectorOf (h : s.Sound) {g : Nat} {j : Job} {va : Nat} {m : Pages} : (s.sectorOf g j va m).Sound :=
  h.engPages.bind fun _ _ hu => .ite hu.fail (hu.engLines.bind fun _ _ hv => hv.ok)

theorem State.Sound.sectorRead (h : s.Sound) {g e : Nat} {j : Job} {va : Nat} : (s.sectorRead g e j va).Sound :=
  h.sectorOf.bind fun _ _ hu => hu.setJob.ok

theorem State.Sound.readAhead (h : s.Sound) {later : Nat → Option Nat} {rd : State → Nat → Eng Unit} {next : State → Eng Unit}
    (hrd : ∀ u va, u.Sound → (rd u va).Sound) (hnext : ∀ u, u.Sound → (next u).Sound) : (s.readAhead later rd next).Sound := by
  unfold State.readAhead
  have hc := h.choose
  split
  all_goals rename_i hx; rw [hx] at hc
  · exact hnext _ hc
  · split
    · exact hnext _ hc
    · rename_i u _ va _
      have hr := hrd u va hc
      split
      · rename_i hx; rw [hx] at hr
        exact hr
      · exact hnext _ hc

theorem State.Sound.broke (h : t.Sound) : SoundOption (s.broke t) := .ite soundOption_none h.some

theorem Eng.Sound.settle {e : Eng Unit} (he : e.Sound) {g k : Nat} {j : Job} : SoundOption (e.settle s g k j) := by
  cases e with
  | ok u x => exact State.Sound.some he
  | fault u va w y => exact soundOption_none
  | fail u cause => exact (State.Sound.failJob he).some
  | busy u => exact State.Sound.broke he

/-! ### Matrix rows, copies and bank ops -/

theorem State.Sound.rowCommit (h : s.Sound) {g e : Nat} {j : Job} : (s.rowCommit g e j).Sound := by
  refine h.readAhead (fun _ _ hu => hu.sectorRead) fun u hu => ?_
  split
  · exact hu.sectorRead
  · exact hu.setJob.ok
  · exact hu.updCluster.joinOrder.setJob.ok

theorem State.Sound.rowMove (h : s.Sound) {g e : Nat} : SoundOption (s.rowMove g e) := by
  unfold State.rowMove
  split
  · exact .ite h.rowCommit.settle soundOption_none
  · exact soundOption_none

theorem State.Sound.crossPort (h : s.Sound) {o t : Nat} {k : Walker} : (s.crossPort o k t).Sound := h.cross

theorem State.Sound.copyRead (h : s.Sound) {g e : Nat} {j : Job} {va : Nat} : (s.copyRead g e j va).Sound := by
  unfold State.copyRead
  split
  · exact h.crossPort.setJob.ok
  · exact h.sectorRead

theorem State.Sound.copyWrite (h : s.Sound) {g : Nat} {j : Job} {m : Pages} {z : Nat} {l : List (Nat × Nat)} :
    (s.copyWrite g j m z l).Sound := by
  cases l with
  | nil => exact h
  | cons x l =>
    unfold State.copyWrite
    dsimp only
    split
    · exact h.crossPort.foldl (fun _ _ hu => hu.plateStore.joinOrder) _
    · exact .ite h.engWrite (h.foldl (fun _ _ hu => hu.engWrite) _)

theorem State.Sound.copyRun (h : s.Sound) {g e : Nat} {j : Job} : (s.copyRun g e j).Sound := by
  unfold State.copyRun
  extract_lets +onlyGivenNames w z run srcs src2s dsts uses later
  refine .ite h.fail (.ite h.busy (h.readAhead (fun _ _ hu => hu.copyRead) fun u hu => ?_))
  split
  · exact hu.copyRead
  · exact hu.engPages.bind fun _ _ hv => .ite hv.fail hv.copyWrite.setJob.ok

theorem State.Sound.copyMove (h : s.Sound) {g e : Nat} {bank : Bool} : SoundOption (s.copyMove g e bank) := by
  unfold State.copyMove
  split
  · exact .ite h.copyRun.settle soundOption_none
  · exact soundOption_none

/-! ### Suspending, starting and completing -/

theorem State.Sound.suspendMove (h : s.Sound) {g e : Nat} : SoundOption (s.suspendMove g e) := by
  unfold State.suspendMove
  split
  · exact soundOption_none
  · extract_lets +onlyGivenNames halt
    refine .ite soundOption_none (.ite (.ite h.setJob.some soundOption_none) (.ite soundOption_none ?_))
    rename_i j _
    have hn : (s.jobNext g e j).Sound := .ite h.rowCommit h.copyRun
    split
    · rename_i hx; rw [hx] at hn
      exact State.Sound.some (.ite (State.Sound.setJob hn) (State.Sound.setJob hn).recordFault)
    · exact soundOption_none

theorem State.Sound.startJob (h : s.Sound) {g e : Nat} {j : Job} : (s.startJob g e j).Sound := h.setJob

theorem State.Sound.startMove (h : s.Sound) {g : Nat} {copyUnit : Bool} : SoundOption (s.startMove g copyUnit) := by
  unfold State.startMove
  extract_lets +onlyGivenNames l owners
  rcases owners with _ | ⟨o, _ | ⟨o', rest⟩⟩
  · exact soundOption_none
  · exact State.Sound.mapSome fun _ => h.startJob
  · refine SoundOption.ite soundOption_none ?_
    have hl := h.lotterySlot (k := 6) (i := enginePoint g copyUnit) (reqs := (o :: o' :: rest).map fun o => (o, 0)) (held := [])
    split
    · rename_i hx; rw [hx] at hl
      exact State.Sound.mapSome fun _ => State.Sound.startJob hl
    · exact soundOption_none

theorem State.Sound.drain (h : s.Sound) {g : Nat} {j : Job} : (s.drain g j).Sound :=
  h.crossPort.joinOrder.foldl (fun _ _ hu => hu.plateStore) _

theorem State.Sound.finishJob (h : s.Sound) {g e : Nat} {j : Job} : (s.finishJob g e j).Sound := .ite h.setJob h.setJob

theorem State.Sound.completeMove (h : s.Sound) {g e : Nat} : SoundOption (s.completeMove g e) := by
  unfold State.completeMove
  split
  · exact soundOption_none
  · refine .ite soundOption_none (.ite soundOption_none (.ite h.setJob.some (.ite ?_ h.finishJob.some)))
    split
    · exact h.failJob.some
    · exact soundOption_none
    · exact h.drain.setJob.some

theorem State.Sound.acceptMsg (h : s.Sound) {o t who tag : Nat} {r : Rec} {x : Bool × State} (hx : s.acceptMsg o t who tag r = .some x) :
    x.2.Sound := by
  unfold State.acceptMsg at hx
  split at hx
  · obtain ⟨y, hy, rfl⟩ := Option.map_eq_some_iff.1 hx
    have hu : y.2.Sound := h.passPort hy
    exact .ite hu.updCore hu
  · split at hx
    · cases hx
      exact h.savedAppend
    · cases hx

theorem State.Sound.wakeMsgMove (h : s.Sound) {g e : Nat} : SoundOption (s.wakeMsgMove g e) := by
  unfold State.wakeMsgMove
  split
  · exact soundOption_none
  · refine .ite soundOption_none (.ite h.dropWake.setJob.some ?_)
    extract_lets +onlyGivenNames failed gone
    split
    · exact State.Sound.some (.ite h.setJob h.setJob)
    · extract_lets +onlyGivenNames st
      intro t ht
      obtain ⟨x, hx, rfl⟩ := Option.map_eq_some_iff.1 ht
      have hu := h.acceptMsg hx
      exact .ite hu.setJob hu

/-! ### Collectives -/

theorem State.Sound.collMove (h : s.Sound) {g e : Nat} : SoundOption (s.collMove g e) := by
  unfold State.collMove
  split
  · exact soundOption_none
  · rename_i j _
    extract_lets +onlyGivenNames w ms z r
    refine .ite soundOption_none (.ite h.failPeers.some ?_)
    extract_lets +onlyGivenNames total d len ys
    split
    · rename_i q g' e' i va _
      have hs := h.sectorOf (g := g') (j := i) (va := va) (m := [])
      split
      all_goals rename_i hx; try rw [hx] at hs
      · exact (State.Sound.setJob hs).some
      · exact (State.Sound.failJob hs).some
      · exact (State.Sound.failPeers hs).some
      · exact soundOption_none
    · have hp := h.engPages (k := j.walker g) (o := j.owner) (sup := j.sup) (write := true) (l := [d]) (m := [])
      split
      all_goals rename_i hx; rw [hx] at hp
      · exact (State.Sound.failPeers hp).some
      · exact (State.Sound.failJob hp).some
      · exact State.Sound.broke hp
      · exact .ite (State.Sound.failJob hp).some (State.Sound.copyWrite hp).setJob.some

theorem State.Sound.collComplete (h : s.Sound) {g e : Nat} : SoundOption (s.collComplete g e) := by
  unfold State.collComplete
  split
  · exact soundOption_none
  · exact .ite soundOption_none (h.foldl (fun _ _ hu => hu.setJob) _).finishJob.some

theorem State.Sound.collTimeout (h : s.Sound) {g e : Nat} : SoundOption (s.collTimeout g e) := by
  unfold State.collTimeout
  split
  · exact soundOption_none
  · exact .ite h.failJob.some soundOption_none

end

end Sys2Proof.Machine
end

section
/-!
What every step keeps, continued: tiles, steeps and racks at work (spec/12_matrix_copy_jobs.md R243 to R245), slots, limiters,
epochs and sweeps (spec/06_owner_draws.md R114 to R128), fault records and their replies (spec/23_translation_and_tiers.md R311,
R312, R316), and the tables of the hypervisor (spec/24_tenancy_and_preemption.md R319 to R325, R346).
-/
namespace Sys2Proof.Machine

/-- What an agent's accesses give is sound: the state the move leads to, or the one it stops in. -/
def Eng.SoundTo : Eng State → Prop
  | .ok _ t => t.Sound
  | .fault s .. => s.Sound
  | .fail s _ => s.Sound
  | .busy s => s.Sound

theorem Eng.Sound.bindTo {α : Type} {e : Eng α} (he : e.Sound) {f : State → α → Eng State}
    (hf : ∀ u x, u.Sound → (f u x).SoundTo) : (e.bind f).SoundTo := by
  cases e with
  | ok u x => exact hf u x he
  | fault u va w y => exact he
  | fail u cause => exact he
  | busy u => exact he

theorem State.Sound.okTo {s t : State} (h : t.Sound) : (Eng.ok s t).SoundTo := h

section
variable {s : State}

/-! ### Tiles, steeps and racks -/

theorem State.Sound.tilePort (h : s.Sound) {n t : Nat} {r : TileRes} : SoundOption (s.tilePort n t r) := by
  cases r with
  | trap => exact soundOption_none
  | ok c spoil => exact State.Sound.onlyIf h.applyTile

theorem State.Sound.setAgent (h : s.Sound) {n k : Nat} {a : Agent} : (s.setAgent n k a).Sound := h.updCore

theorem State.Sound.agentPages (h : s.Sound) {n k : Nat} {a : Agent} {write : Bool} {l : List Nat} {m : Pages} :
    (s.agentPages n k a write l m).Sound :=
  h.engPages.bind fun _ _ hu => .ite hu.fail (.ite hu.ok (hu.engLines.bind fun _ _ hv => hv.ok))

theorem State.Sound.agentStore (h : s.Sound) {w n k : Nat} {a : Agent} {m : Pages} {va b : Nat} {x : BitVec w} :
    (s.agentStore n k a m va x b).Sound := h.engTouch.imgWrite

theorem State.Sound.agentWord (h : s.Sound) {n k : Nat} {a : Agent} {m : Pages} {va : Nat} {x : Word} :
    (s.agentWord n k a m va x).Sound := .ite h.agentStore (h.foldl (fun _ _ hu => hu.agentStore) _)

theorem State.Sound.abandonTile (h : s.Sound) {n k : Nat} {a : Agent} : (s.abandonTile n k a).Sound :=
  .ite (State.Sound.ite h.updCore.spoilBytes h.updCore) h

theorem State.Sound.agentStop (h : s.Sound) {n k : Nat} {a : Agent} {cause : Nat} : (s.agentStop n k a cause).Sound :=
  .ite h.setAgent.abandonTile.unwait h.setAgent.abandonTile.unwait.report

theorem State.Sound.agentSettle {n k : Nat} {a : Agent} {e : Eng State} (he : e.SoundTo) : SoundOption (s.agentSettle n k a e) := by
  cases e with
  | ok u t => exact State.Sound.some he
  | fault u va w y => exact (State.Sound.setAgent he).recordFault.some
  | fail u cause => exact (State.Sound.agentStop he).some
  | busy u => exact State.Sound.broke he

theorem State.Sound.steepAppend (h : s.Sound) {n k : Nat} : SoundOption (s.steepAppend n k) := by
  unfold State.steepAppend
  split
  · exact soundOption_none
  · extract_lets +onlyGivenNames w t j last
    refine .ite h.agentStop.some ?_
    split
    · exact soundOption_none
    · rename_i hp
      exact State.Sound.some (h.passPort hp)
    · rename_i hp
      have hu := h.passPort hp
      exact .ite hu.updCore.setAgent.some (State.Sound.agentSettle (hu.agentPages.bindTo fun _ _ hv => hv.updCore.setAgent.okTo))

theorem State.Sound.fillTile (h : s.Sound) {n t : Nat} : (s.fillTile n t).Sound := h.setCore.foldl (fun _ _ hu => hu.spoilBytes) _

theorem State.Sound.fillStart (h : s.Sound) {n k : Nat} : SoundOption (s.fillStart n k) := by
  unfold State.fillStart
  split
  · exact soundOption_none
  · exact h.fillTile.setAgent.onlyIf

theorem State.Sound.unitWrite (h : s.Sound) {n t u : Nat} {ws : List Word} : (s.unitWrite n t u ws).Sound :=
  .ite h.spoilBytes h.updCore.joinOrder

theorem State.Sound.fillUnit (h : s.Sound) {n k : Nat} : SoundOption (s.fillUnit n k) := by
  unfold State.fillUnit
  split
  · exact soundOption_none
  · exact .ite soundOption_none (State.Sound.agentSettle (h.agentPages.bindTo fun _ _ hu => hu.unitWrite.updCore.setAgent.okTo))

theorem State.Sound.rackProgress (h : s.Sound) {n k : Nat} {a : Agent} {m : Pages} {c : Nat} : (s.rackProgress n k a m c).Sound :=
  .ite h h.agentStore

theorem State.Sound.drainStart (h : s.Sound) {n k : Nat} : SoundOption (s.drainStart n k) := by
  unfold State.drainStart
  split
  · exact soundOption_none
  · exact h.updCore.setAgent.onlyIf

theorem State.Sound.unitStore (h : s.Sound) {n k : Nat} {a : Agent} {m : Pages} {p : Nat} {dst : List Nat} :
    (s.unitStore n k a m p dst).Sound := .ite h.agentStore (h.foldl (fun _ _ hu => hu.agentStore) _)

theorem State.Sound.flightDone (h : s.Sound) {n : Nat} {f : Flight} : SoundOption (s.flightDone n f) := by
  unfold State.flightDone
  extract_lets +onlyGivenNames dst gone
  have hp := h.agentPages (n := n) (k := f.handle) (a := f.agent) (write := true) (l := dst) (m := [])
  split
  all_goals rename_i hx; rw [hx] at hp
  · exact State.Sound.some (State.Sound.updCore (State.Sound.unitStore hp).updCore)
  · exact (State.Sound.updCore hp).some
  · exact (State.Sound.updCore hp).some
  · exact State.Sound.broke hp

theorem State.Sound.drainUnit (h : s.Sound) {n k : Nat} : SoundOption (s.drainUnit n k) := by
  unfold State.drainUnit
  split
  · exact h.flightDone
  · split
    · exact soundOption_none
    · refine .ite soundOption_none (State.Sound.agentSettle (h.agentPages.bindTo fun u m hu => ?_))
      exact (State.Sound.updCore (State.Sound.ite hu.unitStore.rackProgress hu.unitStore)).setAgent.okTo

theorem State.Sound.rackWrite (h : s.Sound) {n k : Nat} : SoundOption (s.rackWrite n k) := by
  unfold State.rackWrite
  split
  · exact soundOption_none
  · split
    · exact soundOption_none
    · refine State.Sound.agentSettle (h.agentPages.bindTo fun u m hu => ?_)
      exact (hu.foldl (fun _ _ hv => hv.agentWord) _).rackProgress.setAgent.okTo

theorem State.Sound.rackAck (h : s.Sound) {n k : Nat} : SoundOption (s.rackAck n k) := by
  unfold State.rackAck
  split
  · exact soundOption_none
  · exact .ite soundOption_none (State.Sound.agentSettle (h.agentPages.bindTo fun _ _ hu => hu.setAgent.okTo))

/-! ### Slots, keys, limiters and pauses -/

theorem State.Sound.grantClaim (h : s.Sound) {g n : Nat} : (s.grantClaim g n).Sound := by
  unfold State.grantClaim
  split
  · exact h
  · exact h.setLanes.updCore.updCluster

theorem State.Sound.grantAdmit (h : s.Sound) {g n : Nat} : (s.grantAdmit g n).Sound := h.updCluster

theorem State.Sound.grantAt (h : s.Sound) {k i n : Nat} : (s.grantAt k i n).Sound :=
  .ite h.grantClaim (.ite h.grantAdmit (.ite h.grantAtPort h.grantAccess))

theorem State.Sound.slotMove (h : s.Sound) {k i : Nat} : SoundOption (s.slotMove k i) := by
  unfold State.slotMove
  refine .ite soundOption_none (.ite h.startMove ?_)
  extract_lets +onlyGivenNames u l present held
  have hl := State.Sound.lotterySlot (s := u) h.arrive (k := k) (i := i) (reqs := present) (held := held)
  split
  all_goals rename_i hx; rw [hx] at hl
  · exact (State.Sound.grantAt hl).some
  · exact State.Sound.some hl

theorem State.Sound.arbKeyMove (h : s.Sound) {k i o : Nat} : SoundOption (s.arbKeyMove k i o) := h.updOwner.onlyIf
theorem State.Sound.refillMove (h : s.Sound) {o k i : Nat} : SoundOption (s.refillMove o k i) := h.updOwner.onlyIf
theorem State.Sound.throttleMove (h : s.Sound) {o row : Nat} : SoundOption (s.throttleMove o row) := State.Sound.some (by exact h.same rfl)
theorem State.Sound.refreshMove (h : s.Sound) {i : Nat} : SoundOption (s.refreshMove i) := h.setPoint.onlyIf
theorem State.Sound.retrainMove (h : s.Sound) {k i : Nat} : SoundOption (s.retrainMove k i) := h.setPoint.report.onlyIf
theorem State.Sound.retrainedMove (h : s.Sound) {k i : Nat} : SoundOption (s.retrainedMove k i) := h.setPoint.onlyIf
theorem State.Sound.frequencyMove (h : s.Sound) {j mhz : Nat} : SoundOption (s.frequencyMove j mhz) := h.updIsland.onlyIf

/-! ### Placement epochs -/

theorem State.Sound.epochMove (h : s.Sound) {o : Nat} : SoundOption (s.epochMove o) := by
  unfold State.epochMove
  extract_lets +onlyGivenNames w
  split
  · exact soundOption_none
  · exact h.updOwner.onlyIf

theorem State.Sound.moveCopy (h : s.Sound) {w : Owner} {c : Copy} : (s.moveCopy w c).Sound :=
  .ite h.withCopies (.ite h.evict h.withCopies.allocate)

theorem State.Sound.sweepMove (h : s.Sound) {o i : Nat} : SoundOption (s.sweepMove o i) := by
  unfold State.sweepMove
  extract_lets +onlyGivenNames w
  split
  · exact soundOption_none
  · exact .ite (State.Sound.some (h.foldl (fun _ _ hu => hu.moveCopy) _).updOwner) soundOption_none

/-! ### Fault records and replies -/

theorem State.Sound.faultWrite (h : s.Sound) {o : Nat} : SoundOption (s.faultWrite o) := by
  unfold State.faultWrite
  extract_lets +onlyGivenNames w e key base tail head
  split
  · exact soundOption_none
  · exact .ite (State.Sound.some h.bWrite.bWrite.updOwner.raiseVector) soundOption_none

theorem State.Sound.updSaved (h : s.Sound) {o n : Nat} {f : Saved → Saved} : (s.updSaved o n f).Sound := by
  unfold State.updSaved
  split
  · exact h.same rfl
  · exact h

theorem State.Sound.updAgent (h : s.Sound) {o n k : Nat} {f : Agent → Agent} : (s.updAgent o n k f).Sound := .ite h.updCore h.updSaved

theorem State.Sound.replayOne (h : s.Sound) {o : Nat} {x : FaultSrc} : (s.replayOne o x).Sound := by
  unfold State.replayOne
  split
  · exact .ite h.updCore h
  · exact .ite h.updCore h
  · split
    · exact h.setJob
    · exact h
  · exact h.updAgent
  · exact h

theorem State.Sound.rejectOne (h : s.Sound) {o : Nat} {x : FaultSrc × Word} : (s.rejectOne o x).Sound := by
  unfold State.rejectOne
  extract_lets +onlyGivenNames core
  have hcore : ∀ n, (core n).Sound := fun n => .ite (State.Sound.ite h.raiseTrap h) h.updSaved
  split
  · exact hcore _
  · exact hcore _
  · split
    · exact h.failJob
    · exact h
  · refine .ite ?_ h.updAgent.report
    split
    · exact .ite h.agentStop h
    · exact h
  · exact .ite h.failSplices h

theorem State.Sound.faultReply (h : s.Sound) {f slot : Nat} {tag : BitVec 32} {one : Nat → State → FaultSrc × Word → State}
    (hone : ∀ o u x, u.Sound → (one o u x).Sound) : (s.faultReply f slot tag one).Sound := by
  unfold State.faultReply
  refine .ite h ?_
  extract_lets +onlyGivenNames e o hit
  split
  · exact h.updOwner.foldl (fun u x hu => hone o u x hu) _
  · exact h.report

theorem State.Sound.holdDone (h : s.Sound) {n : Nat} : (s.holdDone n).Sound := h.updCore

theorem State.Sound.tinvDone (h : s.Sound) {n : Nat} : SoundOption (s.tinvDone n) := by
  unfold State.tinvDone
  split
  · exact h.holdDone.onlyIf
  · exact soundOption_none

theorem State.Sound.icinvDone (h : s.Sound) {n : Nat} : SoundOption (s.icinvDone n) := h.holdDone.onlyIf

theorem State.Sound.keyldDone (h : s.Sound) {n : Nat} : SoundOption (s.keyldDone n) := by
  unfold State.keyldDone
  split
  · exact h.updOwner.holdDone.some
  · exact soundOption_none

/-! ### The tables of the hypervisor -/

theorem State.Sound.committed (h : s.Sound) {ok : Bool} {take : State → State} (ht : ∀ u, u.Sound → (take u).Sound) :
    (s.committed ok take).Sound := .ite (ht _ (h.same rfl)) (h.same rfl)

theorem State.Sound.commitVd (h : s.Sound) {f : Nat} : (s.commitVd f).Sound := .ite h (h.committed fun _ hu => hu.updFunc)
theorem State.Sound.commitOwner (h : s.Sound) {o : Nat} : (s.commitOwner o).Sound := .ite h (h.committed fun _ hu => hu.updOwner)
theorem State.Sound.propagate (h : s.Sound) : s.propagate.Sound := h.same rfl

theorem State.Sound.retireMove (h : s.Sound) {o : Nat} : SoundOption (s.retireMove o) := by
  unfold State.retireMove
  extract_lets +onlyGivenNames lines u
  have hu : u.Sound := h.foldl (fun _ _ hv => hv.writeBackLine.dropLine) _
  have kept : ∀ {v : State} {l : List Copy} {cs : Store Core}, v.Sound → ({ v with copies := l, cores := cs } : State).Sound :=
    fun hv => hv.same rfl
  exact State.Sound.onlyIf (kept hu).dropOwnerTlb.updOwner

theorem State.Sound.schedOn (h : s.Sound) {n : BitVec 6} : (s.schedOn n).Sound := .ite h (.ite (h.same rfl) (h.same rfl))
theorem State.Sound.schedOff (h : s.Sound) : s.schedOff.Sound := .ite (h.same rfl) h

end

end Sys2Proof.Machine
end

section
/-!
What every step keeps, continued: time slices and the launch sequencer (spec/24_tenancy_and_preemption.md R326 to R333, R342,
R365), interrupts, the error log and errors that stop more than one access (spec/25_errors_and_containment.md R336 to R342), and
what the host does through its ports (R345, R355, R359 to R361).
-/
namespace Sys2Proof.Machine

section
variable {s : State}

/-! ### Fields that hold neither memory nor a register of R355 or R359 -/

theorem State.Sound.withSaved (h : s.Sound) {l : Store Saved} {x : List (Nat × Access × Gather)} :
    ({ s with saved := l, lateLoads := x } : State).Sound := h.same rfl
theorem State.Sound.withRounds (h : s.Sound) {l : Store Nat} : ({ s with rounds := l } : State).Sound := h.same rfl
theorem State.Sound.withErrs (h : s.Sound) {k : BitVec 32} {l : List ErrRec} : ({ s with eseq := k, errs := l } : State).Sound := h.same rfl

/-! ### The save block -/

theorem State.Sound.blockLines (h : s.Sound) {o n base i k : Nat} {op : CacheOp} : (s.blockLines o n base i k op).Sound :=
  h.foldl (fun _ _ hu => hu.blockLine) _
theorem State.Sound.saveWords (h : s.Sound) {o base : Nat} {l : List (Nat × Word)} : (s.saveWords o base l).Sound :=
  h.foldl (fun _ _ hu => hu.blockWrite) _
theorem State.Sound.savePlate (h : s.Sound) {o n base : Nat} : (s.savePlate o n base).Sound :=
  h.foldl (fun _ _ hu => hu.blockWrite) _
theorem State.Sound.saveEngine (h : s.Sound) {o base : Nat} : (s.saveEngine o base).Sound :=
  State.Sound.withFreeCtr (h.foldl (fun _ _ hu => hu.blockWrite) _)

theorem State.Sound.saveCore (h : s.Sound) {o n : Nat} : (s.saveCore o n).Sound := by
  unfold State.saveCore
  extract_lets +onlyGivenNames c out base words u v x y z
  have hx : x.Sound := h.blockLines.savePlate.saveWords
  have hy : y.Sound := .ite hx.saveWords hx
  exact State.Sound.withSaved hy.saveEngine.updCore

theorem State.Sound.saveSeeds (h : s.Sound) {o : Nat} : (s.saveSeeds o).Sound := .ite h h.updOwner.bWrite

/-! ### The end of a slice -/

theorem State.Sound.setSlice (h : s.Sound) {f : Nat} {x : Slice} : (s.setSlice f x).Sound := h.updFunc

theorem State.Sound.beginEnd (h : s.Sound) {f : Nat} : (s.beginEnd f).Sound := (h.foldl (fun _ _ hu => hu.updCore) _).setSlice

theorem State.Sound.preempt (h : s.Sound) {n : Nat} : (s.preempt n).Sound := .ite h h.withdraw.updCore

theorem State.Sound.quiesceMove (h : s.Sound) {f : Nat} : SoundOption (s.quiesceMove f) :=
  (h.foldl (fun _ _ hu => hu.preempt) _).setSlice.onlyIf

theorem State.Sound.drainMove (h : s.Sound) {f : Nat} : SoundOption (s.drainMove f) := h.setSlice.onlyIf

theorem State.Sound.saveMove (h : s.Sound) {f : Nat} : SoundOption (s.saveMove f) := by
  unfold State.saveMove
  extract_lets +onlyGivenNames u v
  have hu : u.Sound := h.foldl (fun _ _ hw => hw.saveCore) _
  have hv : v.Sound := hu.foldl (fun _ _ hw => .ite hw hw.saveSeeds) _
  exact hv.setSlice.onlyIf

theorem State.Sound.passRound (h : s.Sound) {e : BitVec 2048} {k : Nat} : (s.passRound e k).Sound := h.same rfl

theorem State.Sound.switchMove (h : s.Sound) {f : Nat} : SoundOption (s.switchMove f) :=
  State.Sound.onlyIf (h.foldl (fun _ _ hu => hu.updCore) _).passRound.setSlice

/-! ### Restoring -/

theorem State.Sound.restoreCore (h : s.Sound) {o n : Nat} {first : Bool} : (s.restoreCore o n first).Sound := by
  unfold State.restoreCore
  extract_lets +onlyGivenNames base blk c saved late c' ctl u v x y z
  have hu : u.Sound := h.blockLines
  have hv : v.Sound := hu.setCore
  have hx : x.Sound := hv.withSaved
  have hy : y.Sound := hx.foldl (fun _ _ hw => hw.writeCtl) _
  have hz : z.Sound := by
    refine hy.foldl (fun w a hw => ?_) _
    obtain ⟨k, a⟩ := a
    cases ha : a.state with
    | stopped cause => simpa only [ha] using hw.abandonTile
    | _ => simpa only [ha] using hw
  exact .ite hz.writeCtl hz

theorem State.Sound.restoreOwner (h : s.Sound) {o : Nat} : (s.restoreOwner o).Sound :=
  h.updOwner.foldl (fun _ _ hu => hu.restoreCore) _

theorem State.Sound.stopIfIdle (h : s.Sound) : s.stopIfIdle.Sound := .ite (h.same rfl) h

theorem State.Sound.restoreMove (h : s.Sound) {f : Nat} : SoundOption (s.restoreMove f) := by
  unfold State.restoreMove
  refine .ite ?_ soundOption_none
  split
  · exact soundOption_none
  · extract_lets +onlyGivenNames e os gone u v w
    have hu : u.Sound := h.updFunc
    have hv : v.Sound := hu.foldl (fun _ _ hx => hx.updOwner) _
    have hw : w.Sound := hv.withRounds
    exact (hw.foldl (fun _ _ hx => hx.restoreOwner) _).some

theorem State.Sound.roundEndMove (h : s.Sound) {f : Nat} : SoundOption (s.roundEndMove f) :=
  .ite h.beginEnd.some (.ite h.stopIfIdle.some (.ite (State.Sound.mapSome fun _ => h.passRound) soundOption_none))

theorem State.Sound.savedFault (h : s.Sound) {o n : Nat} {x : Saved} {r : Rec} : (s.savedFault o n x r).Sound := by
  unfold State.savedFault
  extract_lets +onlyGivenNames base g
  split
  · exact h.report
  · exact (h.blockLine.foldl (fun _ _ hu => hu.blockWrite) _).updSaved

theorem State.Sound.savedInbox (h : s.Sound) {i : Nat} : SoundOption (s.savedInbox i) := by
  unfold State.savedInbox
  split
  · exact soundOption_none
  · extract_lets +onlyGivenNames u
    have hu : u.Sound := h.withDevMsgs
    refine .ite soundOption_none (.ite hu.some (.ite ?_ (.ite soundOption_none ?_)))
    · exact .ite hu.faultArrive.some (State.Sound.mapSome fun _ => hu.savedFault)
    · split
      · rename_i hx
        exact State.Sound.some (State.Sound.withDevMsgs (h.acceptMsg hx))
      · rename_i hx
        exact State.Sound.some (h.acceptMsg hx)
      · exact soundOption_none

theorem State.Sound.stopPartition (h : s.Sound) {f : Nat} : (s.stopPartition f).Sound := by
  unfold State.stopPartition
  extract_lets +onlyGivenNames os u e on v
  have hu : u.Sound := h.foldl (fun _ _ hw => hw.killOwner) _
  have hv : v.Sound := hu.updFunc
  exact .ite hv.passRound hv

/-! ### The launch sequencer -/

theorem State.Sound.launchDone (h : s.Sound) {f : Nat} : (s.launchDone f).Sound := h.updFunc.raiseVector
theorem State.Sound.launchReject (h : s.Sound) {f : Nat} {r : BitVec 1024} : (s.launchReject f r).Sound := h.launchDone.report
theorem State.Sound.launchRead (h : s.Sound) {f : Nat} {r : BitVec 1024} : (s.launchRead f r).Sound := h.detectLine.cross
theorem State.Sound.tailWrite (h : s.Sound) {f : Nat} {v : BitVec 32} : (s.tailWrite f v).Sound :=
  .ite h (.ite h.updFunc h.updFunc.report)

theorem State.Sound.launchMove (h : s.Sound) {f : Nat} : SoundOption (s.launchMove f) := by
  unfold State.launchMove
  extract_lets +onlyGivenNames x
  refine .ite soundOption_none ?_
  split
  · extract_lets +onlyGivenNames w t
    split
    · exact h.launchReject.onlyIf
    · refine .ite ?_ h.launchReject.onlyIf
      intro u hu
      obtain ⟨p, hp, rfl⟩ := Option.map_eq_some_iff.1 hu
      have hv := h.acceptMsg hp
      obtain ⟨sent, v⟩ := p
      refine State.Sound.ite hv ?_
      split
      · exact State.Sound.updFunc hv
      · exact State.Sound.launchDone hv
  · exact .ite (State.Sound.some (.ite h.launchRead.updFunc h.launchRead.launchReject)) soundOption_none

/-! ### Interrupts, the error log and errors that stop partitions -/

theorem State.Sound.interruptMove (h : s.Sound) {f v : Nat} : SoundOption (s.interruptMove f v) := h.updFunc.onlyIf
theorem State.Sound.coalesceMove (h : s.Sound) {f v : Nat} : SoundOption (s.coalesceMove f v) := h.updFunc.onlyIf
theorem State.Sound.unmask (h : s.Sound) {f v : Nat} : (s.unmask f v).Sound := h.updFunc

theorem State.Sound.logTo (h : s.Sound) {f : Nat} {v : Option Nat} {r : Bool → LogRec} : (s.logTo f v r).Sound := by
  unfold State.logTo
  extract_lets +onlyGivenNames full u
  have hu : u.Sound := h.updFunc
  split
  · exact .ite hu hu.raiseVector
  · exact hu

theorem State.Sound.logNext (h : s.Sound) {e : ErrRec} : (s.logNext e).1.Sound := by
  unfold State.logNext
  split
  · exact h.logTo
  · split
    · exact h.logTo
    · exact h.logTo
    · exact h

theorem State.Sound.logMove (h : s.Sound) : SoundOption s.logMove := by
  unfold State.logMove
  split
  · exact State.Sound.some (State.Sound.withErrs (State.Sound.logNext (State.Sound.withErrs h)))
  · exact soundOption_none

theorem State.Sound.stopAll (h : s.Sound) {fs : List Nat} {cls : Nat} {o : Option Nat} {struct : Word} :
    (s.stopAll fs cls o struct).Sound := State.Sound.withErrs (h.foldl (fun _ _ hu => hu.stopPartition) _)

theorem State.Sound.flitMove (h : s.Sound) {k i : Nat} {header : Bool} {o n : Nat} : SoundOption (s.flitMove k i header o n) :=
  .ite soundOption_none (.ite h.stopAll.some (State.Sound.some h.killOwner.withErrs))

theorem State.Sound.withFatal (h : s.Sound) : ({ s with fatal := true } : State).Sound := h.same rfl
theorem State.Sound.moduleFatalMove (h : s.Sound) {code : Nat} : (s.moduleFatalMove code).Sound := h.stopAll.withFatal

/-! ### The host -/

theorem State.Sound.withHostData (h : s.Sound) {w : Word} : ({ s with hostData := w } : State).Sound := h.same rfl

theorem State.Sound.windowAccess (h : s.Sound) {write : Bool} {addr : Nat} {v : Word} : (s.windowAccess write addr v).Sound :=
  .ite h.bWrite h.withHostData

theorem State.Sound.hostAccess (h : s.Sound) {f : Nat} {write : Bool} {addr : Nat} {v : Word} :
    (s.hostAccess f write addr v).Sound := by
  unfold State.hostAccess
  extract_lets +onlyGivenNames o sup op pass u
  have hu : u.Sound := h.foldl (fun _ _ hw => hw.detectLine.cross.touch) _
  exact .ite (hu.joinOrder.foldl (fun _ _ hw => hw.cWrite) _) hu.withHostData

theorem State.Sound.hostMove (h : s.Sound) {f : Nat} {write : Bool} {addr : Nat} {v : Word} :
    SoundOption (s.hostMove f write addr v) :=
  .ite h.hostAccess.some (.ite soundOption_none (.ite (State.Sound.some (by exact h.same rfl)) h.windowAccess.some))

theorem State.Sound.withBar (h : s.Sound) {l : Store Word} : ({ s with bar := l } : State).Sound := h.same rfl

theorem State.Sound.setMask (h : s.Sound) {f v : Nat} {masked : Bool} : (s.setMask f v masked).Sound := .ite h.updFunc h.unmask

/-- A change of the boot controller that keeps BOOT.STATE. -/
theorem State.Sound.withBoot (h : s.Sound) {b : Boot} (hb : b.state = s.boot.state) : ({ s with boot := b } : State).Sound :=
  ⟨h.1, by simpa only [State.registersLegal, hb] using h.2⟩

@[simp] theorem Boot.command_state {b : Boot} {v : Nat} : (b.command v).state = b.state := by
  unfold Boot.command
  split <;> rfl

theorem State.Sound.registerMove (h : s.Sound) {f off : Nat} {v : Word} : SoundOption (s.registerMove f off v) := by
  unfold State.registerMove
  extract_lets +onlyGivenNames keep
  have hkeep : (keep s).Sound := h.withBar
  have more : ∀ {u : State} {k : BitVec 6}, u.Sound → ({ u with nrm1 := k } : State).Sound := fun hu => hu.same rfl
  refine .ite soundOption_none ?_
  split
  · exact soundOption_none
  · refine .ite h.some ?_
    split
    · exact soundOption_none
    · exact h.some
    · exact .ite soundOption_none (more h.schedOff).some
    · exact (h.withBoot Boot.command_state).some
    · exact State.Sound.some (by exact h.same rfl)
    · exact State.Sound.some (by exact h.same rfl)
    · exact State.Sound.some (by exact h.same rfl)
    · exact State.Sound.some (by exact h.same rfl)
    · exact State.Sound.some (by exact h.same rfl)
    · exact h.updFunc.some
    · exact hkeep.some
    · exact hkeep.setMask.some
    · exact hkeep.some

/-! ### Power, telemetry and counters -/

theorem State.Sound.askMhz (h : s.Sound) {i m : Nat} : (s.askMhz i m).Sound := h.updIsland
theorem State.Sound.setMhz (h : s.Sound) {i m : Nat} : (s.setMhz i m).Sound := h.updIsland
theorem State.Sound.slowDown (h : s.Sound) {i : Nat} : (s.slowDown i).Sound := .ite h.askMhz h
theorem State.Sound.withCap (h : s.Sound) {k : Nat} {c : BitVec 32} {b : Bool} :
    ({ s with floorMs := k, capCnt := c, floorTold := b } : State).Sound := h.same rfl

theorem State.Sound.powerMove (h : s.Sound) : SoundOption s.powerMove := by
  unfold State.powerMove
  extract_lets +onlyGivenNames limit now t u v
  have ht : t.Sound := .ite h.slowDown (.ite h.askMhz h)
  have hv : v.Sound := ht.withCap
  exact State.Sound.onlyIf (.ite hv.report hv)

/-- A write of PWRLIM keeps it in its limits (R359). -/
theorem State.Sound.writePwrLim (h : s.Sound) {v : Word} : (s.writePwrLim v).Sound := by
  refine .ite h ⟨h.1, ?_⟩
  obtain ⟨_, hr⟩ := h
  simp only [State.registersLegal, Bool.and_eq_true, decide_eq_true_eq, BitVec.toNat_ofNat] at hr ⊢
  exact ⟨⟨hr.1.1, by omega⟩, by omega⟩

theorem State.Sound.telemetry (h : s.Sound) : s.telemetry.Sound := by
  have more : ∀ {u : State} {k : BitVec 32}, u.Sound → ({ u with pwrNow := k } : State).Sound := fun hu => hu.same rfl
  exact more (h.foldl (fun _ _ hu => hu.updIsland) _)

theorem State.Sound.thermalMove (h : s.Sound) {i : Nat} : SoundOption (s.thermalMove i) :=
  State.Sound.onlyIf (h.foldl (fun _ _ hu => hu.slowDown) _)

end

end Sys2Proof.Machine
end

section
/-!
What every step keeps, completed: reset, the ROM, training, the switch-over and attestation (spec/26_boot_and_bring_up.md R348 to
R356), every move asked for and every move the machine makes by itself.
-/
namespace Sys2Proof.Machine

section
variable {s : State}

/-! ### Reset, the ROM and training -/

/-- A boot controller whose STATE R355 lists. -/
def Boot.Legal (b : Boot) : Prop := [0, 1, 2, 3, 4, 14, 15].contains b.state = true

theorem State.Sound.boot (h : s.Sound) : s.boot.Legal := by
  obtain ⟨_, hr⟩ := h
  simp only [State.registersLegal, Bool.and_eq_true] at hr
  exact hr.1.1

/-- A boot controller in a legal state keeps the rest sound. -/
theorem State.Sound.setBoot (h : s.Sound) {b : Boot} (hb : b.Legal) : ({ s with boot := b } : State).Sound := by
  obtain ⟨hm, hr⟩ := h
  simp only [State.registersLegal, Bool.and_eq_true] at hr
  refine ⟨hm, ?_⟩
  simp only [State.registersLegal, Bool.and_eq_true]
  exact ⟨⟨hb, hr.1.2⟩, hr.2⟩

theorem State.sound_reset : State.reset.Sound := ⟨rfl, rfl⟩

theorem State.sound_rebooted : s.rebooted.Sound := by
  have h : ({ State.reset with boot := s.boot.restart } : State).Sound := State.sound_reset.setBoot rfl
  exact h.same rfl

theorem Boot.Legal.verified {b : Boot} : b.verified.Legal := by
  unfold Boot.verified
  split <;> rfl

theorem Boot.Legal.trainingEnds {b : Boot} (hb : b.Legal) : b.trainingEnds.Legal := by
  unfold Boot.trainingEnds
  split
  · exact hb
  · exact hb

theorem State.Sound.serviceStarts (h : s.Sound) : s.serviceStarts.Sound := by
  unfold State.serviceStarts
  exact State.Sound.setMhz (by exact h.same rfl)

theorem State.Sound.romMove (h : s.Sound) : SoundOption s.romMove := by
  unfold State.romMove
  have hv : ({ s with boot := s.boot.verified } : State).Sound := h.setBoot Boot.Legal.verified
  exact .ite soundOption_none (.ite (h.setBoot (b := { s.boot with state := 1 }) rfl).some (.ite (State.Sound.some (.ite hv.serviceStarts hv)) soundOption_none))

theorem State.Sound.trainedMove (h : s.Sound) {k : Nat} : SoundOption (s.trainedMove k) := by
  unfold State.trainedMove
  extract_lets +onlyGivenNames b₀ b u
  have hb : b.Legal := h.boot
  have hu : u.Sound := h.setBoot hb.trainingEnds
  refine State.Sound.onlyIf (.ite ?_ hu)
  exact ((hu.setBoot (b := { u.boot with state := 3 }) rfl).foldl (fun _ _ hv => hv.updCore) _).setSlice

theorem State.Sound.trainingFailMove (h : s.Sound) {k : Nat} : SoundOption (s.trainingFailMove k) := by
  unfold State.trainingFailMove
  extract_lets +onlyGivenNames n b₀ b b'
  have hb : b.Legal := h.boot
  have hb' : b'.Legal := by
    dsimp only [b']
    split
    · exact Boot.Legal.trainingEnds rfl
    · exact hb
  exact State.Sound.onlyIf (h.setBoot hb')

/-! ### The switch-over and what follows -/

theorem State.Sound.switchOver (h : s.Sound) : SoundOption s.switchOver := by
  unfold State.switchOver
  extract_lets +onlyGivenNames late t u v lvec w x
  have ht : t.Sound := h.foldl (fun _ _ hy => hy.writeBackLine.dropLine) _
  have hu : u.Sound := State.Sound.setMhz (by exact ht.same rfl)
  have hv : v.Sound := hu.foldl (fun _ _ hy => hy.windowAccess) _
  have hw : w.Sound := hv.foldl (fun _ _ hy => hy.raiseVector.report) _
  exact State.Sound.onlyIf hw.updFunc

theorem State.Sound.readyMove (h : s.Sound) : SoundOption s.readyMove := by
  unfold State.readyMove
  extract_lets +onlyGivenNames b₀ b
  have hb : ({ s with boot := b } : State).Sound := h.setBoot rfl
  exact State.Sound.onlyIf (by exact hb.same rfl)

theorem State.Sound.attest (h : s.Sound) : ({ s with boot := s.boot.attest } : State).Sound := by
  refine h.withBoot ?_
  unfold Boot.attest
  split <;> rfl

theorem State.Sound.stage (h : s.Sound) : s.stage.Sound := .ite (h.withBoot rfl) (h.withBoot rfl)

/-! ### Moves asked for -/

/-- Every move that no word encodes keeps the state sound. -/
theorem State.Sound.execMove (h : s.Sound) {i : Instr} (hi : i.hasWord = false) : SoundOutcome (exec i s) := by
  delta exec
  cases i
  case dispatch => exact h.dispatchNow.onlyIf.event
  case issue => exact h.execIssue
  case forward => exact h.forwardMove.event
  case fill => exact h.fillMove.event
  case performLoad | performStore | fencePerformed | decrementAndWake => exact h.performMove.event
  case writeBack => exact h.writeBackMove.event
  case drop => exact h.dropMove.event
  case readyPushAccept => exact h.readyAccept.event
  case mergeWindowExpire => exact h.mergeExpire.event
  case fillReply => exact h.fillReply.event
  case windowLoadReply => exact h.windowReply.event
  case asyncLoadReply => exact h.asyncMove.event
  case watchdog => exact h.watchdogMove.event
  case clockGate | powerGate => exact h.gateMove.event
  case coreWake => exact h.wakeMove.event
  case hangReport => exact h.hangMove.event
  case deadlockScan => exact h.deadlockMove.event
  case trapEntry => exact h.trapMove.event
  case supCycleLimit => exact h.supLimitMove.event
  case launchTailWrite => exact h.tailWrite.next
  case launchRecord => exact h.launchMove.event
  case tileReconfigure | tileRelease | tilePublish => exact h.tilePort.event
  case tileCmdNop => exact h.onlyIf.event
  case steepFillStart => exact h.fillStart.event
  case steepUnitComplete => exact h.fillUnit.event
  case steepRecordAppend => exact h.steepAppend.event
  case rackDrainStart => exact h.drainStart.event
  case rackUnitComplete => exact h.drainUnit.event
  case rackRecordWrite => exact h.rackWrite.event
  case rackAckReread => exact h.rackAck.event
  case ringForward => exact h.engineMove.event
  case spliceApply => exact h.spliceMove.event
  case stateTransferRun => exact h.transferNow.onlyIf.event
  case alignmentTimeout => exact h.alignNow.event
  case jobStart => exact h.startMove.event
  case matrixRowCommit => exact h.rowMove.event
  case copyElement | bankOpElement => exact h.copyMove.event
  case jobSuspend => exact h.suspendMove.event
  case jobComplete => exact h.completeMove.event
  case wakeMessageDelivery => exact h.wakeMsgMove.event
  case collectiveMove => exact h.collMove.event
  case collectiveComplete => exact h.collComplete.event
  case collectiveTimeout => exact h.collTimeout.event
  case arbitrationSlot => exact h.slotMove.event
  case arbKeyUpdate => exact h.arbKeyMove.event
  case placementEpochStart => exact h.epochMove.event
  case sweepSetVisit => exact h.sweepMove.event
  case throttleWindowExpire => exact h.throttleMove.event
  case limiterRefill => exact h.refillMove.event
  case hbmRefresh => exact h.refreshMove.event
  case linkRetrain => exact h.retrainMove.event
  case retrainingComplete => exact h.retrainedMove.event
  case frequencyChange => exact h.frequencyMove.event
  case faultRecordWrite => exact h.faultWrite.event
  case faultReplyReplay => exact (h.faultReply fun _ _ _ hu => hu.replayOne).some.event
  case faultReplyReject => exact (h.faultReply fun _ _ _ hu => hu.rejectOne).some.event
  case tinvComplete => exact h.tinvDone.event
  case icinvComplete => exact h.icinvDone.event
  case keyldComplete => exact h.keyldDone.event
  case commitVdEntry => exact h.commitVd.next
  case commitOwnerEntry => exact h.commitOwner.next
  case commitPropagate => exact h.propagate.next
  case ownerRetirement => exact h.retireMove.event
  case scheduleEnable => exact h.schedOn.next
  case scheduleDisable => exact h.schedOff.next
  case roundEnd => exact h.roundEndMove.event
  case sliceQuiesce => exact h.quiesceMove.event
  case sliceDrain => exact h.drainMove.event
  case sliceSave => exact h.saveMove.event
  case sliceSwitch => exact h.switchMove.event
  case restore => exact h.restoreMove.event
  case savedInboxEntry => exact h.savedInbox.event
  case interruptSend => exact h.interruptMove.event
  case coalesceTimeout => exact h.coalesceMove.event
  case vectorUnmask => exact State.Sound.next (.ite h.unmask h)
  case errorLogRecord => exact h.logMove.event
  case flitCheckFail => exact h.flitMove.event
  case moduleFatal => exact h.moduleFatalMove.next
  case hostPortAccess => exact .ite h.hostMove.event fun _ ht => nomatch ht
  case coldReset => exact State.sound_rebooted.next
  case warmReset => exact State.Sound.next (.ite State.sound_rebooted h)
  case hbmTrainingDone => exact h.trainedMove.event
  case hbmTrainingFail => exact h.trainingFailMove.event
  case linkBringupDone => exact h.readyMove.event
  case attestReport => exact h.attest.onlyIf.event
  case stageImage => exact h.stage.onlyIf.event
  case powerCheck => exact h.powerMove.event
  case pwrlimWrite => exact h.writePwrLim.next
  case capcntClear => exact State.Sound.next (.ite h (by exact h.same rfl))
  case telemetryRefresh => exact h.telemetry.next
  case correctedCounterClear => exact SoundOption.event (State.Sound.onlyIf (.ite h (by exact h.same rfl)))
  case thermalThrottle => exact h.thermalMove.event
  case registerWrite => exact h.registerMove.event
  all_goals exact Bool.noConfusion hi

/-! ### The machine's own moves -/

theorem soundOption_firstMove {α : Type} {l : List α} {f : α → Option State} (hf : ∀ a, SoundOption (f a)) :
    SoundOption (firstMove l f) := by
  intro t ht
  obtain ⟨a, _, ha⟩ := List.exists_of_findSome?_eq_some ht
  exact hf a t ha

theorem State.Sound.dueMove (h : s.Sound) {n : Nat} : SoundOption (s.dueMove n) :=
  h.watchdogMove.orElse (h.supLimitMove.orElse (h.hangMove.orElse (h.gateMove.orElse h.gateMove)))

theorem State.Sound.memoryMoves (h : s.Sound) : SoundOption s.memoryMoves :=
  (soundOption_firstMove fun _ => soundOption_firstMove fun _ => h.performMove).orElse
    ((soundOption_firstMove fun _ => h.asyncMove).orElse
      ((soundOption_firstMove fun _ => h.fillReply).orElse
        (soundOption_firstMove fun _ => h.windowReply.orElse
          (h.readyAccept.orElse (h.wakeMove.orElse (h.tinvDone.orElse (h.icinvDone.orElse h.keyldDone)))))))

theorem State.Sound.slotIf (h : s.Sound) {k i : Nat} : SoundOption (s.slotIf k i) := .ite h.slotMove soundOption_none

theorem State.Sound.lotteryMoves (h : s.Sound) : SoundOption s.lotteryMoves :=
  (soundOption_firstMove fun _ => h.slotIf.orElse h.slotIf).orElse
    ((soundOption_firstMove fun _ => h.slotIf).orElse (soundOption_firstMove fun _ => h.slotIf))

theorem State.Sound.dispatchMoves (h : s.Sound) : SoundOption s.dispatchMoves :=
  soundOption_firstMove fun _ => (SoundOption.ite h.transferNow.some soundOption_none).orElse
    ((SoundOption.ite h.dispatchNow.some soundOption_none).orElse
      (soundOption_firstMove fun _ => h.spliceMove.orElse (h.engineMove.orElse h.alignNow)))

theorem State.Sound.engineMoves (h : s.Sound) : SoundOption s.engineMoves :=
  soundOption_firstMove fun _ => h.startMove.orElse (h.startMove.orElse
    (soundOption_firstMove fun _ => h.rowMove.orElse (h.copyMove.orElse (h.copyMove.orElse (h.suspendMove.orElse
      (h.completeMove.orElse (h.wakeMsgMove.orElse (h.collMove.orElse h.collComplete))))))))

theorem State.Sound.agentMoves (h : s.Sound) : SoundOption s.agentMoves :=
  soundOption_firstMove fun _ => (soundOption_firstMove fun _ => h.flightDone).orElse
    (soundOption_firstMove fun _ => h.steepAppend.orElse (h.fillStart.orElse (h.fillUnit.orElse (h.drainStart.orElse
      (h.drainUnit.orElse (h.rackWrite.orElse (.ite h.rackAck soundOption_none)))))))

theorem State.Sound.sliceMoves (h : s.Sound) {f : Nat} : SoundOption (s.sliceMoves f) := by
  unfold State.sliceMoves
  split
  · exact soundOption_none
  · exact h.restoreMove
  · exact h.quiesceMove
  · exact h.drainMove
  · exact h.saveMove
  · exact h.switchMove

theorem State.Sound.serviceMoves (h : s.Sound) : SoundOption s.serviceMoves :=
  (soundOption_firstMove fun _ => h.epochMove).orElse ((soundOption_firstMove fun _ => h.savedInbox).orElse
    ((soundOption_firstMove fun _ => h.faultWrite).orElse (h.logMove.orElse
      ((soundOption_firstMove fun _ => soundOption_firstMove fun _ => h.interruptMove).orElse
        ((soundOption_firstMove fun _ => h.launchMove).orElse ((soundOption_firstMove fun _ => h.sliceMoves).orElse
          (.ite h.stopIfIdle.some soundOption_none)))))))

theorem State.Sound.firmwareMoves (h : s.Sound) : SoundOption s.firmwareMoves :=
  h.romMove.orElse (h.switchOver.orElse
    ((SoundOption.ite (.ite h.attest.some (.ite h.stage.some soundOption_none)) soundOption_none).orElse
      (soundOption_firstMove fun _ => h.frequencyMove)))

theorem State.Sound.sweepMoves (h : s.Sound) : SoundOption s.sweepMoves := by
  refine soundOption_firstMove fun x => ?_
  obtain ⟨o, w⟩ := x
  cases hw : w.sweep with
  | none => simpa only [hw] using soundOption_none
  | some x => simpa only [hw] using h.sweepMove

theorem State.Sound.rotate (h : s.Sound) : SoundOption s.rotate := by
  unfold State.rotate
  extract_lets +onlyGivenNames l
  split
  · exact State.Sound.some (by exact h.same rfl)
  · exact soundOption_none

theorem State.Sound.scanMove (h : s.Sound) : SoundOption s.scanMove := .ite h.deadlockMove soundOption_none

theorem State.Sound.getD {m : Option State} (hm : SoundOption m) (h : s.Sound) : (m.getD s).Sound := by
  cases m with
  | none => exact h
  | some u => exact hm u rfl

theorem State.Sound.otherMove (h : s.Sound) : s.otherMove.Sound := by
  unfold State.otherMove
  extract_lets +onlyGivenNames turn
  have hturn : SoundOption turn := by
    dsimp only [turn]
    split
    · exact h.rotate
    · exact h.scanMove
    · exact h.sweepMoves
    · exact soundOption_none
  exact State.Sound.getD ((soundOption_firstMove fun _ => h.dueMove).orElse (hturn.orElse (h.memoryMoves.orElse
    (h.lotteryMoves.orElse (h.dispatchMoves.orElse (h.engineMoves.orElse (h.agentMoves.orElse (h.serviceMoves.orElse
      (h.firmwareMoves.orElse (h.rotate.orElse (h.sweepMoves.orElse h.scanMove))))))))))) h

theorem State.Sound.ownMove (h : s.Sound) : SoundOutcome s.ownMove := by
  refine .ite (fun u hu => ?_) (State.Sound.next (State.Sound.otherMove (by exact h.same rfl)))
  obtain ⟨t, ht, rfl⟩ := markIssued_next.mp hu
  exact State.Sound.same (h.issueWord t ht) rfl

/-! ### Steps -/

theorem State.Sound.tick (h : s.Sound) : s.tick.Sound :=
  State.Sound.withCores (h.foldl (fun _ _ hu => hu.updIsland) _)

theorem State.Sound.step {t : State} (h : s.Sound) (ht : step s = .next t) : t.Sound := by
  obtain ⟨u, rfl, ⟨i, rest, -, hi, hu⟩ | ⟨-, hu⟩⟩ := step_cases ht
  · have hs : ({ s.correct with agenda := rest } : State).Sound := h.same rfl
    exact State.Sound.tick (hs.execMove hi u hu)
  · have hs : s.correct.Sound := h.same rfl
    exact State.Sound.tick (hs.ownMove u hu)

end

/-- Settles O60: image B stays canonical and the registers legal, because every operation of the machine keeps a sound state
sound. -/
theorem stepKeepsSoundness : Obligations.StepKeepsSoundness :=
  fun _ _ hm hr ht => State.Sound.step ⟨hm, hr⟩ ht

end Sys2Proof.Machine
end

section
/-!
Fences (spec/04_ordering.md R80; spec/10_memory_sync_messages.md R198).
-/
namespace Sys2Proof.Machine

/-- The fence that core `n` issues (R80, R198). -/
def State.fenceAccess (s : State) (n : Nat) (all : Bool) (σ : Nat) : Access :=
  ⟨s.nextId, .fence all σ, .plate n, 0, 0, 0, .rc, .hbm, false, 0, (s.core n).own, (s.core n).sup, false, none, false, false,
    [], false, false⟩

/-- A fence joins the accesses of its core and takes their next number. -/
theorem State.fence_eq (s : State) (n : Nat) (all : Bool) (σ : Nat) :
    s.fence n all σ =
      { s.updCore n fun c => { c with pend := c.pend ++ [s.fenceAccess n all σ] } with nextId := s.nextId + 1 } := rfl

/-- Settles O23: both forms queue their fence and complete. -/
theorem fencesIssue : Obligations.FencesIssue := by
  unfold Obligations.FencesIssue
  intro gd σ all s hon
  refine ⟨s.fenceAccess s.cur all σ.toNat, rfl, rfl, ?_⟩
  cases all with
  | false => exact scalarOp_on hon fun s n => .done (s.fence n false σ.toNat)
  | true => exact scalarOp_on hon fun s n => .done (s.fence n true σ.toNat)

end Sys2Proof.Machine
end

section
/-!
Accesses to a mapped page of main memory (spec/04_ordering.md R79, R80; spec/10_memory_sync_messages.md R188, R199;
spec/15_vm.md R309): what the checks give there, and what joins the queue of the issuing core.
-/
namespace Sys2Proof.Machine
open Sys2Proof.Claims

/-! ### Translations a core holds (R309) -/

/-- A leaf that allows reads and writes allows either. -/
theorem leafAllows_both {e : Word} (h : leafAllows e true true false = true) (r w : Bool) : leafAllows e r w false = true := by
  simp only [leafAllows, Bool.not_true, Bool.false_or, Bool.not_false, Bool.true_or, Bool.and_true, Bool.and_eq_true] at h ⊢
  simp [h.1, h.2]

/-- A translation that a unit holds is used as it stands, and no break of the page is in progress for a write (R309, R313). -/
theorem State.translate_held {s : State} {k : Walker} {o : Nat} {sup r w : Bool} {va : Nat} {t : Trans}
    (hcached : s.cached k o sup va = some t) (hall : leafAllows t.leaf r w false = true) (hok : s.paOk t.leaf t.shift va = true)
    (hcow : w = true → Leaf.cow t.leaf = false)
    (hbreaks : w = true → ∀ b ∈ s.breaks, b.owner = o → b.sup = sup → va / 2 ^ b.shift ≠ b.page) :
    s.translate k o sup va r w false = (s, .ok (Leaf.frame t.leaf + va % 2 ^ t.shift) t.leaf) := by
  have hnone : (if w then s.breaks.find? fun b => b.owner == o && b.sup == sup && va / 2 ^ b.shift == b.page
      else none) = none := by
    split
    · rename_i hw
      refine List.find?_eq_none.mpr fun b hb => ?_
      have := hbreaks hw b hb
      simpa [and_imp] using this
    · rfl
  have hwrite : (w && Leaf.cow t.leaf) = false := by
    cases w with
    | false => rfl
    | true => exact hcow rfl
  simp only [State.translate, hnone, hcached, hok, hall, hwrite]
  rfl

/-- A page that lets reads and writes through lets either through. -/
theorem mapped_both {s : State} {ea : Word} {z : Nat} {t : Trans} (h : mapped s ea z true true t) (r w : Bool) :
    mapped s ea z r w t := by
  obtain ⟨hmain, hcached, hall, hok, hcow, hfit, hbreaks⟩ := h
  exact ⟨hmain, hcached, leafAllows_both hall r w, hok, hcow, hfit, fun _ => hbreaks rfl⟩

/-- A mapped location of at least `2^k` bytes lies in a page of at least `2^k` bytes, so the translation keeps its low bits. -/
theorem physical_mod_two_pow {s : State} {ea : Word} {z k : Nat} {r w : Bool} {t : Trans} (hz : 2 ^ k ≤ z) (hk : k ≤ 12)
    (h : mapped s ea z r w t) : physical t ea % 2 ^ k = ea.toNat % 2 ^ k := by
  obtain ⟨-, -, -, -, -, hfit, -⟩ := h
  have hshift : k ≤ t.shift := by
    by_contra hlt
    have := Nat.pow_lt_pow_right (a := 2) (by decide) (Nat.lt_of_not_le hlt)
    omega
  have hmod : ea.toNat % 2 ^ t.shift % 2 ^ k = ea.toNat % 2 ^ k := Nat.mod_mod_of_dvd _ (Nat.pow_dvd_pow 2 hshift)
  have hframe : Leaf.frame t.leaf % 2 ^ k = 0 :=
    Nat.mod_eq_zero_of_dvd (Dvd.dvd.mul_left (Nat.pow_dvd_pow 2 hk : 2 ^ k ∣ 2 ^ 12) _)
  rw [physical, Nat.add_mod, hframe, Nat.zero_add, Nat.mod_mod, hmod]

section
variable {s : State} {ea : Word} {z : Nat} {r w : Bool} {t : Trans}

/-- A translation that the core holds is used as it stands, and no break of the page is in progress for a write (R309, R313). -/
theorem State.translate_mapped (h : mapped s ea z r w t) :
    s.translate (.core s.cur) s.me.own s.me.sup ea.toNat r w false = (s, .ok (physical t ea) t.leaf) := by
  obtain ⟨-, hcached, hall, hok, hcow, -, hbreaks⟩ := h
  exact State.translate_held hcached hall hok (fun _ => hcow) hbreaks

/-- The element of `z` bytes at `ea` of a mapped page (R79). -/
def mainElem (t : Trans) (ea : Word) (z lane : Nat) : Elem :=
  ⟨lane, .main (Leaf.image t.leaf), physical t ea, z, ea, t.leaf⟩

/-- An access to a mapped page passes the checks of R188 and changes nothing by them. -/
theorem State.check_mapped {form : Form} {aligned : Bool} {lane : Nat} (h : mapped s ea z r w t) (hfe : form ≠ .fe) (hdec : form ≠ .dec)
    (hal : aligned = true → ea.toNat % z = 0)
    (hatom : form = .atom → ¬(Leaf.image t.leaf = .b ∧ Leaf.tierOf t.leaf = .cxl)) :
    s.check s.cur form lane ea z aligned r w = .ok s (mainElem t ea z lane) := by
  have hx := State.translate_mapped h
  obtain ⟨hmain, hcached, -, -, -, hfit, -⟩ := h
  have hplace : placeOf ea = some (.main ea.toNat) := by simp only [placeOf, if_pos hmain]
  have hpage : s.pageShift (.core s.cur) s.me.own s.me.sup ea.toNat = some t.shift := by
    simp only [State.pageShift, hcached]
  have h1 : (form == .fe) = false := beq_false_of_ne hfe
  have h2 : (form == .dec) = false := beq_false_of_ne hdec
  have h3 : (aligned && ea.toNat % z != 0) = false := by
    cases aligned with
    | false => rfl
    | true => simp [hal rfl]
  have h4 : decide (2 ^ t.shift < ea.toNat % 2 ^ t.shift + z) = false := decide_eq_false (by omega)
  have h5 : (form == .atom && Leaf.image t.leaf == .b && Leaf.tierOf t.leaf == .cxl) = false := by
    cases form <;> simp at hatom ⊢
    exact hatom
  have hme : s.core s.cur = s.me := rfl
  simp only [State.check, hplace, h1, h2, h3, hme, hpage, h4, State.xlate, hx, h5, Bool.and_false]
  rfl

end

/-! ### Accesses that join a queue (R80) -/

/-- An access joins the queue of its core. -/
def Core.enqueue (c : Core) (a : Access) : Core := { c with pend := c.pend ++ [a] }

/-- `u` is `s` with accesses added at the end of the queue of core `n`, which `f` shows as `l`; registers, bytes and gathers of the
core and the two images of memory are as they were. -/
structure Joins {β : Type} (f : Access → β) (n : Nat) (s u : State) (l : List β) : Prop where
  pend : (u.core n).pend.map f = (s.core n).pend.map f ++ l
  gathers : (u.core n).gathers = (s.core n).gathers
  sregs : (u.core n).sregs = (s.core n).sregs
  vregs : (u.core n).vregs = (s.core n).vregs
  plate : (u.core n).plate = (s.core n).plate
  cur : u.cur = s.cur
  memB : u.memB = s.memB
  memC : u.memC = s.memC

section
variable {β : Type} {f : Access → β} {n : Nat} {s u v : State} {l m : List β}

theorem Joins.refl : Joins f n s s [] := ⟨by simp, rfl, rfl, rfl, rfl, rfl, rfl, rfl⟩

theorem Joins.trans (h : Joins f n s u l) (k : Joins f n u v m) : Joins f n s v (l ++ m) :=
  ⟨by rw [k.pend, h.pend, List.append_assoc], k.gathers.trans h.gathers, k.sregs.trans h.sregs, k.vregs.trans h.vregs,
    k.plate.trans h.plate, k.cur.trans h.cur, k.memB.trans h.memB, k.memC.trans h.memC⟩

/-- What the issuing core has become tells whether accesses joined its queue. -/
theorem Joins.of_core {c : Core} (hc : u.core n = c) (hp : c.pend.map f = (s.core n).pend.map f ++ l)
    (hg : c.gathers = (s.core n).gathers) (hs : c.sregs = (s.core n).sregs) (hv : c.vregs = (s.core n).vregs)
    (hpl : c.plate = (s.core n).plate) (hcur : u.cur = s.cur) (hB : u.memB = s.memB) (hC : u.memC = s.memC) : Joins f n s u l := by
  subst hc
  exact ⟨hp, hg, hs, hv, hpl, hcur, hB, hC⟩

/-- An access with a number of its own joins the queue. -/
theorem Joins.push (a : Access) :
    Joins f n s (s.newId.2.updCore n fun c => c.enqueue a) [f a] := by
  have hcore : s.newId.2.core n = s.core n := rfl
  refine ⟨?_, ?_, ?_, ?_, ?_, rfl, rfl, rfl⟩ <;> simp only [State.core_updCore_same, Core.enqueue, hcore, List.map_append, List.map_cons, List.map_nil]

/-- Only the way of an access changes when it joins a read-merge window (R72). -/
theorem Joins.joinMerge (hf : ∀ b : Access, f { b with path := [] } = f b) (a : Access) : Joins f n s (s.joinMerge n a) [] := by
  have hmap : ∀ (p : Access → Bool) (l : List Access),
      (mapFirst p (fun (b : Access) => { b with path := [] }) l).map f = l.map f := by
    intro p l
    induction l with
    | nil => rfl
    | cons b l ih =>
      rw [mapFirst]
      split <;> simp [hf, ih]
  unfold State.joinMerge
  dsimp only
  split
  · exact .refl
  · split
    · have hcore := State.core_updCore_same s n fun c =>
        { c with pend := mapFirst (fun b => b.id == a.id) (fun (b : Access) => { b with path := [] }) c.pend }
      exact .of_core hcore ((hmap _ _).trans (List.append_nil _).symm) rfl rfl rfl rfl rfl rfl rfl
    · exact ⟨(List.append_nil _).symm, rfl, rfl, rfl, rfl, rfl, rfl, rfl⟩

end

end Sys2Proof.Machine
end

section
/-!
Loads, stores and atomics of a mapped page (spec/04_ordering.md R79, R80; spec/10_memory_sync_messages.md R189, R191, R194, R195).
-/
namespace Sys2Proof.Machine
open Sys2Proof.Claims

/-! ### The pieces of an element (R79) -/

/-- An aligned location is one piece; another is accessed as single bytes. -/
theorem mainElem_pieces (t : Trans) (ea : Word) (z lane : Nat) :
    (mainElem t ea z lane).pieces =
      if physical t ea % z = 0 then [(0, z)] else (List.range z).map fun i => (i, 1) := rfl

theorem mainElem_pieces_length (t : Trans) (ea : Word) {z : Nat} (hz : 0 < z) (lane : Nat) :
    (mainElem t ea z lane).pieces.length ≤ z := by
  rw [mainElem_pieces]
  split
  · exact hz
  · simp

/-- Numbering the images of the first numbers numbers each by itself. -/
theorem zipIdx_map_range {α : Type} (f : Nat → α) (n : Nat) :
    ((List.range n).map f).zipIdx = (List.range n).map fun i => (f i, i) := by
  refine List.ext_getElem (by simp) fun i hi hj => ?_
  simp

/-! ### Loads (R80, R189) -/

/-- What the claims say of a queued load. -/
def loadView (a : Access) : AccOp × Dest × Nat × Nat × Bool := (a.op, a.dest, a.addr, a.size, a.acq)

/-- One piece of a main-memory load joins the queue, as part of gather `gid` (R79, R80). -/
def State.queueLoad (n : Nat) (e : Elem) (gid : Nat) (acq : Bool) (x : State × List Part) (p : Nat × Nat) : State × List Part :=
  let a := x.1.newId.2.accessOf n x.1.newId.1 (.load gid x.2.length) e (e.addr + p.1) p.2 acq none
  ((x.1.newId.2.updCore n fun c => c.enqueue a).joinMerge n a, x.2 ++ [⟨e.lane, p.1, p.2, none⟩])

theorem State.queueLoad_joins (n : Nat) (e : Elem) (gid : Nat) (acq : Bool) (s : State) (parts : List Part) (p : Nat × Nat) :
    Joins loadView n s (State.queueLoad n e gid acq (s, parts) p).1
      [(.load gid parts.length, e.dest, e.addr + p.1, p.2, acq)] :=
  let a := s.newId.2.accessOf n s.newId.1 (.load gid parts.length) e (e.addr + p.1) p.2 acq none
  (Joins.push a).trans (Joins.joinMerge (fun _ => rfl) a)

/-- The loads of some pieces join the queue in order, each with its part. -/
theorem State.foldl_queueLoad (n : Nat) (e : Elem) (gid : Nat) (acq : Bool) (ps : List (Nat × Nat)) (s : State) (parts : List Part) :
    Joins loadView n s (ps.foldl (State.queueLoad n e gid acq) (s, parts)).1
        ((ps.zipIdx parts.length).map fun (p, k) => (.load gid k, e.dest, e.addr + p.1, p.2, acq)) ∧
      (ps.foldl (State.queueLoad n e gid acq) (s, parts)).2 = parts ++ ps.map fun p => ⟨e.lane, p.1, p.2, none⟩ := by
  induction ps generalizing s parts with
  | nil => exact ⟨.refl, (List.append_nil _).symm⟩
  | cons p ps ih =>
    obtain ⟨hjoin, hparts⟩ := ih (State.queueLoad n e gid acq (s, parts) p).1 (State.queueLoad n e gid acq (s, parts) p).2
    have hlen : (State.queueLoad n e gid acq (s, parts) p).2.length = parts.length + 1 := by simp [State.queueLoad]
    rw [hlen] at hjoin
    refine ⟨(State.queueLoad_joins n e gid acq s parts p).trans hjoin, hparts.trans ?_⟩
    simp [State.queueLoad]

section
variable {s : State} {ea : Word} {z : Nat} {t : Trans}

/-- The core waits for the values of a gather. -/
def Core.await (c : Core) (g : Gather) : Core := { c with gathers := c.gathers ++ [g] }

/-- A load of one element of main memory completes once its pieces have joined the queue, with a gather for their values. -/
theorem State.issueLoads_main (n : Nat) (dst : GDest) (va : Word) (acq : Bool) :
    ∃ u parts, s.issueLoads n dst [mainElem t ea z 0] va acq false =
        .done (u.updCore n fun c => c.await ⟨s.nextId, dst, parts, va, none, none⟩) ∧
      Joins loadView n s u ((mainElem t ea z 0).pieces.zipIdx.map fun (p, k) =>
        (.load s.nextId k, .main (Leaf.image t.leaf), physical t ea + p.1, p.2, acq)) ∧
      parts = (mainElem t ea z 0).pieces.map fun p => ⟨0, p.1, p.2, none⟩ := by
  have hat : (mainElem t ea z 0).atIssue = false := rfl
  have hready : s.loadReady n [mainElem t ea z 0] acq = true := by simp [State.loadReady, hat]
  have htags : s.takeTags n [mainElem t ea z 0] = s := rfl
  obtain ⟨hjoin, hparts⟩ := State.foldl_queueLoad n (mainElem t ea z 0) s.nextId acq (mainElem t ea z 0).pieces s.newId.2 []
  refine ⟨_, _, ?_,
    ⟨hjoin.pend, hjoin.gathers, hjoin.sregs, hjoin.vregs, hjoin.plate, hjoin.cur, hjoin.memB, hjoin.memC⟩, hparts⟩
  simp only [State.issueLoads, hready, htags, List.foldl_cons, List.foldl_nil, List.all_cons, List.all_nil, List.any_cons,
    List.any_nil, hat, Bool.false_and, Bool.or_false, Bool.not_true]
  rfl

end

/-! ### Stores and atomics (R80, R189, R194, R195) -/

/-- The portion of `ctl.usc` that an access to the page counts in (R74). -/
def usedPortion (t : Trans) : Portion := if Leaf.tierOf t.leaf = .cxl then .sys else .mem

/-- The portions in which an element counts, one for each of its pieces (R74). -/
def Elem.portions (n : Nat) (e : Elem) : List Portion :=
  match portionOf n e.dest (if e.atIssue then .hbm else Leaf.tierOf e.leaf) with
  | some p => e.pieces.map fun _ => p
  | none => []

/-- Elements that all count in one portion have room when it has room for as many pieces. -/
theorem State.uscRoom_of {s : State} {n k : Nat} {es : List Elem} {p : Portion}
    (hps : es.flatMap (Elem.portions n) = List.replicate k p) (h : s.uscCount n p + k ≤ 4095) : s.uscRoom n es = true := by
  have hroom : s.uscRoom n es = (es.flatMap (Elem.portions n)).all fun p =>
      decide (s.uscCount n p + ((es.flatMap (Elem.portions n)).filter (· == p)).length ≤ 4095) := rfl
  rw [hroom, hps]
  refine List.all_eq_true.mpr fun q hq => ?_
  rw [List.eq_of_mem_replicate hq]
  have := List.length_filter_le (· == p) (List.replicate k p)
  rw [List.length_replicate] at this
  exact decide_eq_true (by omega)

/-- There is room for the pieces of an element when its portion has room for as many (R74). -/
theorem State.uscRoom_main {s : State} {n k z lane : Nat} {t : Trans} {ea : Word} (hk : (mainElem t ea z lane).pieces.length ≤ k)
    (h : s.uscCount n (usedPortion t) + k ≤ 4095) : s.uscRoom n [mainElem t ea z lane] = true := by
  have hps : [mainElem t ea z lane].flatMap (Elem.portions n) =
      List.replicate (mainElem t ea z lane).pieces.length (usedPortion t) := by
    rw [List.flatMap_cons, List.flatMap_nil, List.append_nil, ← List.map_const']
    rfl
  exact State.uscRoom_of hps (by omega)

/-- What the claims say of a queued store. -/
def storeView (a : Access) : AccOp × Dest × Nat × Nat × Option Nat := (a.op, a.dest, a.addr, a.size, a.rel)

/-- One piece of a main-memory store of `x` joins the queue (R79, R80). -/
def State.queueStore (n : Nat) (e : Elem) (x : Word) (rel : Option Nat) (s : State) (p : Nat × Nat) : State :=
  s.newId.2.updCore n fun c =>
    c.enqueue (s.newId.2.accessOf n s.newId.1 (.store (x >>> (8 * p.1))) e (e.addr + p.1) p.2 false rel)

/-- The stores of some pieces join the queue in order. -/
theorem State.foldl_queueStore (n : Nat) (e : Elem) (x : Word) (rel : Option Nat) (ps : List (Nat × Nat)) (s : State) :
    Joins storeView n s (ps.foldl (State.queueStore n e x rel) s)
      (ps.map fun p => (.store (x >>> (8 * p.1)), e.dest, e.addr + p.1, p.2, rel)) := by
  induction ps generalizing s with
  | nil => exact .refl
  | cons p ps ih => exact (Joins.push _).trans (ih _)

section
variable {s : State} {ea : Word} {z : Nat} {t : Trans} {n : Nat}

/-- A store of one element of main memory completes once its pieces have joined the queue. -/
theorem State.issueStores_main (x : Word) (rel : Option Nat) (hroom : s.uscRoom n [mainElem t ea z 0] = true) :
    ∃ u, s.issueStores n [(mainElem t ea z 0, x)] rel = .done u ∧
      Joins storeView n s u ((mainElem t ea z 0).pieces.map fun p =>
        (.store (x >>> (8 * p.1)), .main (Leaf.image t.leaf), physical t ea + p.1, p.2, rel)) := by
  have hown : (mainElem t ea z 0).own n = false := rfl
  have hready : s.storeReady n [mainElem t ea z 0] rel = true := by simp [State.storeReady, hown]
  have htags : s.takeTags n [mainElem t ea z 0] = s := rfl
  have hjoin := State.foldl_queueStore n (mainElem t ea z 0) x rel (mainElem t ea z 0).pieces s
  refine ⟨_, ?_, hjoin⟩
  simp only [State.issueStores, List.map_cons, List.map_nil, hready, hroom, htags, State.storeList, hown]
  rfl

/-- An atomic on main memory completes once its access has joined the queue. -/
theorem State.sendAtomic_main (op : AccOp) (ret : Option SReg) (acq : Bool) (rel : Option Nat)
    (hroom : s.uscRoom n [mainElem t ea z 0] = true) :
    s.sendAtomic n (mainElem t ea z 0) op ret acq rel = .done (s.newId.2.updCore n fun c =>
      c.enqueue (s.accessOf n s.nextId op (mainElem t ea z 0) (physical t ea) z acq rel)) := by
  have hown : (mainElem t ea z 0).own n = false := rfl
  simp only [State.sendAtomic, hown, hroom, Bool.not_true, Bool.and_false]
  rfl

end

/-! ### The forms -/

/-- The bytes of a load form, and whether its address is checked for alignment: only an acquire's is (R79, R191). -/
theorem exec_of_loadForm_main {s : State} {i : Instr} {gd : Guard} {d : BitVec 5} {ea : Word} {z : Nat} {sg acq : Bool}
    (h : loadForm s.me i = some (gd, d, ea, z, sg, acq)) (hon : s.me.on gd = true) :
    exec i s = .next ((s.load s.cur d ea z sg acq acq).finish s.cur) := by
  unfold loadForm at h
  split at h <;> cases h
  case h_8 b k σ => exact scalarOp_on hon fun s n => s.load n d ((s.core n).s b) (2 ^ k.toNat) false true true
  all_goals exact plainLoad_on hon _ _ _ _ _

/-- The bytes of a store form, and whether its address is checked for alignment: only a release's is (R79, R191). -/
theorem exec_of_storeForm_main {s : State} {i : Instr} {gd : Guard} {d : BitVec 5} {ea : Word} {z : Nat} {rel : Option Nat}
    (h : storeForm s.me i = some (gd, d, ea, z, rel)) (hon : s.me.on gd = true) :
    (0 < z ∧ z ≤ 8) ∧ exec i s = .next ((s.store s.cur d ea z rel.isSome rel).finish s.cur) := by
  unfold storeForm at h
  split at h <;> cases h
  case h_5 b k σ =>
    refine ⟨⟨Nat.two_pow_pos _, Nat.pow_le_pow_right (n := 2) (by decide) (show k.toNat ≤ 3 by omega)⟩, ?_⟩
    exact scalarOp_on hon fun s n => s.store n d ((s.core n).s b) (2 ^ k.toNat) true (some σ.toNat)
  all_goals exact ⟨by decide, plainStore_on hon _ _ _ _⟩

/-- Every atomic form runs the one atomic of R194, on 4 or 8 bytes. -/
theorem exec_of_atomForm {s : State} {i : Instr} {op : AtomOp} {z : Nat} {gd : Guard} {ret : Option (BitVec 5)} {a b : BitVec 5}
    (h : atomForm i = some (op, z, gd, ret, a, b)) (hon : s.me.on gd = true) :
    (z = 4 ∨ z = 8) ∧ exec i s = .next ((s.atomic s.cur op z ret a b).finish s.cur) := by
  unfold atomForm at h
  split at h <;> cases h
  all_goals exact ⟨by decide, scalarOp_on hon fun s n => s.atomic n _ _ _ _ _⟩

end Sys2Proof.Machine
end

section
/-!
The issue of loads, stores and atomics of main memory (O19).
-/
namespace Sys2Proof.Machine
open Sys2Proof.Claims

/-- A change of the issuing core shows in it. -/
theorem State.me_updCore {u : State} {n : Nat} (h : u.cur = n) (f : Core → Core) : (u.updCore n f).me = f (u.core n) := by
  subst h
  exact State.core_updCore_same u u.cur f

section
variable {s : State} {ea : Word} {z : Nat} {t : Trans}

/-- A scalar load of a mapped page queues its pieces and waits for them with one gather (R79, R80, R189). -/
theorem State.load_main (hp : s.me.pend = []) (hg : s.me.gathers = []) (hm : mapped s ea z true false t) (d : BitVec 5) (sg : Bool)
    {acq : Bool} (hal : acq = true → ea.toNat % z = 0) :
    ∃ u g, s.load s.cur d ea z sg acq acq = .done u ∧ u.me.gathers = [g] ∧ g.dest = .sreg (s.me.sreg d) z sg ∧
      g.poison = none ∧ g.parts.all (fun p => p.val.isNone && p.lane == 0) = true ∧
      u.me.pend.map loadView =
        (if physical t ea % z = 0 then [(.load g.gid 0, .main (Leaf.image t.leaf), physical t ea, z, acq)]
         else (List.range z).map fun j => (.load g.gid j, .main (Leaf.image t.leaf), physical t ea + j, 1, acq)) ∧
      u.me.sregs = s.me.sregs ∧ u.me.plate = s.me.plate ∧ u.memB = s.memB ∧ u.memC = s.memC := by
  have hcheck := State.check_mapped (form := .plain) (lane := 0) hm (by decide) (by decide) hal (fun h => nomatch h)
  obtain ⟨u, parts, hissue, hjoin, hparts⟩ :=
    State.issueLoads_main (s := s) (ea := ea) (z := z) (t := t) s.cur (.sreg (s.me.sreg d) z sg) ea acq
  have hload : s.load s.cur d ea z sg acq acq = s.issueLoads s.cur (.sreg (s.me.sreg d) z sg) [mainElem t ea z 0] ea acq false := by
    simp only [State.load, hcheck]
    rfl
  have hme : ∀ g, (u.updCore s.cur fun c => c.await g).me = (u.core s.cur).await g := fun g => State.me_updCore hjoin.cur _
  refine ⟨_, ⟨s.nextId, .sreg (s.me.sreg d) z sg, parts, ea, none, none⟩, hload.trans hissue, ?_, rfl, rfl, ?_, ?_, ?_, ?_,
    hjoin.memB, hjoin.memC⟩
  · rw [hme, Core.await, hjoin.gathers]
    have hnone : (s.core s.cur).gathers = [] := hg
    rw [hnone, List.nil_append]
  · rw [hparts, List.all_map]
    exact List.all_eq_true.mpr fun _ _ => rfl
  · rw [hme, Core.await, hjoin.pend, mainElem_pieces]
    have hnone : (s.core s.cur).pend = [] := hp
    rw [hnone, List.map_nil, List.nil_append]
    split
    · simp
    · rw [zipIdx_map_range, List.map_map]; rfl
  · rw [hme, Core.await, hjoin.sregs]; rfl
  · rw [hme, Core.await, hjoin.plate]; rfl

/-- A scalar store to a mapped page queues its pieces (R79, R80, R189). -/
theorem State.store_main (hp : s.me.pend = []) (hm : mapped s ea z false true t) (hz : 0 < z ∧ z ≤ 8) (d : BitVec 5)
    {rel : Option Nat} (hal : rel.isSome = true → ea.toNat % z = 0) (hroom : s.uscCount s.cur (usedPortion t) + 8 ≤ 4095) :
    ∃ u, s.store s.cur d ea z rel.isSome rel = .done u ∧
      u.me.pend.map storeView =
        (if physical t ea % z = 0 then [(.store (s.me.s d), .main (Leaf.image t.leaf), physical t ea, z, rel)]
         else (List.range z).map fun j =>
           (.store (s.me.s d >>> (8 * j)), .main (Leaf.image t.leaf), physical t ea + j, 1, rel)) ∧
      u.me.sregs = s.me.sregs ∧ u.me.plate = s.me.plate ∧ u.memB = s.memB ∧ u.memC = s.memC := by
  have hcheck := State.check_mapped (form := .plain) (lane := 0) hm (by decide) (by decide) hal (fun h => nomatch h)
  have hlen := (mainElem_pieces_length t ea hz.1 0).trans hz.2
  obtain ⟨u, hissue, hjoin⟩ := State.issueStores_main (s.me.s d) rel (State.uscRoom_main hlen hroom)
  have hstore : s.store s.cur d ea z rel.isSome rel = s.issueStores s.cur [(mainElem t ea z 0, s.me.s d)] rel := by
    simp only [State.store, hcheck]
    rfl
  refine ⟨u, hstore.trans hissue, ?_⟩
  rw [State.me, hjoin.cur]
  refine ⟨?_, hjoin.sregs, hjoin.plate, hjoin.memB, hjoin.memC⟩
  rw [hjoin.pend, mainElem_pieces]
  have hnone : (s.core s.cur).pend = [] := hp
  rw [hnone, List.map_nil, List.nil_append]
  split
  · simp
  · rw [List.map_map]; rfl

/-- An atomic on a mapped page queues its access (R194, R195). -/
theorem State.atomic_main {a b : BitVec 5} (hm : mapped s (s.me.s a) z true true t) (hz : z = 4 ∨ z = 8)
    (hal : (s.me.s a).toNat % z = 0) (himg : ¬(Leaf.image t.leaf = .b ∧ Leaf.tierOf t.leaf = .cxl))
    (hroom : s.uscCount s.cur (usedPortion t) + 1 ≤ 4095) (op : AtomOp) (ret : Option (BitVec 5)) :
    ∃ x : Access, s.atomic s.cur op z ret a b = .done (s.newId.2.updCore s.cur fun c => c.enqueue x) ∧
      x.op = .atom op (s.me.s b) (s.me.s (ret.getD 0)) (ret.map s.me.sreg) ∧ x.dest = .main (Leaf.image t.leaf) ∧
      x.addr = physical t (s.me.s a) ∧ x.size = z ∧ x.acq = (ret.isSome && s.me.ordAcq) ∧ x.rel = s.me.ordRel := by
  have hcheck := State.check_mapped (form := .atom) (lane := 0) (aligned := true) hm (by decide) (by decide) (fun _ => hal)
    (fun _ => himg)
  have hphys : physical t (s.me.s a) % z = 0 := by
    rcases hz with rfl | rfl
    · exact (physical_mod_two_pow (k := 2) (by decide) (by decide) hm).trans hal
    · exact (physical_mod_two_pow (k := 3) (by decide) (by decide) hm).trans hal
  have hlen : (mainElem t (s.me.s a) z 0).pieces.length ≤ 1 := by rw [mainElem_pieces, if_pos hphys]; rfl
  have hme : s.core s.cur = s.me := rfl
  refine ⟨s.accessOf s.cur s.nextId (.atom op (s.me.s b) (s.me.s (ret.getD 0)) (ret.map s.me.sreg))
    (mainElem t (s.me.s a) z 0) (physical t (s.me.s a)) z (ret.isSome && s.me.ordAcq) s.me.ordRel, ?_, rfl, rfl, rfl, rfl,
    rfl, rfl⟩
  simp only [State.atomic, hme, hcheck, State.sendAtomic_main _ _ _ _ (State.uscRoom_main hlen hroom)]

end

/-- Settles O19: the checks pass on a mapped page and leave the state as it is, and every form queues the pieces of its element. -/
theorem mainMemoryAccessesIssue : Obligations.MainMemoryAccessesIssue := by
  unfold Obligations.MainMemoryAccessesIssue
  refine ⟨?_, ?_, ?_⟩
  · intro i gd d ea z sg acq t s hform hon hcalm hm hal
    obtain ⟨⟨hpend, hgathers, -⟩, -⟩ := hcalm
    obtain ⟨u, g, hload, hclaims⟩ := State.load_main hpend hgathers hm d sg hal
    refine ⟨u, g, ?_, hclaims⟩
    rw [Completes, exec_of_loadForm_main hform hon, hload]
    rfl
  · intro i gd d ea z rel t s hform hon hcalm hm hal hroom
    obtain ⟨⟨hpend, -⟩, -⟩ := hcalm
    obtain ⟨hz, hexec⟩ := exec_of_storeForm_main hform hon
    obtain ⟨u, hstore, hclaims⟩ := State.store_main hpend hm hz d hal hroom
    refine ⟨u, ?_, hclaims⟩
    rw [Completes, hexec, hstore]
    rfl
  · intro i op z gd ret a b t s hform hon hcalm hm hal himg hroom
    obtain ⟨⟨hpend, -⟩, -⟩ := hcalm
    obtain ⟨hz, hexec⟩ := exec_of_atomForm hform hon
    obtain ⟨x, hatom, hop, hdest, haddr, hsize, hacq, hrel⟩ := State.atomic_main (b := b) hm hz hal himg hroom op ret
    have hme : (s.newId.2.updCore s.cur fun c => c.enqueue x).me = s.me.enqueue x := State.me_updCore rfl _
    have hpend' : (s.me.enqueue x).pend = [x] := by rw [Core.enqueue, hpend, List.nil_append]
    refine ⟨_, x, ?_, (congrArg Core.pend hme).trans hpend', hop, hdest, haddr, hsize, hacq, hrel, (congrArg Core.sregs hme :), rfl,
      rfl⟩
    rw [Completes, hexec, hatom]
    rfl

end Sys2Proof.Machine
end

section
/-!
Range operations on one line of a mapped page (spec/10_memory_sync_messages.md R199, R200; spec/04_ordering.md R89, R94).
-/
namespace Sys2Proof.Machine
open Sys2Proof.Claims

/-- The first byte of line number `line`. -/
def lineVa (line : Nat) : Word := BitVec.ofNat 64 (128 * line)

theorem lineVa_toNat {line : Nat} (h : 128 * line < 2 ^ 64) : (lineVa line).toNat = 128 * line :=
  (BitVec.toNat_ofNat _ _).trans (Nat.mod_eq_of_lt h)

/-- Bytes that lie in one line are a range of one line (R199). -/
theorem rangeCount_line {a len : Word} (hpos : 0 < len.toNat) (hfit : a.toNat % 128 + len.toNat ≤ 128) : rangeCount a len = 1 := by
  have hne : len ≠ 0 := fun h => by simp [h] at hpos
  rw [rangeCount, if_neg hne]
  omega

/-- A range of no bytes has no line. -/
theorem rangeCount_zero (a : Word) : rangeCount a 0 = 0 := rfl

section
variable {s : State} {t : Trans} {line : Nat}

/-- The access that a range operation queues for a line (R199). -/
def State.rangeAccess (s : State) (op : RangeOp) (t : Trans) (line : Nat) : Access :=
  { s.accessOf s.cur s.nextId (.range op) (mainElem t (lineVa line) 128 0)
      (physical t (lineVa line) - physical t (lineVa line) % 128) 128 false none with kind := .rc, tier := .hbm }

/-- A range operation on a line of a mapped page that is not on the flash tier passes its checks, and queues one access when its
operation does (R199). -/
theorem State.rangeLines_one (hm : mapped s (lineVa line) 128 true true t)
    (hflash : s.flashFrom (128 * line) tableLevels (s.rootOf s.me.own s.me.sup) = false) (hroom : s.uscCount s.cur .mem < 4095)
    (op : RangeOp) (q w : Bool) :
    s.rangeLines s.cur op q w line 1 = .all (if q then
      s.newId.2.updCore s.cur fun c => { c.enqueue (s.rangeAccess op t line) with rangeAt := c.rangeAt + 1 } else s) := by
  have hcheck := State.check_mapped (form := .range) (aligned := false) (lane := 0) (mapped_both hm (!w) w) (by decide) (by decide)
    (fun h => nomatch h) (fun h => nomatch h)
  have hleaf : s.flashLeaf (128 * line) tableLevels (s.rootOf s.me.own s.me.sup) = none := by
    simpa [State.flashFrom] using hflash
  have hme : s.core s.cur = s.me := rfl
  have hva : BitVec.ofNat 64 (128 * line) = lineVa line := rfl
  cases q with
  | false =>
    simp only [State.rangeLines, hme, hleaf, ite_self, hva, hcheck]
    rfl
  | true =>
    simp only [State.rangeLines, hme, hleaf, ite_self, hva, hcheck, hroom, State.updCore_updCore]
    rfl

/-- A range operation on bytes of one line, with its one access queued when its operation does (R199). -/
theorem State.rangeOp_one {a b : BitVec 5} (hat : s.me.rangeAt = 0) (hpos : 0 < (s.me.s b).toNat)
    (hfit : (s.me.s a).toNat % 128 + (s.me.s b).toNat ≤ 128) (hm : mapped s (lineVa ((s.me.s a).toNat / 128)) 128 true true t)
    (hflash : s.flashFrom (128 * ((s.me.s a).toNat / 128)) tableLevels (s.rootOf s.me.own s.me.sup) = false)
    (hroom : s.uscCount s.cur .mem < 4095) (op : RangeOp) (q w : Bool) :
    s.rangeOp s.cur op q w a b = .all (if q then
      s.newId.2.updCore s.cur fun c => { c.enqueue (s.rangeAccess op t ((s.me.s a).toNat / 128)) with rangeAt := 0 }
    else s.updCore s.cur fun c => { c with rangeAt := 0 }) := by
  have hline := State.rangeLines_one hm hflash hroom op q w
  have hcount := rangeCount_line hpos hfit
  have hshort : ¬ 2 ^ 32 < (s.me.s b).toNat := by omega
  have hme : s.core s.cur = s.me := rfl
  simp only [State.rangeOp, hme, if_neg hshort, hcount, hat, Nat.add_zero, Nat.sub_zero, hline]
  cases q with
  | false => rfl
  | true => simp only [if_true, State.updCore_updCore]

/-- A range of no bytes has nothing to check and nothing to queue. -/
theorem State.rangeOp_none {a b : BitVec 5} (hat : s.me.rangeAt = 0) (hb : s.me.s b = 0) (op : RangeOp) (q w : Bool) :
    s.rangeOp s.cur op q w a b = .all (s.regs fun c => c) := by
  have hme : s.core s.cur = s.me := rfl
  have hshort : ¬ 2 ^ 32 < (0 : Word).toNat := by decide
  have hsame : (s.updCore s.cur fun c => { c with rangeAt := 0 }) = s.updCore s.cur fun c => c := by
    apply State.updCore_congr
    rw [hme, ← hat]
  simp only [State.rangeOp, hme, hb, if_neg hshort, rangeCount_zero, hat, Nat.sub_zero, State.rangeLines, hsame, State.regs]

/-- A mapped line stands at a line of its image. -/
theorem rangeAccess_addr (hm : mapped s (lineVa line) 128 true true t) (hline : 128 * line < 2 ^ 64) (op : RangeOp) :
    (s.rangeAccess op t line).addr = physical t (lineVa line) := by
  have hmod := physical_mod_two_pow (k := 7) (by decide) (by decide) hm
  rw [lineVa_toNat hline] at hmod
  show physical t (lineVa line) - physical t (lineVa line) % 128 = _
  omega

end

/-- `icinv.range` of one line holds its core once the access is queued (R200). -/
theorem exec_icinvRange_one {s : State} {gd : Guard} {a b : BitVec 5} {f : Core → Core} (hon : s.me.on gd = true) {u : State}
    (hone : s.rangeOp s.cur .icinv true false a b = .all (u.updCore s.cur f)) :
    exec (.icinvRange gd a b) s = .next (u.updCore s.cur fun c => { f c with hold := .icinv }) := by
  have hexec : exec (.icinvRange gd a b) s = execIcinvRange gd a b s := rfl
  simp only [hexec, execIcinvRange, scalarOp_on hon, hone, Act.finish, State.updCore_updCore]

/-- `icsync` drops the lines of its range from the core's own cache, and the words fetched ahead (R94, R200). -/
def Core.icsync (a b : BitVec 5) (c : Core) : Core :=
  { c with rangeAt := 0, ahead := [], icache := c.icache.filter fun x =>
      !((c.s a).toNat / 128 ≤ x.line / 2 && x.line / 2 < (c.s a).toNat / 128 + rangeCount (c.s a) (c.s b)) }

theorem exec_icsync_one {s : State} {gd : Guard} {a b : BitVec 5} (hon : s.me.on gd = true)
    (hone : s.rangeOp s.cur .icinv false false a b = .all (s.updCore s.cur fun c => { c with rangeAt := 0 })) :
    Completes (.icsync gd a b) s (s.updCore s.cur (Core.icsync a b)) := by
  have hexec : exec (.icsync gd a b) s = execIcsync gd a b s := rfl
  simp only [Completes, hexec, execIcsync, scalarOp_on hon, hone, Act.finish, State.nextWord, State.updCore_updCore]
  exact congrArg Host.Outcome.next (State.updCore_congr rfl)

/-- In a range of one line, the lines dropped are the two halves of that line. -/
theorem icsync_icache_line {c : Core} {a b : BitVec 5} (hcount : rangeCount (c.s a) (c.s b) = 1) :
    (c.icsync a b).icache = c.icache.filter fun x => x.line / 2 != (c.s a).toNat / 128 := by
  refine List.filter_congr fun x _ => ?_
  rw [hcount]
  rw [Bool.eq_iff_iff]
  simp only [Bool.not_eq_true', Bool.and_eq_false_iff, decide_eq_false_iff_not, bne_iff_ne, ne_eq]
  omega

/-- Settles O24: a range of one line runs one step of the loop of R199, which queues the access of that line. -/
theorem rangeOperationsIssue : Obligations.RangeOperationsIssue := by
  unfold Obligations.RangeOperationsIssue
  intro gd a b t s hon hat
  refine ⟨fun hb => ?_, ?_⟩
  · have hnone := State.rangeOp_none (a := a) hat hb
    refine ⟨?_, ?_, ?_⟩
    · exact (scalarOp_on hon fun s n => (s.rangeOp n .clean true false a b).act).trans (by rw [hnone]; rfl)
    · exact (scalarOp_on hon fun s n => (s.rangeOp n .inval true true a b).act).trans (by rw [hnone]; rfl)
    · exact (scalarOp_on hon fun s n => (s.rangeOp n .flush true false a b).act).trans (by rw [hnone]; rfl)
  · intro line hpos hfit hm hflash hroom queued
    have hone := State.rangeOp_one hat hpos hfit hm hflash hroom
    have hqueue := fun op w => (hone op true w).trans (congrArg RangeRes.all (if_pos rfl))
    have hcheck := fun op w => (hone op false w).trans (congrArg RangeRes.all (if_neg Bool.false_ne_true))
    have hqueued : ∀ (op : RangeOp) (f : Core → Core), (∀ c, (f c).pend = c.pend) → (∀ c, (f c).sregs = c.sregs) →
        queued op (s.newId.2.updCore s.cur fun c => f (c.enqueue (s.rangeAccess op t line))) := by
      intro op f hpend hsregs
      have hme := State.me_updCore (u := s.newId.2) (n := s.cur) rfl fun c => f (c.enqueue (s.rangeAccess op t line))
      refine ⟨s.rangeAccess op t line, ?_, rfl, rfl, rangeAccess_addr hm (by omega) op, rfl, rfl, rfl, ?_⟩
      · rw [hme, hpend]; rfl
      · rw [hme, hsregs]; rfl
    have hdone : ∀ op, queued op (s.newId.2.updCore s.cur fun c => { c.enqueue (s.rangeAccess op t line) with rangeAt := 0 }) :=
      fun op => hqueued op (fun c => { c with rangeAt := 0 }) (fun _ => rfl) fun _ => rfl
    refine ⟨⟨_, ?_, hdone _⟩, ⟨_, ?_, hdone _⟩, ⟨_, ?_, hdone _⟩, ⟨_, ?_,
      hqueued .icinv (fun c => { c with rangeAt := 0, hold := .icinv }) (fun _ => rfl) (fun _ => rfl), ?_⟩, ?_⟩
    · exact (scalarOp_on hon fun s n => (s.rangeOp n .clean true false a b).act).trans (by rw [hqueue]; rfl)
    · exact (scalarOp_on hon fun s n => (s.rangeOp n .inval true true a b).act).trans (by rw [hqueue]; rfl)
    · exact (scalarOp_on hon fun s n => (s.rangeOp n .flush true false a b).act).trans (by rw [hqueue]; rfl)
    · exact exec_icinvRange_one hon (hqueue .icinv false)
    · exact congrArg Core.hold (State.me_updCore (u := s.newId.2) rfl _)
    · have hme : (s.updCore s.cur (Core.icsync a b)).me = s.me.icsync a b := State.me_updCore rfl _
      refine ⟨_, exec_icsync_one hon (hcheck .icinv false), ?_⟩
      rw [hme]
      exact ⟨rfl, icsync_icache_line (rangeCount_line hpos hfit), rfl, rfl, rfl, rfl, rfl⟩

end Sys2Proof.Machine
end

section
/-!
The accumulator instructions (spec/12_matrix_copy_jobs.md R238, R239; spec/04_ordering.md R79).
-/
namespace Sys2Proof.Machine
open Sys2Proof.Claims

/-! ### Lanes of a vector register (R207) -/

/-- A lane reads what was last written to it. -/
theorem Core.v_setV {d i r k : Nat} (hi : i < 256) (hk : k < 256) (c : Core) (x : Word) :
    (c.setV d i x).v r k = if r = d ∧ k = i then x else c.v r k := by
  have hkey : 256 * r + k = 256 * d + i ↔ r = d ∧ k = i := by omega
  rw [Core.setV, Core.v]
  by_cases hx : x = 0
  · rw [if_pos hx]
    by_cases heq : r = d ∧ k = i
    · rw [if_pos heq, hkey.mpr heq, hx]
      exact Store.get_del_same _ _ _
    · rw [if_neg heq]
      exact Store.get_del_ne _ (fun h => heq (hkey.mp h)) _
  · rw [if_neg hx]
    by_cases heq : r = d ∧ k = i
    · rw [if_pos heq, hkey.mpr heq]
      exact Store.get_put_same _ _ _ _
    · rw [if_neg heq]
      exact Store.get_put_ne _ (fun h => heq (hkey.mp h)) _ _

/-- Writing lanes of v[d] leaves the other lanes and registers as they were. -/
theorem Core.v_setLanesOf {d w r k : Nat} {l : List Nat} (hl : ∀ i ∈ l, i < 256) (hk : k < 256) (c : Core) (f : Nat → Nat) :
    (c.setLanesOf d w l f).v r k = if r = d ∧ k ∈ l then BitVec.ofNat 64 (f k % 2 ^ w) else c.v r k := by
  induction l generalizing c with
  | nil => simp [Core.setLanesOf]
  | cons i l ih =>
    have hrest := ih (fun j hj => hl j (List.mem_cons_of_mem _ hj)) (c.setV d i (BitVec.ofNat 64 (f i % 2 ^ w)))
    rw [Core.v_setV (hl i List.mem_cons_self) hk] at hrest
    refine hrest.trans ?_
    by_cases hr : r = d
    · by_cases hmem : k ∈ l
      · simp [hr, hmem]
      · by_cases heq : k = i <;> simp [hr, hmem, heq]
    · simp [hr]

/-- Writing lanes changes vector registers only. -/
theorem Core.setLanesOf_eq (c : Core) (d w : Nat) (l : List Nat) (f : Nat → Nat) :
    ∃ x, c.setLanesOf d w l f = { c with vregs := x } := by
  induction l generalizing c with
  | nil => exact ⟨c.vregs, rfl⟩
  | cons i l ih =>
    obtain ⟨x, hx⟩ := ih (c.setV d i (BitVec.ofNat 64 (f i % 2 ^ w)))
    exact ⟨x, hx⟩

/-! ### Stores to a window (R79, R80) -/

section
variable {s : State} {n : Nat}

/-- The tags that window elements take are no part of a core. -/
theorem State.takeTags_joins {β : Type} {f : Access → β} (es : List Elem) : Joins f n s (s.takeTags n es) [] := by
  induction es generalizing s with
  | nil => exact .refl
  | cons e es ih =>
    have hfirst : Joins f n s (match e.dest with | .cluster g => s.takeAcc n g (e.addr / 4096) | _ => s) [] := by
      split
      · exact ⟨(List.append_nil _).symm, rfl, rfl, rfl, rfl, rfl, rfl, rfl⟩
      · exact .refl
    exact hfirst.trans ih

/-- Stores to a window join the queue in order, one access each. -/
theorem State.storeList_window (g : Nat) (rel : Option Nat) (l : List (Elem × Word)) (hl : ∀ p ∈ l, p.1.dest = .cluster g) :
    ∃ u, s.storeList n rel l = .ok u ∧
      Joins storeView n s u (l.map fun p => (.store p.2, .cluster g, p.1.addr, p.1.size, rel)) := by
  induction l generalizing s with
  | nil => exact ⟨s, rfl, .refl⟩
  | cons p l ih =>
    obtain ⟨e, x⟩ := p
    have hdest : e.dest = .cluster g := hl _ List.mem_cons_self
    have hown : e.own n = false := by simp [Elem.own, hdest]
    have hpieces : e.pieces = [(0, e.size)] := by simp [Elem.pieces, hdest]
    obtain ⟨u, hu, hjoin⟩ := ih (s := State.queueStore n e x rel s (0, e.size)) fun q hq => hl q (List.mem_cons_of_mem _ hq)
    refine ⟨u, ?_, ?_⟩
    · rw [State.storeList, hown, hpieces]
      exact hu
    · have hfirst := State.foldl_queueStore n e x rel [(0, e.size)] s
      rw [hdest] at hfirst
      simpa using hfirst.trans hjoin

/-- Elements of the window of the own cluster count in CL, once each (R74). -/
theorem portions_window {l : List (Elem × Word)} (hl : ∀ p ∈ l, p.1.dest = .cluster (clusterOf n)) :
    (l.map Prod.fst).flatMap (Elem.portions n) = List.replicate l.length .cl := by
  induction l with
  | nil => rfl
  | cons p l ih =>
    have hdest : p.1.dest = .cluster (clusterOf n) := hl _ List.mem_cons_self
    have hone : p.1.portions n = [.cl] := by simp [Elem.portions, Elem.pieces, hdest, portionOf, portionOfCluster]
    rw [List.map_cons, List.flatMap_cons, ih fun q hq => hl q (List.mem_cons_of_mem _ hq), hone]
    rfl

/-- Stores to the window of the own cluster complete once they have joined the queue, while CL has room for them (R74). -/
theorem State.issueStores_window {l : List (Elem × Word)} (hl : ∀ p ∈ l, p.1.dest = .cluster (clusterOf n))
    (hroom : s.uscCount n .cl + l.length ≤ 4095) :
    ∃ u, s.issueStores n l none = .done u ∧
      Joins storeView n s u (l.map fun p => (.store p.2, .cluster (clusterOf n), p.1.addr, p.1.size, none)) := by
  have hready : s.storeReady n (l.map Prod.fst) none = true := by
    refine List.all_eq_true.mpr fun e he => ?_
    obtain ⟨p, hp, rfl⟩ := List.mem_map.mp he
    simp [Elem.own, hl p hp]
  have hus : s.uscRoom n (l.map Prod.fst) = true := State.uscRoom_of (portions_window hl) hroom
  obtain ⟨u, hu, hjoin⟩ := State.storeList_window (s := s.takeTags n (l.map Prod.fst)) (n := n) _ none l hl
  refine ⟨u, ?_, (State.takeTags_joins _).trans hjoin⟩
  simp only [State.issueStores, hready, hus, hu, Bool.not_true, Bool.or_false]
  rfl

end

/-- A window store of one element, as its view shows it. -/
theorem accStore_of_view {g off : Nat} {x : Word} {y : Access} (h : storeView y = (.store x, .cluster g, off, 4, none)) :
    accStore g off x y := by
  simp only [storeView, Prod.mk.injEq] at h
  obtain ⟨hop, hdest, haddr, hsize, hrel⟩ := h
  exact ⟨hdest, haddr, hsize, hop, hrel⟩

/-- Stores of elements of a tile, by a core with nothing outstanding, are its accesses in order (R79, R80). -/
theorem State.issueStores_acc {s : State} (hpend : s.me.pend = []) (t : Nat) {l : List Nat} (w : Nat → Nat) (v : Nat → Word)
    (lane : Nat → Nat) (hroom : s.uscCount s.cur .cl + l.length ≤ 4095) :
    ∃ u, s.issueStores s.cur (l.map fun i => (accElem (clusterOf s.cur) t (w i) (lane i), v i)) none = .done u ∧
      u.me.pend.length = l.length ∧
      (∀ k (h : k < l.length), ∃ x, u.me.pend[k]? = some x ∧ accStore (clusterOf s.cur) (t * 4096 + 4 * w l[k]) (v l[k]) x) ∧
      u.me.sregs = s.me.sregs ∧ u.me.vregs = s.me.vregs ∧ u.memB = s.memB := by
  have hroom' : s.uscCount s.cur .cl + (l.map fun i => (accElem (clusterOf s.cur) t (w i) (lane i), v i)).length ≤ 4095 := by
    simpa using hroom
  obtain ⟨u, hissue, hjoin⟩ := State.issueStores_window (List.forall_mem_map.mpr fun i _ => rfl) hroom'
  have hview : u.me.pend.map storeView =
      l.map fun i => (.store (v i), .cluster (clusterOf s.cur), t * 4096 + 4 * w i, 4, none) := by
    have hnone : (s.core s.cur).pend = [] := hpend
    rw [State.me, hjoin.cur, hjoin.pend, hnone, List.map_map]
    rfl
  have hlen : u.me.pend.length = l.length := by simpa using congrArg List.length hview
  refine ⟨u, hissue, hlen, fun k h => ?_, ?_⟩
  · have hk : k < u.me.pend.length := hlen ▸ h
    have hget : (u.me.pend.map storeView)[k]'(by simpa using hk) = storeView u.me.pend[k] := List.getElem_map _
    refine ⟨u.me.pend[k], List.getElem?_eq_getElem hk, accStore_of_view (hget.symm.trans ?_)⟩
    simp only [hview, List.getElem_map]
  · rw [State.me, hjoin.cur]
    exact ⟨hjoin.sregs, hjoin.vregs, hjoin.memB⟩

/-! ### The instructions -/

section
variable {s : State} {gd : Guard} {d a b : BitVec 5}

/-- `aclr` runs its stores once the tile may be used. -/
theorem exec_aclr (hon : s.me.on gd = true) : exec (.aclr gd a) s =
    .next ((s.withAcc s.cur (s.me.s a) fun t =>
      s.issueStores s.cur ((List.range 1024).map fun i => (accElem (clusterOf s.cur) t i 0, 0)) none).finish s.cur) :=
  scalarOp_on hon fun s n => s.withAcc n ((s.core n).s a) fun t =>
    s.issueStores n ((List.range 1024).map fun i => (accElem (clusterOf n) t i 0, 0)) none

/-- With no executing lane, a row access does nothing. -/
theorem rowAccesses_idle (h : s.me.execLanes gd = []) : Completes (.ardr gd d a b) s s ∧ Completes (.awrr gd d a b) s s := by
  have hme : s.core s.cur = s.me := rfl
  have hardr : exec (.ardr gd d a b) s = execArdr gd d a b s := rfl
  have hawrr : exec (.awrr gd d a b) s = execAwrr gd d a b s := rfl
  constructor
  · simp only [Completes, hardr, execArdr, laneOp, hme, h, List.isEmpty_nil, if_true, Act.finish, State.nextWord]
  · simp only [Completes, hawrr, execAwrr, laneOp, hme, h, List.isEmpty_nil, if_true, Act.finish, State.nextWord]

/-- A row access of a tile or a row that does not exist traps with its number. -/
theorem rowAccesses_trap (h : s.me.execLanes gd ≠ []) (hpend : s.me.pending = none) :
    (127 < (s.me.s a).toNat → Traps (.ardr gd d a b) s 0x05 (s.me.s a) ∧ Traps (.awrr gd d a b) s 0x05 (s.me.s a)) ∧
    ((s.me.s a).toNat ≤ 127 → 31 < (s.me.s b).toNat →
      Traps (.ardr gd d a b) s 0x05 (s.me.s b) ∧ Traps (.awrr gd d a b) s 0x05 (s.me.s b)) := by
  have hme : s.core s.cur = s.me := rfl
  have hardr : exec (.ardr gd d a b) s = execArdr gd d a b s := rfl
  have hawrr : exec (.awrr gd d a b) s = execAwrr gd d a b s := rfl
  have hne : (s.me.execLanes gd).isEmpty = false := by simpa using h
  have htrap := State.raiseTrap_of_not_pending (n := s.cur) hpend
  refine ⟨fun ht => ⟨?_, ?_⟩, fun ht hr => ?_⟩
  · simp only [Traps, hardr, execArdr, laneOp, hme, hne, if_false, if_pos ht, Act.finish_trap, htrap, Bool.false_eq_true]
  · simp only [Traps, hawrr, execAwrr, laneOp, hme, hne, if_false, if_pos ht, Act.finish_trap, htrap, Bool.false_eq_true]
  · have ht' : ¬ 127 < (s.me.s a).toNat := Nat.not_lt.mpr ht
    constructor
    · simp only [Traps, hardr, execArdr, laneOp, hme, hne, if_false, if_neg ht', if_pos hr, Act.finish_trap, htrap,
        Bool.false_eq_true]
    · simp only [Traps, hawrr, execAwrr, laneOp, hme, hne, if_false, if_neg ht', if_pos hr, Act.finish_trap, htrap,
        Bool.false_eq_true]

/-- A tile that the core may use is used. -/
theorem State.withAcc_usable {v : Word} (ht : v.toNat ≤ 127) (huse : s.accUse s.cur (clusterOf s.cur) v.toNat = none)
    (k : Nat → Act) : s.withAcc s.cur v k = k v.toNat := by
  rw [State.withAcc, if_neg (Nat.not_lt.mpr ht), huse]

/-- The use of a tile changes no byte of it (R238). -/
theorem State.accRead_takeAcc (n g k x z : Nat) : ((s.takeAcc n g k).cluster g).accRead x z = (s.cluster g).accRead x z := by
  rw [State.takeAcc, State.cluster_updCluster_same]
  split
  · rfl
  · split <;> rfl

/-- The values of a row of tile `t`, one a lane; lanes from 32 on read 0 (R239). -/
def Cluster.rowValue (c : Cluster) (t r i : Nat) : Nat := if i < 32 then (c.accRead (t * 4096 + 128 * r + 4 * i) 4).toNat else 0

/-- The core after `ardr`: its lanes hold the row, and it waits for the reply (R76, R239). -/
def Core.readRow (c : Core) (d : Nat) (l : List Nat) (f : Nat → Nat) : Core :=
  let x := c.setLanesOf d 32 l f
  { x with hold := .reply, pc := x.pc + 4, hints := [] }

/-- A change of a core that has just been replaced is one replacement. -/
theorem State.updCore_setCore (s : State) (n : Nat) (c : Core) (f : Core → Core) :
    (s.setCore n c).updCore n f = s.setCore n (f c) := by
  rw [State.updCore, State.core_setCore_same]
  simp only [State.setCore, Store.put_put]

/-- `awrr` of a row that the core may use runs the stores of its lanes below 32 (R239). -/
theorem exec_awrr_row (hne : s.me.execLanes gd ≠ []) (ht : (s.me.s a).toNat ≤ 127) (hr : (s.me.s b).toNat ≤ 31)
    (huse : s.accUse s.cur (clusterOf s.cur) (s.me.s a).toNat = none) (hl : (s.me.execLanes gd).filter (· < 32) ≠ []) :
    exec (.awrr gd d a b) s = .next ((s.issueStores s.cur (((s.me.execLanes gd).filter (· < 32)).map fun i =>
      (accElem (clusterOf s.cur) (s.me.s a).toNat (32 * (s.me.s b).toNat + i) i, s.me.v d.toNat i)) none).finish s.cur) := by
  have hme : s.core s.cur = s.me := rfl
  have hawrr : exec (.awrr gd d a b) s = execAwrr gd d a b s := rfl
  have hne' : (s.me.execLanes gd).isEmpty = false := by simpa using hne
  have hl' : ((s.me.execLanes gd).filter (· < 32)).isEmpty = false := by rw [List.isEmpty_eq_false_iff]; exact hl
  simp only [hawrr, execAwrr, laneOp, hme, hne', hl', if_false, if_neg (Nat.not_lt.mpr ht), if_neg (Nat.not_lt.mpr hr),
    State.withAcc_usable ht huse, Bool.false_eq_true]

/-- `awrr` by lanes from 32 on only uses the tile (R238, R239). -/
theorem exec_awrr_none (hne : s.me.execLanes gd ≠ []) (ht : (s.me.s a).toNat ≤ 127) (hr : (s.me.s b).toNat ≤ 31)
    (huse : s.accUse s.cur (clusterOf s.cur) (s.me.s a).toNat = none) (hl : (s.me.execLanes gd).filter (· < 32) = []) :
    Completes (.awrr gd d a b) s (s.takeAcc s.cur (clusterOf s.cur) (s.me.s a).toNat) := by
  have hme : s.core s.cur = s.me := rfl
  have hawrr : exec (.awrr gd d a b) s = execAwrr gd d a b s := rfl
  have hne' : (s.me.execLanes gd).isEmpty = false := by simpa using hne
  simp only [Completes, hawrr, execAwrr, laneOp, hme, hne', hl, List.isEmpty_nil, if_true, if_false,
    if_neg (Nat.not_lt.mpr ht), if_neg (Nat.not_lt.mpr hr), State.withAcc_usable ht huse, Bool.false_eq_true]
  rfl

/-- `ardr` of a row that the core may use reads it now. -/
theorem exec_ardr_row (hne : s.me.execLanes gd ≠ []) (ht : (s.me.s a).toNat ≤ 127) (hr : (s.me.s b).toNat ≤ 31)
    (huse : s.accUse s.cur (clusterOf s.cur) (s.me.s a).toNat = none) (hcalm : calm s) :
    exec (.ardr gd d a b) s = .next ((s.takeAcc s.cur (clusterOf s.cur) (s.me.s a).toNat).setCore s.cur
      (s.me.readRow d.toNat (s.me.execLanes gd)
        ((s.cluster (clusterOf s.cur)).rowValue (s.me.s a).toNat (s.me.s b).toNat))) := by
  obtain ⟨⟨hpend, -, -⟩, hwaits, -, -, -⟩ := hcalm
  have hme : s.core s.cur = s.me := rfl
  have hardr : exec (.ardr gd d a b) s = execArdr gd d a b s := rfl
  have hne' : (s.me.execLanes gd).isEmpty = false := by simpa using hne
  have hready : ∀ es, s.loadReady s.cur es false = true := by
    intro es
    refine List.all_eq_true.mpr fun e _ => ?_
    rw [hme, hpend, State.mayPerform_nil hwaits, Bool.or_true]
  simp only [hardr, execArdr, laneOp, hme, hne', if_false, if_neg (Nat.not_lt.mpr ht), if_neg (Nat.not_lt.mpr hr),
    State.withAcc_usable ht huse, hready, Bool.not_true, Bool.false_eq_true, State.accRead_takeAcc]
  simp only [Act.finish, State.updCore_setCore]
  rfl

/-- The value of a row's element, as the claims give it. -/
theorem Cluster.rowValue_eq (c : Cluster) (t r i : Nat) :
    c.rowValue t r i % 2 ^ 32 = if i < 32 then littleEndian c.accByte (4096 * t + 128 * r + 4 * i) 4 else 0 := by
  rw [Cluster.rowValue]
  split
  · have hlt := joinBytes_lt c.accByte (4096 * t + 128 * r + 4 * i) 4
    rw [Cluster.accRead, readWord, ← joinBytes_eq_littleEndian, BitVec.toNat_ofNat, Nat.mul_comm t 4096,
      Nat.mod_eq_of_lt (by omega : _ < 2 ^ 64), Nat.mod_eq_of_lt hlt]
  · rfl

/-- The lanes that a row read writes, and what it leaves (R207, R239). -/
theorem lanesTake_readRow {u : State} {f : Nat → Nat} (hlanes : s.me.lanes ≤ 256)
    (hu : u.me = s.me.readRow d.toNat (s.me.execLanes gd) f) (hB : u.memB = s.memB) (hC : u.memC = s.memC) :
    lanesTake s u gd [d] fun _ k => some (BitVec.ofNat 64 (f k % 2 ^ 32)) := by
  have hmem : ∀ k, k ∈ s.me.execLanes gd ↔ k < s.me.lanes ∧ s.me.lane gd k = true := by
    intro k; simp [Core.execLanes]
  obtain ⟨x, hx⟩ := Core.setLanesOf_eq s.me d.toNat 32 (s.me.execLanes gd) f
  refine ⟨fun r i hi => ?_, ?_, ?_, ?_, ?_, ?_, ?_, ?_, hB, hC⟩
  · have hread := Core.v_setLanesOf (d := d.toNat) (w := 32) (r := r.toNat) (l := s.me.execLanes gd)
      (fun k hk => ((hmem k).mp hk).1.trans_le hlanes) hi s.me f
    have hsame : u.me.v r.toNat i = (s.me.setLanesOf d.toNat 32 (s.me.execLanes gd) f).v r.toNat i := by rw [hu]; rfl
    rw [hsame, hread]
    simp only [hmem, List.mem_singleton, BitVec.toNat_inj, Option.getD_some]
  all_goals rw [hu, Core.readRow, hx]

end

/-- Settles O38: the row accesses go by their checks, the stores join the queue as window stores, and `ardr` reads at issue. -/
theorem accumulatorInstructions : Obligations.AccumulatorInstructions := by
  unfold Obligations.AccumulatorInstructions
  intro gd d a b s hlanes g t r l
  refine ⟨rowAccesses_idle, fun ht hpend => ⟨fun hon => ?_, fun hne => (rowAccesses_trap hne hpend).1 ht⟩,
    fun ht hr hpend hne => (rowAccesses_trap hne hpend).2 ht hr, fun ht huse hcalm hroom => ⟨fun hon => ?_, fun hr hne => ⟨?_, ?_⟩⟩⟩
  · rw [Traps, exec_aclr hon, State.withAcc, if_pos ht, Act.finish_trap, State.raiseTrap_of_not_pending hpend]
  · obtain ⟨u, hissue, hlen, hstores, hkept⟩ := State.issueStores_acc (l := List.range 1024) hcalm.1.1 t id (fun _ => 0) (fun _ => 0)
      (by simpa using hroom)
    refine ⟨u, ?_, by simpa using hlen, fun k hk => ?_, hkept⟩
    · rw [Completes, exec_aclr hon, State.withAcc_usable ht huse]
      exact congrArg (fun x => Host.Outcome.next (x.finish s.cur)) hissue
    · obtain ⟨x, hx, hstore⟩ := hstores k (by simpa using hk)
      refine ⟨x, hx, ?_⟩
      simpa [Nat.mul_comm t] using hstore
  · by_cases hl : l = []
    · refine ⟨_, exec_awrr_none hne ht hr huse hl, ?_, fun k h => ?_, rfl, rfl, rfl⟩
      · rw [hl]
        exact congrArg List.length hcalm.1.1
      · rw [hl] at h
        exact absurd h (Nat.not_lt_zero k)
    · have hshort : l.length ≤ 1024 := by
        have hall : (s.me.execLanes gd).length ≤ s.me.lanes := by
          simpa [Core.execLanes] using List.length_filter_le (s.me.lane gd) (List.range s.me.lanes)
        exact ((List.length_filter_le _ _).trans hall).trans (hlanes.trans (by decide))
      obtain ⟨u, hissue, hlen, hstores, hkept⟩ :=
        State.issueStores_acc (l := l) hcalm.1.1 t (fun i => 32 * r + i) (s.me.v d.toNat) id (by omega)
      refine ⟨u, ?_, hlen, fun k hk => ?_, hkept⟩
      · rw [Completes, exec_awrr_row hne ht hr huse hl]
        exact congrArg (fun x => Host.Outcome.next (x.finish s.cur)) hissue
      · obtain ⟨x, hx, hstore⟩ := hstores k hk
        refine ⟨x, hx, ?_⟩
        rwa [show 4096 * t + 128 * r + 4 * l[k] = t * 4096 + 4 * (32 * r + l[k]) by omega]
  · have hexec := exec_ardr_row (d := d) hne ht hr huse hcalm
    have hcore : ((s.takeAcc s.cur g t).setCore s.cur (s.me.readRow d.toNat (s.me.execLanes gd) ((s.cluster g).rowValue t r))).me =
        s.me.readRow d.toNat (s.me.execLanes gd) ((s.cluster g).rowValue t r) := State.core_setCore_same _ _ _
    obtain ⟨x, hx⟩ := Core.setLanesOf_eq s.me d.toNat 32 (s.me.execLanes gd) ((s.cluster g).rowValue t r)
    refine ⟨_, hexec, ?_, ?_, ?_⟩
    · rw [hcore]; rfl
    · rw [hcore, Core.readRow, hx]
    · have htake := lanesTake_readRow hlanes hcore rfl rfl
      simpa only [Cluster.rowValue_eq] using htake

end Sys2Proof.Machine
end

section
/-!
What an engine's access leaves as it was (spec/05_cache.md R69, R117 to R122, R126, R127): the directory of the caches, the requests
on their way and the limiters' balances change, no byte, key or core does.
-/
namespace Sys2Proof.Machine

/-! ### Traces only -/

/-- `t` is `s` but for the cache directory, the requests on their way and the balances of limiters. -/
structure Traces (s t : State) : Prop where
  memB : t.memB = s.memB
  unitKey : t.unitKey = s.unitKey
  poisonB : t.poisonB = s.poisonB
  latent : t.latent = s.latent
  memC : t.memC = s.memC
  merges : t.merges = s.merges
  boot : t.boot = s.boot
  cores : t.cores = s.cores
  clusters : t.clusters = s.clusters
  funcs : t.funcs = s.funcs
  owner : ∀ o, ∃ b, t.owner o = { s.owner o with balance := b }

section
variable {s t u : State}

theorem Traces.refl : Traces s s := ⟨rfl, rfl, rfl, rfl, rfl, rfl, rfl, rfl, rfl, rfl, fun _ => ⟨_, rfl⟩⟩

theorem Traces.trans (h : Traces s t) (k : Traces t u) : Traces s u where
  memB := k.memB.trans h.memB
  unitKey := k.unitKey.trans h.unitKey
  poisonB := k.poisonB.trans h.poisonB
  latent := k.latent.trans h.latent
  memC := k.memC.trans h.memC
  merges := k.merges.trans h.merges
  boot := k.boot.trans h.boot
  cores := k.cores.trans h.cores
  clusters := k.clusters.trans h.clusters
  funcs := k.funcs.trans h.funcs
  owner := fun o => by
    obtain ⟨b, hb⟩ := h.owner o
    obtain ⟨c, hc⟩ := k.owner o
    exact ⟨c, by rw [hc, hb]⟩

/-- The directory and the requests on their way are traces. -/
theorem Traces.of_directory (tr : List Traffic) (f : Store (BitVec 32)) (l : List Copy) :
    Traces s { s with traffic := tr, fills := f, copies := l } :=
  ⟨rfl, rfl, rfl, rfl, rfl, rfl, rfl, rfl, rfl, rfl, fun _ => ⟨_, rfl⟩⟩

theorem Traces.keyFor (h : Traces s t) (o : Nat) (sup : Bool) : t.keyFor o sup = s.keyFor o sup := by
  obtain ⟨b, hb⟩ := h.owner o
  rw [State.keyFor, State.keyFor, h.boot, hb]

theorem Traces.bByte (h : Traces s t) (key : KeyVal) (y : Nat) : t.bByte key y = s.bByte key y := by
  have hraw : t.bRaw = s.bRaw := by
    funext a
    rw [State.bRaw, State.bRaw, h.memB, h.boot]
  rw [State.bByte, State.bByte, h.unitKey, hraw]

theorem Traces.cByte (h : Traces s t) (key : KeyVal) (y : Nat) : t.cByte key y = s.cByte key y := by
  rw [State.cByte, State.cByte, h.memC]
  simp only [h.bByte, h.keyFor]

theorem Traces.imgByte (h : Traces s t) (img : Image) (key : KeyVal) (y : Nat) : t.imgByte img key y = s.imgByte img key y := by
  cases img with
  | c => exact h.cByte key y
  | b => exact h.bByte key y

theorem Traces.poisonOf (h : Traces s t) (img : Image) (line : Nat) : t.poisonOf img line = s.poisonOf img line := by
  cases img <;> simp only [State.poisonOf, h.poisonB, h.memC]

/-- A request on its way is a trace. -/
theorem Traces.cross (o who line : Nat) (path : List (Nat × Nat)) (entered : Bool) : Traces s (s.cross o who line path entered) :=
  ⟨rfl, rfl, rfl, rfl, rfl, rfl, rfl, rfl, rfl, rfl, fun _ => ⟨_, rfl⟩⟩

/-- A balance is a trace. -/
theorem Traces.balance (o : Nat) (f : Owner → Store Int) : Traces s (s.updOwner o fun w => { w with balance := f w }) where
  memB := rfl
  unitKey := rfl
  poisonB := rfl
  latent := rfl
  memC := rfl
  merges := rfl
  boot := rfl
  cores := rfl
  clusters := rfl
  funcs := rfl
  owner := fun o' => by
    by_cases h : o' = o
    · subst h
      exact ⟨f (s.owner o'), Store.get_put_same _ _ _ _⟩
    · exact ⟨(s.owner o').balance, Store.get_put_ne _ h _ _⟩

theorem Traces.chargeBack (o line : Nat) (path : List (Nat × Nat)) : Traces s (s.chargeBack o line path) := by
  unfold State.chargeBack
  refine Traces.trans ?_ (Traces.cross _ _ _ _ _)
  split
  · split
    · exact .refl
    · exact .balance o _
  · exact .refl

theorem Traces.soil (o line : Nat) : Traces s (s.soil o line) := .of_directory s.traffic s.fills _

/-- A copy in an MSC goes without a byte of either image changing (R122). -/
theorem Traces.evict {c : Copy} (h : c.cls = 3) : Traces s (s.evict c) := by
  rw [State.evict, if_pos h]
  dsimp only
  split
  · exact (Traces.chargeBack _ _ _).trans (.of_directory _ _ _)
  · exact .of_directory _ _ _

/-- A fill of an MSC (R122). -/
theorem Traces.allocate (inst set line o : Nat) (ways : List Nat) (dirty : Bool) :
    Traces s (s.allocate 3 inst set line o ways dirty) := by
  unfold State.allocate
  dsimp only
  split
  · exact .refl
  · split
    · exact .of_directory _ _ _
    · refine Traces.trans ?_ (.of_directory _ _ _)
      split
      · rename_i v hv
        have hcls : v.cls = 3 := by
          have := (List.mem_filter.mp (List.mem_of_find?_eq_some hv)).2
          simp only [Bool.and_eq_true, beq_iff_eq] at this
          exact this.1.1
        exact Traces.trans (.of_directory _ _ _) (.evict hcls)
      · exact .of_directory _ _ _

/-- A lookup in an MSC (R118, R122). -/
theorem Traces.touchClass (n o line tc : Nat) (alloc : Bool) : Traces s (s.touchClass n o 3 line tc alloc) := by
  unfold State.touchClass
  dsimp only
  split
  · exact .refl
  · split
    · exact .refl
    · split
      · rename_i c hc
        have hcls : c.cls = 3 := by
          split at hc
          · obtain ⟨p, -, hp⟩ := Option.bind_eq_some_iff.mp hc
            have := List.find?_some hp
            simp only [Bool.and_eq_true, beq_iff_eq] at this
            exact this.1.1.1.1
          · cases hc
        split
        · exact .evict hcls
        · have hgone : Traces s { s with copies := s.copies.filter (· != c) } := .of_directory _ _ _
          exact hgone.trans (.allocate _ _ _ _ _ _)
      · split
        · exact .allocate _ _ _ _ _ _
        · exact .refl

theorem Traces.touchLocked (line : Nat) : Traces s (s.touchLocked line) := by
  unfold State.touchLocked
  split
  · exact .refl
  · exact .of_directory _ _ _

/-- The part of an access at the MSC (R69, R70). -/
theorem Traces.touch_msc (n o line tc : Nat) {cache : Nat} (hcache : 2 ≤ cache) (tier : Tier) (stream : Bool) (op : CacheOp) :
    Traces s (s.touch n o line cache tier stream op tc) := by
  have h0 : (decide (cache = 0) && op != .atomic) = false := by simp; omega
  have h1 : ¬ cache ≤ 1 := by omega
  unfold State.touch
  simp only [h0, if_neg h1, Bool.false_eq_true, if_false]
  split
  · split
    · split
      · exact (Traces.touchClass _ _ _ _ _).trans (.soil _ _)
      · exact Traces.touchClass _ _ _ _ _
    · exact .touchLocked _
  · exact .refl

end

end Sys2Proof.Machine
end

section
/-!
Accesses of image C to one line, from an empty cache directory on (spec/05_cache.md R69, R117 to R122): the copies of that line are
all there are, so that no access to it evicts.
-/
namespace Sys2Proof.Machine

/-- The place where owner `o` looks for a line in class `cls` for core `n` (R117, R118). -/
def State.home (s : State) (n o line cls : Nat) : Nat × Nat :=
  (cacheInst cls n (placeSet (s.owner o).keyNow cls (s.owner o).epoch (setBits cls) line) line,
    placeSet (s.owner o).keyNow cls (s.owner o).epoch (setBits cls) line)

/-- Every copy in the directory is one that an access of core `n` to the line for owner `o` finds; during bring-up, that is so
outside the MSC, whose lines then have places of their own (R353). -/
def OneLine (n o line : Nat) (s : State) : Prop :=
  ∀ c ∈ s.copies, (c.cls = 3 → s.boot.state = 4) →
    c.line = line ∧ c.owner = o ∧ (c.inst, c.set) = s.home n o line c.cls

section
variable {s : State} {n o line : Nat}

theorem OneLine.of_empty (h : s.copies = []) : OneLine n o line s := fun c hc => by rw [h] at hc; cases hc

/-- An allocation in a class without copies takes a free way (R122). -/
theorem State.allocate_none {cls : Nat} (hc : ∀ c ∈ s.copies, c.cls ≠ cls) (inst set line o : Nat) (ways : List Nat)
    (dirty : Bool) :
    ∃ f l, s.allocate cls inst set line o ways dirty = { s with traffic := s.traffic, fills := f, copies := s.copies ++ l } ∧
      ∀ c ∈ l, c.cls = cls ∧ c.inst = inst ∧ c.set = set ∧ c.line = line ∧ c.owner = o := by
  have hheld : (s.copies.filter fun c => c.cls == cls && c.inst == inst && c.set == set) = [] := by
    rw [List.filter_eq_nil_iff]
    intro c hm
    simp [hc c hm]
  unfold State.allocate
  cases ways with
  | nil => exact ⟨s.fills, [], by simp, by simp⟩
  | cons k ways =>
    simp only [hheld, List.any_nil, List.find?_cons, Bool.not_false]
    exact ⟨_, [_], rfl, by simp⟩

/-- A copy that an access would find keeps the line's own directory as it is. -/
theorem OneLine.append {cls : Nat} (h : OneLine n o line s) (f : Store (BitVec 32)) {l : List Copy}
    (hl : ∀ c ∈ l, c.cls = cls ∧ c.inst = (s.home n o line cls).1 ∧ c.set = (s.home n o line cls).2 ∧ c.line = line ∧ c.owner = o) :
    OneLine n o line { s with traffic := s.traffic, fills := f, copies := s.copies ++ l } := by
  intro c hc hboot
  rcases List.mem_append.mp hc with hold | hnew
  · exact h c hold hboot
  · obtain ⟨hcls, hinst, hset, hline, howner⟩ := hl c hnew
    refine ⟨hline, howner, ?_⟩
    rw [hcls, hinst, hset]
    rfl

/-- A lookup of the line finds its copy, or there is none in the class and it fills a free way. -/
theorem OneLine.touchClass {cls : Nat} (h : OneLine n o line s) (hcls : cls = 3 → s.boot.state = 4) (tc : Nat) (alloc : Bool) :
    Traces s (s.touchClass n o cls line tc alloc) ∧ OneLine n o line (s.touchClass n o cls line tc alloc) := by
  by_cases hany : ∃ c ∈ s.copies, c.cls = cls
  · obtain ⟨c, hc, rfl⟩ := hany
    obtain ⟨hline, howner, hplace⟩ := h c hc hcls
    have hfound : (s.copies.find? fun x => x.cls == c.cls && x.inst == (s.home n o line c.cls).1 &&
        x.set == (s.home n o line c.cls).2 && x.line == line && x.owner == o).isSome = true := by
      refine List.find?_isSome.mpr ⟨c, hc, ?_⟩
      rw [← hplace]
      simp [hline, howner]
    obtain ⟨y, hy⟩ := Option.isSome_iff_exists.mp hfound
    have hsame : s.touchClass n o c.cls line tc alloc = s := by
      unfold State.touchClass
      simp only [Owner.setOf, Bool.false_eq_true, if_false, Option.map_some]
      simp only [State.home] at hy
      rw [hy]
    rw [hsame]
    exact ⟨.refl, h⟩
  · have hnone : ∀ c ∈ s.copies, c.cls ≠ cls := fun c hc e => hany ⟨c, hc, e⟩
    have hmiss (inst set : Nat) : (s.copies.find? fun c =>
        c.cls == cls && c.inst == inst && c.set == set && c.line == line && c.owner == o) = none := by
      rw [List.find?_eq_none]
      intro c hm
      simp [hnone c hm]
    have hold : ∀ p : Option (Nat × Nat), (p.bind fun _ => (none : Option Copy)) = none := by intro p; cases p <;> rfl
    have hfill : s.touchClass n o cls line tc alloc =
        if alloc then s.allocate cls (s.home n o line cls).1 (s.home n o line cls).2 line o (s.waysOf o cls tc) else s := by
      unfold State.touchClass
      simp only [Owner.setOf, Bool.false_eq_true, if_false, Option.map_some, hmiss, hold, ite_self]
      rfl
    rw [hfill]
    split
    · obtain ⟨f, l, heq, hl⟩ := State.allocate_none hnone (s.home n o line cls).1 (s.home n o line cls).2 line o (s.waysOf o cls tc)
        false
      rw [heq]
      exact ⟨.of_directory _ _ _, h.append f hl⟩
    · exact ⟨.refl, h⟩

/-- A write that stays in the MSC marks the copy only. -/
theorem OneLine.soil (h : OneLine n o line s) (o' line' : Nat) : OneLine n o line (s.soil o' line') := by
  intro c hc hboot
  obtain ⟨d, hd, rfl⟩ := List.mem_map.mp hc
  split at hboot
  · rename_i hif
    simp only [hif, if_true]
    exact h d hd hboot
  · rename_i hif
    simp only [hif, Bool.false_eq_true, if_false]
    exact h d hd hboot

/-- During bring-up the MSC is no part of it. -/
theorem OneLine.touchLocked (h : OneLine n o line s) (hboot : s.boot.state ≠ 4) (line' : Nat) :
    OneLine n o line (s.touchLocked line') := by
  unfold State.touchLocked
  split
  · exact h
  · intro c hc hif
    rcases List.mem_append.mp hc with hold | hnew
    · exact h c hold hif
    · rw [List.mem_singleton] at hnew
      subst hnew
      exact absurd (hif rfl) hboot

/-- An access of image C past L1D (R69, R70). -/
theorem OneLine.touch (h : OneLine n o line s) (tc : Nat) (tier : Tier) (op : CacheOp) :
    Traces s (s.touch n o line 1 tier false op tc) ∧ OneLine n o line (s.touch n o line 1 tier false op tc) := by
  obtain ⟨htr, hone⟩ := h.touchClass (cls := 2) (fun e => by cases e) tc true
  have hl2 : s.touch n o line 1 tier false op tc =
      (let u := s.touchClass n o 2 line tc true
      if tier == .hbm then
        if u.boot.state == 4 then
          let pol := u.mscPolOf o tc
          let v := u.touchClass n o 3 line tc (mscAllocates pol (atMsc 1 op))
          if mscKeeps pol (atMsc 1 op) then v.soil o line else v
        else u.touchLocked line
      else u) := by
    unfold State.touch
    simp
  rw [hl2]
  dsimp only
  split
  · split
    · rename_i hboot
      obtain ⟨htr3, hone3⟩ := hone.touchClass (cls := 3) (fun _ => by simpa using hboot) tc
        (mscAllocates ((s.touchClass n o 2 line tc true).mscPolOf o tc) (atMsc 1 op))
      split
      · exact ⟨(htr.trans htr3).trans (.soil _ _), hone3.soil _ _⟩
      · exact ⟨htr.trans htr3, hone3⟩
    · rename_i hboot
      exact ⟨htr.trans (.touchLocked _), hone.touchLocked (by simpa using hboot) _⟩
  · exact ⟨htr, hone⟩

/-- A request on its way leaves the directory. -/
theorem OneLine.cross (h : OneLine n o line s) (o' who line' : Nat) (path : List (Nat × Nat)) :
    OneLine n o line (s.cross o' who line' path) := h

/-- Writes of memory leave the directory. -/
theorem OneLine.congr {t : State} (h : OneLine n o line s) (hc : t.copies = s.copies) (hb : t.boot = s.boot)
    (ho : t.owners = s.owners) : OneLine n o line t := by
  have hown : t.owner o = s.owner o := by rw [State.owner, State.owner, ho, hb]
  intro c hm hif
  rw [hc] at hm
  rw [hb] at hif
  rw [State.home, hown]
  exact h c hm hif

end

end Sys2Proof.Machine
end

section
/-!
A write of an engine in one image (spec/04_ordering.md R78, R79; spec/25_errors_and_containment.md R338, R345, R347): the bytes a
reader under the same key then sees, and what stays as it was.
-/
namespace Sys2Proof.Machine
open Sys2Proof.Claims

/-! ### What an engine's writes leave -/

/-- `t` is `s` but for the bytes of one image, poison marks, and traces. -/
structure Engine (img : Image) (s t : State) : Prop where
  cores : t.cores = s.cores
  clusters : t.clusters = s.clusters
  funcs : t.funcs = s.funcs
  boot : t.boot = s.boot
  owner : ∀ o, ∃ b, t.owner o = { s.owner o with balance := b }
  latent : s.latent = [] → t.latent = []
  merges : s.merges = [] → t.merges = []
  memB : img = .c → t.memB = s.memB
  memC : img = .b → t.memC = s.memC

section
variable {img : Image} {s t u : State}

theorem Traces.engine (h : Traces s t) : Engine img s t :=
  ⟨h.cores, h.clusters, h.funcs, h.boot, h.owner, fun e => h.latent.trans e, fun e => h.merges.trans e, fun _ => h.memB,
    fun _ => h.memC⟩

theorem Engine.refl : Engine img s s := Traces.refl.engine

theorem Engine.trans (h : Engine img s t) (k : Engine img t u) : Engine img s u where
  cores := k.cores.trans h.cores
  clusters := k.clusters.trans h.clusters
  funcs := k.funcs.trans h.funcs
  boot := k.boot.trans h.boot
  owner := fun o => by
    obtain ⟨b, hb⟩ := h.owner o
    obtain ⟨c, hc⟩ := k.owner o
    exact ⟨c, by rw [hc, hb]⟩
  latent := fun e => k.latent (h.latent e)
  merges := fun e => k.merges (h.merges e)
  memB := fun e => (k.memB e).trans (h.memB e)
  memC := fun e => (k.memC e).trans (h.memC e)

theorem Engine.keyFor (h : Engine img s t) (o : Nat) (sup : Bool) : t.keyFor o sup = s.keyFor o sup := by
  obtain ⟨b, hb⟩ := h.owner o
  rw [State.keyFor, State.keyFor, h.boot, hb]

/-- The dirty-sector ranges of an owner's device are configuration (R317). -/
theorem Engine.unmarked_of (h : Engine img s t) {o : Nat} (hs : unmarked s o) : unmarked t o := by
  have hslot : t.ownerSlot o = s.ownerSlot o := by rw [State.ownerSlot, State.ownerSlot, h.funcs]
  have hfunc : ∀ f, t.func f = s.func f := fun f => by rw [State.func, State.func, h.funcs, h.boot]
  intro j hj
  rw [hfunc, State.funcOf, hslot]
  exact hs j hj

end

/-! ### Image B -/

section
variable {s : State}

/-- A write of image B changes its bytes and the keys of its units. -/
theorem State.bWrite_eq {w : Nat} (s : State) (key : KeyVal) (x : BitVec w) (pa n : Nat) :
    ∃ m k, s.bWrite key x pa n = { s with memB := m, unitKey := k } := by
  induction n with
  | zero => exact ⟨_, _, rfl⟩
  | succ n ih =>
    obtain ⟨m, k, h⟩ := ih
    rw [State.bWrite, h, State.bWriteByte, State.bRekey]
    split
    · split <;> exact ⟨_, _, rfl⟩
    · exact ⟨_, _, rfl⟩

/-- With no error waiting to be detected, none is (R335). -/
theorem State.detectLine_none (h : s.latent = []) (line : Nat) (inC : Bool) (o : Nat) (va : Word) (n cause : Nat) :
    s.detectLine line inC o va n cause = s := by simp [State.detectLine, h]

/-- With no range enabled, no sector is marked (R317). -/
theorem State.markSector_none {o : Nat} (h : unmarked s o) (pa : Nat) : s.markSector o pa = s := by
  unfold State.markSector
  refine List.foldlRecOn (motive := fun t => t = s) (List.range 4) _ rfl fun t ht j hj => ?_
  have hlo := h j (List.mem_range.mp hj)
  subst ht
  simp [hlo]

/-- Clearing a mark changes no byte (R338). -/
theorem State.imgByte_clearPoison (img img' : Image) (line : Nat) (key : KeyVal) (y : Nat) :
    (s.clearPoison img' line).imgByte img key y = s.imgByte img key y := by
  cases img' with
  | b => cases img <;> rfl
  | c =>
    unfold State.clearPoison
    dsimp only
    split
    · rename_i l hl
      cases img with
      | b => rfl
      | c =>
        by_cases hy : y / 128 = line
        · subst hy
          simp only [State.imgByte, State.cByte, Store.find_put_same, hl]
          rfl
        · simp only [State.imgByte, State.cByte, Store.find_put_ne hy]
          rfl
    · cases img <;> rfl

theorem Engine.clearPoison (img : Image) (line : Nat) : Engine img s (s.clearPoison img line) := by
  cases img with
  | b => exact ⟨rfl, rfl, rfl, rfl, fun _ => ⟨_, rfl⟩, fun h => by simp [State.clearPoison, h], id, fun _ => rfl, fun _ => rfl⟩
  | c =>
    unfold State.clearPoison
    dsimp only
    split
    · exact ⟨rfl, rfl, rfl, rfl, fun _ => ⟨_, rfl⟩, fun h => by simp [h], id, fun _ => rfl, fun h => nomatch h⟩
    · exact ⟨rfl, rfl, rfl, rfl, fun _ => ⟨_, rfl⟩, fun h => by simp [h], id, fun _ => rfl, fun h => nomatch h⟩

/-! ### Image C -/

/-- A line that a reader brings in reads as before under the reader's key (R80, R347). -/
theorem State.fillLine_eq (h : s.latent = []) (line o : Nat) (sup : Bool) :
    ∃ m l, s.fillLine line o sup = { s with memC := m } ∧ Store.find line m = some l ∧
      (∀ k, k ≠ line → Store.find k m = Store.find k s.memC) ∧
      l.poison = s.poisonOf .c line ∧
      ∀ y, ({ s with memC := m } : State).cByte (s.keyFor o sup) y = s.cByte (s.keyFor o sup) y := by
  cases hfind : Store.find line s.memC with
  | some l =>
    refine ⟨s.memC, l, by simp [State.fillLine, hfind], hfind, fun _ _ => rfl, by simp [State.poisonOf, hfind], fun _ => rfl⟩
  | none =>
    have hfill : s.fillLine line o sup = { s with memC := Store.put line ⟨(List.range 128).map fun i =>
        s.bByte (s.keyFor o sup) (128 * line + i), false, Store.find line s.poisonB, o, sup⟩ s.memC } := by
      simp only [State.fillLine, hfind, State.detectLine_none h]
    refine ⟨_, _, hfill, Store.find_put_same _ _ _, fun k hk => Store.find_put_ne hk _ _, by simp [State.poisonOf, hfind],
      fun y => ?_⟩
    by_cases hy : y / 128 = line
    · subst hy
      have hdata : ((List.range 128).map fun i => s.bByte (s.keyFor o sup) (128 * (y / 128) + i)).getD (y % 128) 0 =
          s.bByte (s.keyFor o sup) y := by
        have hlt : y % 128 < 128 := Nat.mod_lt _ (by decide)
        simp [List.getD, hlt, Nat.div_add_mod]
      simp only [State.cByte, Store.find_put_same, hfind]
      exact (if_pos rfl).trans hdata
    · simp only [State.cByte, Store.find_put_ne hy]
      rfl

/-- A write within one line of image C is read back under its key, and no other byte changes (R80). -/
theorem State.cByte_cWrite {w : Nat} (h : s.latent = []) (o : Nat) (sup : Bool) (x : BitVec w) {pa n : Nat}
    (hfit : pa % 128 + n ≤ 128) (y : Nat) :
    (s.cWrite o sup x pa n).cByte (s.keyFor o sup) y =
      if pa ≤ y ∧ y < pa + n then byteAt x (y - pa) else s.cByte (s.keyFor o sup) y := by
  obtain ⟨m, l, hfill, hfind, hother, -, hbyte⟩ := State.fillLine_eq h (pa / 128) o sup
  have hkey : ({ s with memC := m } : State).keyFor o sup = s.keyFor o sup := rfl
  unfold State.cWrite
  simp only [hfill, hkey, hbyte]
  by_cases hy : y / 128 = pa / 128
  · have hlt : y % 128 < 128 := Nat.mod_lt _ (by decide)
    have hsum : 128 * (pa / 128) + y % 128 = y := by omega
    simp only [State.cByte, hy, Store.find_put_same]
    refine (if_pos rfl).trans ?_
    simp [List.getD, hlt, hsum, hy]
  · have hout : ¬(pa ≤ y ∧ y < pa + n) := by omega
    rw [if_neg hout, ← hbyte y]
    simp only [State.cByte, Store.find_put_ne hy]
    rfl

theorem Engine.cWrite {w : Nat} (h : s.latent = []) (o : Nat) (sup : Bool) (x : BitVec w) (pa n : Nat) :
    Engine .c s (s.cWrite o sup x pa n) := by
  obtain ⟨m, l, hfill, -⟩ := State.fillLine_eq h (pa / 128) o sup
  unfold State.cWrite
  simp only [hfill]
  exact ⟨rfl, rfl, rfl, rfl, fun _ => ⟨_, rfl⟩, id, fun e => by simp [State.closeMerges, e], fun _ => rfl, fun e => nomatch e⟩

/-! ### Either image -/

/-- A write that joins the coherence order changes no byte. -/
theorem Engine.joinOrder (img : Image) (d : Dest) (o pa n : Nat) : Engine img s (s.joinOrder d o pa n) :=
  ⟨rfl, rfl, rfl, rfl, fun _ => ⟨_, rfl⟩, id, id, fun _ => rfl, fun _ => rfl⟩

theorem Engine.bWrite {w : Nat} (key : KeyVal) (x : BitVec w) (pa n : Nat) : Engine .b s (s.bWrite key x pa n) := by
  obtain ⟨m, k, h⟩ := s.bWrite_eq key x pa n
  rw [h]
  exact ⟨rfl, rfl, rfl, rfl, fun _ => ⟨_, rfl⟩, id, id, fun e => (nomatch e), fun _ => rfl⟩

/-- With no error waiting to be detected and no range enabled, a write of image B is the write of its bytes, and of a whole line
clears its mark (R317, R338). -/
theorem State.imgWrite_b {w : Nat} (h : s.latent = []) {o : Nat} (hmark : unmarked s o) (sup : Bool) (x : BitVec w) (pa n : Nat) :
    s.imgWrite .b o sup x pa n =
      let u := (s.joinOrder (.main .b) o pa n).bWrite (s.keyFor o sup) x pa n
      if n = 128 then u.clearPoison .b (pa / 128) else u := by
  have hdetect : (s.joinOrder (.main .b) o pa n).detectLine (pa / 128) false o 0 0 0 = s.joinOrder (.main .b) o pa n :=
    State.detectLine_none (s := s.joinOrder (.main .b) o pa n) h _ _ _ _ _ _
  have hwrite : Engine .b s ((s.joinOrder (.main .b) o pa n).bWrite (s.keyFor o sup) x pa n) :=
    (Engine.joinOrder .b _ _ _ _).trans (Engine.bWrite _ _ _ _)
  have hkey : (s.joinOrder (.main .b) o pa n).keyFor o sup = s.keyFor o sup := rfl
  unfold State.imgWrite
  simp only [hdetect, ite_self, hkey]
  split
  · exact State.markSector_none ((hwrite.trans (Engine.clearPoison _ _)).unmarked_of hmark) _
  · exact State.markSector_none (hwrite.unmarked_of hmark) _

/-- A write of an engine: what is read back under its key (R78, R79, R317, R338). -/
theorem State.imgByte_imgWrite {w : Nat} (h : s.latent = []) (img : Image) {o : Nat} (hmark : unmarked s o) (sup : Bool)
    (x : BitVec w) {pa n : Nat} (hfit : pa % 128 + n ≤ 128) (y : Nat) :
    (s.imgWrite img o sup x pa n).imgByte img (s.keyFor o sup) y =
      if pa ≤ y ∧ y < pa + n then byteAt x (y - pa) else s.imgByte img (s.keyFor o sup) y := by
  cases img with
  | b =>
    have hbytes := State.bByte_bWrite (s.joinOrder (.main .b) o pa n) (s.keyFor o sup) x pa n y
    rw [State.imgWrite_b h hmark]
    dsimp only
    split
    · rw [State.imgByte_clearPoison]
      exact hbytes
    · exact hbytes
  | c =>
    have hbytes := State.cByte_cWrite (s := s.joinOrder (.main .c) o pa n) h o sup x hfit y
    unfold State.imgWrite
    dsimp only
    split
    · rw [State.imgByte_clearPoison]
      exact hbytes
    · exact hbytes

theorem Engine.imgWrite {w : Nat} (h : s.latent = []) (img : Image) {o : Nat} (hmark : unmarked s o) (sup : Bool)
    (x : BitVec w) (pa n : Nat) : Engine img s (s.imgWrite img o sup x pa n) := by
  cases img with
  | b =>
    have hwrite : Engine .b s ((s.joinOrder (.main .b) o pa n).bWrite (s.keyFor o sup) x pa n) :=
      (Engine.joinOrder .b _ _ _ _).trans (Engine.bWrite _ _ _ _)
    rw [State.imgWrite_b h hmark]
    dsimp only
    split
    · exact hwrite.trans (Engine.clearPoison _ _)
    · exact hwrite
  | c =>
    have hwrite : Engine .c s ((s.joinOrder (.main .c) o pa n).cWrite o sup x pa n) :=
      (Engine.joinOrder .c _ _ _ _).trans (Engine.cWrite (s := s.joinOrder (.main .c) o pa n) h _ _ _ _ _)
    unfold State.imgWrite
    dsimp only
    split
    · exact hwrite.trans (Engine.clearPoison _ _)
    · exact hwrite

/-- A write leaves the cache directory, the owners and the boot state. -/
theorem State.directory_imgWrite {w : Nat} (h : s.latent = []) (o : Nat) (sup : Bool) (x : BitVec w) (pa n : Nat) :
    (s.imgWrite .c o sup x pa n).copies = s.copies ∧ (s.imgWrite .c o sup x pa n).owners = s.owners := by
  obtain ⟨m, l, hfill, -⟩ := State.fillLine_eq (s := s.joinOrder (.main .c) o pa n) h (pa / 128) o sup
  unfold State.imgWrite
  dsimp only
  unfold State.cWrite
  simp only [hfill]
  split
  · unfold State.clearPoison
    dsimp only
    split <;> exact ⟨rfl, rfl⟩
  · exact ⟨rfl, rfl⟩

end

end Sys2Proof.Machine
end

section
/-!
What an engine reads (spec/04_ordering.md R91; spec/15_vm.md R309, R316; spec/12_matrix_copy_jobs.md R232, R241): the page of an
address that its unit holds, and the sector there.
-/
namespace Sys2Proof.Machine
open Sys2Proof.Claims

/-! ### Pages in an engine's hands (R316) -/

/-- The pages put the page of `va` where `pa` lies, under `leaf`. -/
def Pages.at_ (m : Pages) (va pa : Nat) (leaf : Word) : Prop :=
  Store.find (va / 4096) m = some (pa - va % 4096, leaf) ∧ pa % 4096 = va % 4096

section
variable {m : Pages} {va pa : Nat} {leaf : Word}

theorem Pages.at_.leaf_eq (h : m.at_ va pa leaf) {v : Nat} (hv : v / 4096 = va / 4096) : m.leaf v = leaf := by
  simp only [Pages.leaf, Store.get, hv, h.1, Option.getD_some]

theorem Pages.at_.pa_eq (h : m.at_ va pa leaf) {v : Nat} (hv : v / 4096 = va / 4096) : m.pa v = pa - va % 4096 + v % 4096 := by
  simp only [Pages.pa, Store.get, hv, h.1, Option.getD_some]

/-- An address of the sector of `va` lies as far into the sector of `pa`. -/
theorem Pages.at_.pa_sector (h : m.at_ va pa leaf) {i : Nat} (hi : i < 128) : m.pa (va - va % 128 + i) = pa - pa % 128 + i := by
  have hmod := h.2
  rw [h.pa_eq (by omega)]
  omega

theorem Pages.at_.pa_self (h : m.at_ va pa leaf) : m.pa va = pa := by
  have hmod := h.2
  rw [h.pa_eq rfl]
  omega

end

/-- An engine's page: the leaf of it serves the job's accesses in the image (R242, R248, R310). -/
structure JobLeaf (j : Job) (img : Image) (leaf : Word) : Prop where
  image : j.image leaf = img
  tier : j.type = 3 ∨ (j.type = 2 ∧ CCard.bank j.card = true) → Leaf.tier leaf ≠ 1

section
variable {s : State} {g : Nat} {j : Job} {img : Image} {w : Bool} {va pa : Nat}

/-- The engine has translated the page, or its unit holds the translation (R309, R316). -/
theorem State.engPages_one (h : enginePlace s g j img w va pa) :
    ∃ m leaf, s.engPages (j.walker g) j.owner j.sup w [va] j.pages = .ok s m ∧ Pages.at_ m va pa leaf ∧ JobLeaf j img leaf := by
  obtain ⟨t, hcached, hall, hok, hcow, himg, htier, hshift, hpa, hpages, hbreaks, -, -⟩ := h
  have hlarge : 12 ≤ t.shift := hshift t (List.mem_of_find?_eq_some hcached)
  have hmod : pa % 4096 = va % 4096 := by
    have hlow : va % 2 ^ t.shift % 4096 = va % 4096 := Nat.mod_mod_of_dvd _ (Nat.pow_dvd_pow 2 hlarge : 2 ^ 12 ∣ 2 ^ t.shift)
    rw [hpa, Leaf.frame]
    omega
  have htrans := State.translate_held hcached hall hok hcow hbreaks
  rw [← hpa] at htrans
  have hjob : JobLeaf j img t.leaf := ⟨himg, htier⟩
  by_cases hserves : Pages.serves j.pages va w = true
  · refine ⟨j.pages, t.leaf, by simp only [State.engPages, hserves, if_true], ⟨?_, hmod⟩, hjob⟩
    cases hfind : Store.find (va / 4096) j.pages with
    | none => simp [Pages.serves, hfind] at hserves
    | some x => rw [hpages x hfind]
  · refine ⟨Store.put (va / 4096) (pa - va % 4096, t.leaf) j.pages, t.leaf, ?_, ⟨Store.find_put_same _ _ _, hmod⟩, hjob⟩
    simp only [State.engPages, hserves, htrans]
    rfl

/-! ### Traces of an engine's access (R69, R127) -/

/-- The line of an engine's access is that of its physical address. -/
theorem Job.access_addr {m : Pages} {leaf : Word} (hm : m.at_ va pa leaf) : (j.access m va).addr = pa - pa % 128 :=
  congrArg (fun x => x - x % 128) hm.pa_self

theorem Job.access_line {m : Pages} {leaf : Word} (hm : m.at_ va pa leaf) : (j.access m va).addr / 128 = pa / 128 := by
  rw [Job.access_addr hm]
  omega

theorem Job.access_dest {m : Pages} {leaf : Word} (hm : m.at_ va pa leaf) (hl : JobLeaf j img leaf) :
    (j.access m va).dest = .main img := by
  rw [← hl.image, ← hm.leaf_eq rfl]
  rfl

/-- An access of image B passes L1D and L2 (R70). -/
theorem Job.access_cache_b {m : Pages} {leaf : Word} (hm : m.at_ va pa leaf) (hl : JobLeaf j .b leaf) :
    2 ≤ (j.access m va).cache := by
  have hb : (j.image (m.leaf va) == .b) = true := by rw [hm.leaf_eq rfl, hl.image]; rfl
  simp only [Job.access, hb, if_true]
  split <;> omega

/-- An access of image C passes L1D (R69, R70). -/
theorem Job.access_cache_c {m : Pages} {leaf : Word} (hm : m.at_ va pa leaf) (hl : JobLeaf j .c leaf) :
    (j.access m va).cache = 1 := by
  have hc : (j.image leaf == .b) = false := by rw [hl.image]; rfl
  have himage := hl.image
  unfold Job.image at himage
  split at himage
  · cases himage
  · rename_i hif
    have h3 : ¬ j.type = 3 := by
      intro e
      simp [e] at hif
    have hlow : Leaf.cache leaf < 2 := by
      unfold Leaf.image at himage
      split at himage
      · cases himage
      · rename_i hms
        simp only [Bool.or_eq_true, decide_eq_true_eq, not_or] at hms
        omega
    have hleaf : m.leaf va = leaf := hm.leaf_eq rfl
    simp only [Job.access, hc, if_neg h3, hleaf, Bool.false_eq_true, if_false]
    omega

/-- An engine's access of image B leaves traces only. -/
theorem State.engTouch_b {m : Pages} {leaf : Word} (hm : m.at_ va pa leaf) (hl : JobLeaf j .b leaf) (k : Walker) (tc : Nat)
    (op : CacheOp) : Traces s (s.engTouch k tc (j.access m va) op) :=
  (Traces.cross _ _ _ _ _).trans (Traces.touch_msc _ _ _ _ (Job.access_cache_b hm hl) _ _ _)

/-- An engine's access of image C leaves traces only, while the directory holds no line but its own. -/
theorem State.engTouch_c {m : Pages} {leaf : Word} (hm : m.at_ va pa leaf) (hl : JobLeaf j .c leaf) {k : Walker}
    (hone : OneLine k.core_ j.owner (pa / 128) s) (tc : Nat) (op : CacheOp) :
    Traces s (s.engTouch k tc (j.access m va) op) ∧ OneLine k.core_ j.owner (pa / 128) (s.engTouch k tc (j.access m va) op) := by
  have howner : (j.access m va).owner = j.owner := rfl
  unfold State.engTouch
  rw [Job.access_line hm, Job.access_cache_c hm hl, howner]
  have hcross := hone.cross j.owner k.source (pa / 128)
    (s.memPath k.place k.core_ j.owner (pa / 128) 1 (j.access m va).tier op tc)
  obtain ⟨htr, hafter⟩ := hcross.touch tc (j.access m va).tier op
  exact ⟨(Traces.cross _ _ _ _ _).trans htr, hafter⟩

/-! ### One sector (R91) -/

/-- With no window open, a read joins none (R72). -/
theorem State.joinFill_none {a : Access} (hdest : a.dest = .main img) (hclean : img = .c → s.merges = []) (n : Nat) :
    s.joinFill n a = s := by
  have hopen : s.openMerge n a = none := by
    unfold State.openMerge
    cases img with
    | b =>
      have hmiss : s.missesSlice n a = false := by simp [State.missesSlice, hdest]
      rw [hmiss]
      rfl
    | c =>
      rw [hclean rfl]
      split <;> rfl
  rw [State.joinFill, hopen]

/-- The line of a sector, with no error waiting and no poison there, is read as it stands (R335, R338). -/
theorem State.engLines_one {m : Pages} {leaf : Word} {n : Nat} {k : Walker} (hlat : s.latent = []) (hm : m.at_ va pa leaf)
    (hl : JobLeaf j img leaf) (hpoison : s.poisonOf img (pa / 128) = none) (hclean : img = .c → s.copies = [] ∧ s.merges = []) :
    ∃ u, s.engLines n k 2 false (j.access m) [va] = .ok u () ∧ Engine img s u ∧ u.memB = s.memB ∧
      ∀ y, u.imgByte img (s.keyFor j.owner j.sup) y = s.imgByte img (s.keyFor j.owner j.sup) y := by
  have hdest := Job.access_dest hm hl
  have hdetect : s.detect n (j.access m va) 0x05 = s := by
    simp only [State.detect, hdest]
    exact State.detectLine_none hlat _ _ _ _ _ _
  have hjoin := State.joinFill_none hdest (fun e => (hclean e).2) k.core_
  have hpoisonAt : ∀ u : State, u.poisonAt (j.access m va) = u.poisonOf img (pa / 128) := by
    intro u
    rw [State.poisonAt, hdest, Job.access_line hm]
  cases img with
  | b =>
    have htr : Traces s (s.engTouch k 2 (j.access m va) .read) := State.engTouch_b hm hl k 2 .read
    have hc : ((j.access m va).dest == .main .c) = false := by rw [hdest]; rfl
    have hnone := (htr.poisonOf .b (pa / 128)).trans hpoison
    refine ⟨_, ?_, htr.engine, htr.memB, fun y => htr.imgByte .b _ y⟩
    simp only [State.engLines, hdetect, hjoin, hc, Bool.false_eq_true, if_false, hpoisonAt, hnone]
  | c =>
    obtain ⟨htr, -⟩ := State.engTouch_c (s := s) (k := k) hm hl (.of_empty (hclean rfl).1) 2 .read
    have hc : ((j.access m va).dest == .main .c) = true := by rw [hdest]; rfl
    obtain ⟨mc, l, hfill, hfind, -, hmark, hbyte⟩ :=
      State.fillLine_eq (htr.latent.trans hlat) ((j.access m va).addr / 128) (j.access m va).owner (j.access m va).sup
    rw [Job.access_line hm] at hfill hfind hmark
    have hkey : (s.engTouch k 2 (j.access m va) .read).keyFor (j.access m va).owner (j.access m va).sup = s.keyFor j.owner j.sup :=
      htr.keyFor _ _
    rw [hkey] at hbyte
    have hfilled : Engine .c (s.engTouch k 2 (j.access m va) .read)
        { s.engTouch k 2 (j.access m va) .read with memC := mc } :=
      ⟨rfl, rfl, rfl, rfl, fun _ => ⟨_, rfl⟩, id, id, fun _ => rfl, fun e => nomatch e⟩
    have hnone : ({ s.engTouch k 2 (j.access m va) .read with memC := mc } : State).poisonOf .c (pa / 128) = none := by
      simp only [State.poisonOf, hfind]
      exact hmark.trans ((htr.poisonOf .c _).trans hpoison)
    refine ⟨_, ?_, htr.engine.trans hfilled, htr.memB, fun y => (hbyte y).trans (htr.imgByte .c _ y)⟩
    simp only [State.engLines, hdetect, hjoin, hc, if_true, Job.access_line hm, hfill, hpoisonAt, hnone]

/-- A sector that the engine may read is read as it stands: its bytes are those of the image, and nothing but a fill of image C is
left behind. -/
theorem State.sectorOf_held (hlat : s.latent = []) (h : enginePlace s g j img false va pa) :
    ∃ u m leaf, s.sectorOf g j va j.pages = .ok u m ∧ Pages.at_ m va pa leaf ∧ JobLeaf j img leaf ∧ Engine img s u ∧
      u.memB = s.memB ∧
      ∀ y, u.imgByte img (s.keyFor j.owner j.sup) y = s.imgByte img (s.keyFor j.owner j.sup) y := by
  obtain ⟨m, leaf, hpages, hm, hl⟩ := State.engPages_one h
  obtain ⟨t, -, -, -, -, -, -, -, -, -, -, hpoison, hclean⟩ := h
  have hcxl : ((j.type == 3 || (j.type == 2 && CCard.bank j.card)) && Leaf.tier (m.leaf va) == 1) = false := by
    have htier := hl.tier
    rw [hm.leaf_eq rfl]
    by_cases hused : j.type = 3 ∨ (j.type = 2 ∧ CCard.bank j.card = true)
    · simp [htier hused]
    · have : (j.type == 3 || (j.type == 2 && CCard.bank j.card)) = false := by simpa [not_or] using hused
      rw [this, Bool.false_and]
  have hline := State.engLines_one (s := s) (n := j.issuer) (k := j.walker g) hlat hm hl (hpoison rfl) hclean
  obtain ⟨u, hu, heng, hmemB, hbytes⟩ := hline
  refine ⟨u, m, leaf, ?_, hm, hl, heng, hmemB, hbytes⟩
  rw [State.sectorOf, hpages]
  simp only [Eng.bind, hcxl, hu, Bool.false_eq_true, if_false]

end

end Sys2Proof.Machine
end

section
/-!
The moves of a matrix job (spec/12_matrix_copy_jobs.md R232, R237; spec/04_ordering.md R91, R92).
-/
namespace Sys2Proof.Machine
open Sys2Proof.Claims

/-! ### The entry of a job (R226) -/

/-- The job in an entry is the one last put there. -/
theorem State.job_setJob (s : State) (g : Nat) {e : Nat} (he : e < 32) (j : Job) : ((s.setJob g e j).cluster g).job e = some j := by
  rw [State.setJob, State.cluster_updCluster_same, Cluster.setJob, Cluster.job]
  simp [Vector.getD, he]

/-- A job in its entry is the job afterwards. -/
theorem jobIs_setJob (s : State) (g : Nat) (e : BitVec 5) {j : Job} {p : Job → Prop} (h : p j) :
    jobIs (s.setJob g e.toNat j) g e.toNat p := ⟨j, s.job_setJob g e.isLt j, h⟩

/-- Entries are no part of the accumulator. -/
theorem State.acc_setJob (s : State) (g e : Nat) (j : Job) : ((s.setJob g e j).cluster g).acc = (s.cluster g).acc := by
  rw [State.setJob, State.cluster_updCluster_same]
  rfl

/-! ### Sectors (R91) -/

/-- A job that has read the sector of `va` holds its bytes, and all it held else. -/
theorem sectorHeld_hold {j : Job} {va : Nat} {bytes rd : Nat → Byte} (h : ∀ i, i < 128 → rd (va - va % 128 + i) = bytes i)
    (m : Pages) : sectorHeld j va bytes { j.hold va rd with pages := m } := by
  refine ⟨fun i hi => ?_, fun y hy => ?_, rfl⟩
  · have hdiv : (va - va % 128 + i) / 128 = va / 128 := by omega
    have hmod : (va - va % 128 + i) % 128 = i := by omega
    simp only [Job.heldByte, Job.hold, hdiv, hmod, Store.find_put_same]
    simp [List.getD, hi, h i hi]
  · simp only [Job.heldByte, Job.hold, Store.find_put_ne hy]

section
variable {s : State} {g : Nat} {e : BitVec 5} {j : Job} {img : Image} {va pa : Nat}

/-- One read move of a job from main memory. -/
theorem State.sectorRead_held (hlat : s.latent = []) (h : enginePlace s g j img false va pa) :
    ∃ u x, s.sectorRead g e.toNat j va = .ok (u.setJob g e.toNat x) () ∧ Engine img s u ∧ u.memB = s.memB ∧
      sectorHeld j va (fun i => s.imgByte img (s.keyFor j.owner j.sup) (pa - pa % 128 + i)) x := by
  obtain ⟨u, m, leaf, hread, hm, hl, heng, hmemB, hbytes⟩ := State.sectorOf_held hlat h
  refine ⟨u, { j.hold va (u.engByte j m) with pages := m }, ?_, heng, hmemB, sectorHeld_hold (fun i hi => ?_) m⟩
  · rw [State.sectorRead, hread]
    rfl
  · have hpage : (va - va % 128 + i) / 4096 = va / 4096 := by omega
    rw [State.engByte, hm.leaf_eq hpage, hl.image, heng.keyFor, hm.pa_sector hi]
    exact hbytes _

end

/-! ### Rows (R232) -/

/-- A state whose next choice is used up. -/
def State.chosen (s : State) : State := { s with choices := s.choices.tail }

section
variable {s : State} {g : BitVec 8} {e : BitVec 5} {j : Job}

/-- MATRIX_ROW_COMMIT makes the next move of the job, when the job works and the engine chooses not to read ahead. -/
theorem exec_matrixRowCommit {t : State} (hj : (s.cluster g.toNat).job e.toNat = some j) (hrun : j.state = .running)
    (hworks : s.ownerRuns g.toNat j.owner = true ∨ j.part ≠ 0) (htype : j.type = 1) (hprog : j.prog < 32)
    (hmove : s.rowCommit g.toNat e.toNat j = .ok t ()) : exec (.matrixRowCommit g e) s = .next t := by
  have hexec : exec (.matrixRowCommit g e) s = execMatrixRowCommit g e s := rfl
  have hgoal : j.goal = 32 := by rw [Job.goal, if_pos htype]
  have hjob : s.jobWorks g.toNat j 1 = true := by
    simp only [State.jobWorks, htype, hrun, hgoal, hprog, decide_true, beq_self_eq_true, Bool.true_and, Bool.or_eq_true,
      bne_iff_ne, ne_eq]
    exact hworks
  rw [hexec, execMatrixRowCommit, event_next, State.rowMove, hj]
  simp only [hjob, if_true, hmove, Eng.settle]

/-- The next move of a row that still needs a sector. -/
theorem State.rowCommit_read (hch : s.choices.headD 0 = 0) {va : Nat} (h : j.nextRead (j.rowLines j.prog) = some va) :
    s.rowCommit g.toNat e.toNat j = s.chosen.sectorRead g.toNat e.toNat j va := by
  rw [State.rowCommit, State.readAhead_none hch, h]
  rfl

/-- The next move of a row that still needs an element of the accumulator. -/
theorem State.rowCommit_acc (hch : s.choices.headD 0 = 0) {p : Nat} (h : j.nextRead (j.rowLines j.prog) = none)
    (hacc : j.nextAcc = some p) :
    s.rowCommit g.toNat e.toNat j = .ok (s.chosen.setJob g.toNat e.toNat
      { j with accs := Store.put p ((s.cluster g.toNat).accRead (j.accAt j.prog p) 4).toNat j.accs }) () := by
  rw [State.rowCommit, State.readAhead_none hch, h, hacc]
  rfl

/-- The accumulator after an element of a row is committed (R232). -/
def State.accCommit (s : State) (g : Nat) (j : Job) : State :=
  (s.updCluster g fun q => q.accWrite (j.accAt j.prog j.part) 4 (j.accWord j.prog j.part)).joinOrder (.cluster g) j.owner
    (j.accAt j.prog j.part) 4

/-- The next move of a row of which the engine holds all it reads. -/
theorem State.rowCommit_write (hch : s.choices.headD 0 = 0) (h : j.nextRead (j.rowLines j.prog) = none) (hacc : j.nextAcc = none) :
    s.rowCommit g.toNat e.toNat j = .ok ((s.chosen.accCommit g.toNat j).setJob g.toNat e.toNat
      (j.elementDone (Config.engineKeeps s.moves))) () := by
  rw [State.rowCommit, State.readAhead_none hch, h, hacc]
  rfl

end

/-! ### Values in storage order (R5) -/

theorem byteAt_toNat {w : Nat} (x : BitVec w) (i : Nat) : (byteAt x i).toNat = x.toNat / 256 ^ i % 256 := by
  rw [byteAt, BitVec.extractLsb'_toNat, Nat.shiftRight_eq_div_pow, Nat.pow_mul]

/-- Bytes that are those of a number join to its low bytes. -/
theorem joinBytes_of_digits {f : Nat → Byte} {a n v : Nat} (h : ∀ i, i < n → (f (a + i)).toNat = v / 256 ^ i % 256) :
    joinBytes f a n = v % 256 ^ n := by
  induction n generalizing a v with
  | zero => simp [joinBytes, Nat.mod_one]
  | succ n ih =>
    have hhead := h 0 (by omega)
    have htail := ih (a := a + 1) (v := v / 256) fun i hi => by
      have := h (i + 1) (by omega)
      rw [show a + 1 + i = a + (i + 1) by omega, this, Nat.div_div_eq_div_mul, Nat.pow_succ, Nat.mul_comm 256]
    rw [Nat.add_zero, Nat.pow_zero, Nat.div_one] at hhead
    rw [joinBytes, htail, hhead, Nat.pow_succ, Nat.mul_comm (256 ^ n), Nat.mod_mul]

/-- The value of bytes that have been written (R5). -/
theorem littleEndian_of_bytes {w : Nat} {x : BitVec w} {f : Nat → Byte} {a n : Nat} (h : ∀ i, i < n → f (a + i) = byteAt x i) :
    littleEndian f a n = x.toNat % 2 ^ (8 * n) := by
  rw [← joinBytes_eq_littleEndian, joinBytes_of_digits fun i hi => by rw [h i hi, byteAt_toNat], Nat.pow_mul]

/-! ### The moves of a row -/

section
variable {s : State} {g : BitVec 8} {e : BitVec 5} {j : Job}

/-- The accumulator's bytes after an element is committed. -/
theorem State.accByte_accCommit (g : Nat) (y : Nat) : ((s.accCommit g j).cluster g).accByte y =
    if j.accAt j.prog j.part ≤ y ∧ y < j.accAt j.prog j.part + 4 then byteAt (j.accWord j.prog j.part) (y - j.accAt j.prog j.part)
    else (s.cluster g).accByte y := by
  have hcluster : (s.accCommit g j).cluster g = (s.cluster g).accWrite (j.accAt j.prog j.part) 4 (j.accWord j.prog j.part) :=
    State.cluster_updCluster_same s g fun q => q.accWrite (j.accAt j.prog j.part) 4 (j.accWord j.prog j.part)
  rw [hcluster, Cluster.accByte, Cluster.accWrite, memRead_writeBytes]
  split <;> rfl

/-- Bytes of the accumulator do not depend on the entries. -/
theorem State.accByte_setJob (s : State) (g e : Nat) (j : Job) (y : Nat) :
    ((s.setJob g e j).cluster g).accByte y = (s.cluster g).accByte y := by
  rw [Cluster.accByte, State.acc_setJob]
  rfl

/-- The value of an element that is committed (R232). -/
theorem Job.accWord_toNat (j : Job) (i p : Nat) : (j.accWord i p).toNat =
    (if j.rowWords = 64 then j.accNew j.heldByte i (p / 2) / 2 ^ (32 * (p % 2)) else j.accNew j.heldByte i p) % 2 ^ 32 := by
  rw [Job.accWord]
  split <;> exact BitVec.toNat_ofNat _ _

/-- A row's last element ends the row, and another makes way for the next one (R232, R237). -/
theorem Job.elementDone_spec (hrun : j.state = .running) (keep : Bool) :
    if j.rowWords ≤ j.part + 1 then
      (j.elementDone keep).prog = j.prog + 1 ∧ (j.elementDone keep).part = 0 ∧
        ((j.elementDone keep).state = if j.cancel then .cancelled else .running) ∧ (j.elementDone keep).accs = [] ∧
        ((j.elementDone keep).held = j.held ∨ (j.elementDone keep).held = [])
    else j.elementDone keep = { j with part := j.part + 1 } := by
  unfold Job.elementDone
  split
  · refine ⟨rfl, rfl, ?_, rfl, ?_⟩
    · simp only [Job.advance, hrun]
    · cases keep with
      | true => exact .inl rfl
      | false => exact .inr rfl
  · rfl

/-- A row that needs a sector of main memory reads it (R91). -/
theorem matrixRow_reads (hj : (s.cluster g.toNat).job e.toNat = some j) (hrun : j.state = .running)
    (hworks : s.ownerRuns g.toNat j.owner = true ∨ j.part ≠ 0) (htype : j.type = 1) (hprog : j.prog < 32)
    (hch : s.choices.headD 0 = 0) {va pa : Nat} {img : Image} (hnext : j.nextRead (j.rowLines j.prog) = some va)
    (hlat : s.latent = []) (hplace : enginePlace s g.toNat j img false va pa) :
    ∃ t, exec (.matrixRowCommit g e) s = .next t ∧
      jobIs t g.toNat e.toNat (sectorHeld j va fun i => s.imgByte img (s.keyFor j.owner j.sup) (pa - pa % 128 + i)) ∧
      (t.cluster g.toNat).acc = (s.cluster g.toNat).acc ∧ t.memB = s.memB ∧ (img = .b → t.memC = s.memC) := by
  obtain ⟨u, x, hread, heng, hmemB, hheld⟩ := State.sectorRead_held (s := s.chosen) (e := e) hlat hplace
  have hmove := (State.rowCommit_read (g := g) (e := e) hch hnext).trans hread
  refine ⟨_, exec_matrixRowCommit hj hrun hworks htype hprog hmove, jobIs_setJob _ _ _ hheld, ?_, hmemB, heng.memC⟩
  rw [State.acc_setJob, State.cluster, heng.clusters]
  rfl

/-- A row that needs an element of the accumulator reads it (R232). -/
theorem matrixRow_readsAcc (hj : (s.cluster g.toNat).job e.toNat = some j) (hrun : j.state = .running)
    (hworks : s.ownerRuns g.toNat j.owner = true ∨ j.part ≠ 0) (htype : j.type = 1) (hprog : j.prog < 32)
    (hch : s.choices.headD 0 = 0) {p : Nat} (hnext : j.nextRead (j.rowLines j.prog) = none) (hacc : j.nextAcc = some p) :
    ∃ t, exec (.matrixRowCommit g e) s = .next t ∧
      jobIs t g.toNat e.toNat (fun x => x =
        { j with accs := Store.put p (littleEndian (s.cluster g.toNat).accByte (j.accAt j.prog p) 4) j.accs }) ∧
      (t.cluster g.toNat).acc = (s.cluster g.toNat).acc ∧ t.memB = s.memB ∧ t.memC = s.memC := by
  have hread : ((s.cluster g.toNat).accRead (j.accAt j.prog p) 4).toNat =
      littleEndian (s.cluster g.toNat).accByte (j.accAt j.prog p) 4 := by
    have hlt := joinBytes_lt (s.cluster g.toNat).accByte (j.accAt j.prog p) 4
    rw [Cluster.accRead, readWord, BitVec.toNat_ofNat, ← joinBytes_eq_littleEndian, Nat.mod_eq_of_lt (by omega : _ < 2 ^ 64)]
  have hmove := State.rowCommit_acc (g := g) (e := e) hch hnext hacc
  rw [hread] at hmove
  exact ⟨_, exec_matrixRowCommit hj hrun hworks htype hprog hmove, jobIs_setJob _ _ _ rfl, State.acc_setJob _ _ _ _, rfl, rfl⟩

/-- A row of which the engine holds all commits its next element (R232, R237). -/
theorem matrixRow_commits (hj : (s.cluster g.toNat).job e.toNat = some j) (hrun : j.state = .running)
    (hworks : s.ownerRuns g.toNat j.owner = true ∨ j.part ≠ 0) (htype : j.type = 1) (hprog : j.prog < 32)
    (hch : s.choices.headD 0 = 0) (hnext : j.nextRead (j.rowLines j.prog) = none) (hacc : j.nextAcc = none) :
    let at_ := j.accAt j.prog j.part
    let new := if j.rowWords = 64 then j.accNew j.heldByte j.prog (j.part / 2) / 2 ^ (32 * (j.part % 2))
      else j.accNew j.heldByte j.prog j.part
    ∃ t, exec (.matrixRowCommit g e) s = .next t ∧
      littleEndian (t.cluster g.toNat).accByte at_ 4 = new % 2 ^ 32 ∧
      (∀ y, (y < at_ ∨ at_ + 4 ≤ y) → (t.cluster g.toNat).accByte y = (s.cluster g.toNat).accByte y) ∧
      jobIs t g.toNat e.toNat (fun x =>
        if j.rowWords ≤ j.part + 1 then
          x.prog = j.prog + 1 ∧ x.part = 0 ∧ (x.state = if j.cancel then .cancelled else .running) ∧ x.accs = [] ∧
            (x.held = j.held ∨ x.held = [])
        else x = { j with part := j.part + 1 }) ∧
      t.coherence = s.coherence ++ [⟨.cluster g.toNat, at_, 4, j.owner⟩] ∧ t.memB = s.memB ∧ t.memC = s.memC := by
  intro at_ new
  have hmove := State.rowCommit_write (g := g) (e := e) hch hnext hacc
  have hbytes : ∀ y, ((((s.chosen.accCommit g.toNat j).setJob g.toNat e.toNat
      (j.elementDone (Config.engineKeeps s.moves))).cluster g.toNat).accByte y) =
      if at_ ≤ y ∧ y < at_ + 4 then byteAt (j.accWord j.prog j.part) (y - at_) else (s.cluster g.toNat).accByte y := fun y =>
    (State.accByte_setJob _ _ _ _ _).trans (State.accByte_accCommit _ _)
  refine ⟨_, exec_matrixRowCommit hj hrun hworks htype hprog hmove, ?_, fun y hy => ?_,
    jobIs_setJob _ _ _ (Job.elementDone_spec hrun _), rfl, rfl, rfl⟩
  · rw [littleEndian_of_bytes (x := j.accWord j.prog j.part) fun i hi => by
      rw [hbytes, if_pos (by omega), Nat.add_sub_cancel_left], Job.accWord_toNat, Nat.mod_mod]
  · rw [hbytes, if_neg (by omega)]

end

end Sys2Proof.Machine
end

section
/-!
What an engine writes in one sector (spec/04_ordering.md R91; spec/12_matrix_copy_jobs.md R241, R247;
spec/25_errors_and_containment.md R338).
-/
namespace Sys2Proof.Machine
open Sys2Proof.Claims

/-! ### One write -/

section
variable {m : Pages} {va pa v : Nat} {leaf : Word}

/-- The page of an address is the page of the others in it. -/
theorem Pages.at_.same_page (h : m.at_ va pa leaf) (hv : v / 4096 = va / 4096) : m.at_ v (m.pa v) leaf := by
  have hmod := h.2
  have hpa := h.pa_eq hv
  refine ⟨?_, by omega⟩
  rw [hv, h.1]
  congr 2
  omega

/-- Addresses of one page lie in memory as they lie in the page. -/
theorem Pages.at_.pa_add (h : m.at_ va pa leaf) (hv : v / 4096 = va / 4096) : m.pa v + va = m.pa va + v := by
  have hmod := h.2
  rw [h.pa_eq hv, h.pa_self]
  omega

end

/-- The state lets the engine of job `j` write in one line of the image. -/
structure WritesLine (s : State) (g : Nat) (j : Job) (img : Image) (line : Nat) : Prop where
  latent : s.latent = []
  unmarked : unmarked s j.owner
  one : img = .c → OneLine (j.walker g).core_ j.owner line s

section
variable {s : State} {g : Nat} {j : Job} {img : Image} {m : Pages} {va pa : Nat} {leaf : Word}

/-- A write of an engine within a line (R91). -/
theorem State.engWrite_spec {w : Nat} (hm : m.at_ va pa leaf) (hl : JobLeaf j img leaf) (hs : WritesLine s g j img (pa / 128))
    (x : BitVec w) {k : Nat} (hfit : va % 128 + k ≤ 128) :
    Engine img s (s.engWrite g j m va x k) ∧ WritesLine (s.engWrite g j m va x k) g j img (pa / 128) ∧
      ∀ y, (s.engWrite g j m va x k).imgByte img (s.keyFor j.owner j.sup) y =
        if pa ≤ y ∧ y < pa + k then byteAt x (y - pa) else s.imgByte img (s.keyFor j.owner j.sup) y := by
  have hmod := hm.2
  have hfit' : pa % 128 + k ≤ 128 := by omega
  have hwrite : s.engWrite g j m va x k =
      (s.engTouch (j.walker g) 2 (j.access m va) .write).imgWrite img j.owner j.sup x pa k := by
    rw [State.engWrite, hm.leaf_eq rfl, hl.image, hm.pa_self]
  have htouch : Traces s (s.engTouch (j.walker g) 2 (j.access m va) .write) ∧
      (img = .c → OneLine (j.walker g).core_ j.owner (pa / 128) (s.engTouch (j.walker g) 2 (j.access m va) .write)) := by
    cases img with
    | b => exact ⟨State.engTouch_b hm hl _ _ _, fun e => nomatch e⟩
    | c =>
      obtain ⟨htr, hone⟩ := State.engTouch_c hm hl (hs.one rfl) 2 .write
      exact ⟨htr, fun _ => hone⟩
  obtain ⟨htr, hone⟩ := htouch
  have hlat : (s.engTouch (j.walker g) 2 (j.access m va) .write).latent = [] := htr.latent.trans hs.latent
  have hmark := (htr.engine (img := img)).unmarked_of hs.unmarked
  have heng : Engine img s (s.engWrite g j m va x k) := by
    rw [hwrite]
    exact htr.engine.trans (Engine.imgWrite hlat img hmark j.sup x pa k)
  refine ⟨heng, ⟨heng.latent hs.latent, heng.unmarked_of hs.unmarked, fun hc => ?_⟩, fun y => ?_⟩
  · subst hc
    rw [hwrite]
    obtain ⟨hcopies, howners⟩ := State.directory_imgWrite hlat j.owner j.sup x pa k
    have hboot := (Engine.imgWrite hlat .c hmark j.sup x pa k).boot
    exact (hone rfl).congr hcopies hboot howners
  · rw [hwrite, ← htr.keyFor, State.imgByte_imgWrite hlat img hmark j.sup x hfit', htr.imgByte]

end

/-! ### The elements of one sector -/

/-- A list of elements of `z` bytes each, apart from each other, in the sector of `d`, which is main memory. -/
structure SectorList (z d : Nat) (l : List (Nat × Nat)) : Prop where
  size : elementSize z
  sector : ∀ p ∈ l, p.1 / 128 = d / 128
  aligned : ∀ p ∈ l, p.1 % z = 0
  apart : (l.map Prod.fst).Nodup

theorem elementSize_pos {z : Nat} (h : elementSize z) : 0 < z := by
  rcases h with rfl | rfl | rfl | rfl <;> decide

/-- An aligned element lies within a line. -/
theorem elementSize_fits {z a : Nat} (h : elementSize z) (ha : a % z = 0) : a % 128 + z ≤ 128 := by
  rcases h with rfl | rfl | rfl | rfl <;> omega

/-- Aligned elements at two addresses do not meet. -/
theorem elementSize_apart {z a b : Nat} (h : elementSize z) (ha : a % z = 0) (hb : b % z = 0) (hne : a ≠ b) :
    a + z ≤ b ∨ b + z ≤ a := by
  rcases h with rfl | rfl | rfl | rfl <;> omega

theorem SectorList.tail {z d : Nat} {p : Nat × Nat} {l : List (Nat × Nat)} (h : SectorList z d (p :: l)) : SectorList z d l :=
  ⟨h.size, fun q hq => h.sector q (List.mem_cons_of_mem _ hq), fun q hq => h.aligned q (List.mem_cons_of_mem _ hq),
    (List.nodup_cons.mp h.apart).2⟩

/-- What a state has after elements have been written: their bytes, and every other byte as it was. -/
structure Written (s t : State) (img : Image) (key : KeyVal) (m : Pages) (z : Nat) (l : List (Nat × Nat)) : Prop where
  engine : Engine img s t
  bytes : ∀ p ∈ l, ∀ k, k < z → t.imgByte img key (m.pa p.1 + k) = byteAt (BitVec.ofNat 64 p.2) k
  others : ∀ y, (∀ p ∈ l, y < m.pa p.1 ∨ m.pa p.1 + z ≤ y) → t.imgByte img key y = s.imgByte img key y

section
variable {s : State} {g : Nat} {j : Job} {img : Image} {m : Pages} {d pa z : Nat} {leaf : Word} {l : List (Nat × Nat)}

/-- Addresses of one sector lie in one line of memory. -/
theorem Pages.at_.line {v : Nat} (hm : m.at_ d pa leaf) (hv : v / 128 = d / 128) : m.pa v / 128 = pa / 128 := by
  have hmod := hm.2
  rw [hm.pa_eq (by omega)]
  omega

/-- Elements written one by one. -/
theorem State.engWrites_spec (hm : m.at_ d pa leaf) (hleaf : JobLeaf j img leaf) (hl : SectorList z d l)
    (hs : WritesLine s g j img (pa / 128)) :
    Written s (l.foldl (fun s p => s.engWrite g j m p.1 (BitVec.ofNat 64 p.2) z) s) img (s.keyFor j.owner j.sup) m z l := by
  induction l generalizing s with
  | nil => exact ⟨.refl, fun p hp => (nomatch hp), fun _ _ => rfl⟩
  | cons p l ih =>
    have hsector := hl.sector p List.mem_cons_self
    have haligned := hl.aligned p List.mem_cons_self
    have hpage : p.1 / 4096 = d / 4096 := by omega
    have hat := hm.same_page hpage
    have hline : m.pa p.1 / 128 = pa / 128 := hm.line hsector
    obtain ⟨heng, hafter, hbyte⟩ := State.engWrite_spec hat hleaf (hline.symm ▸ hs) (BitVec.ofNat 64 p.2)
      (elementSize_fits hl.size haligned)
    rw [hline] at hafter
    have hrest := ih hl.tail hafter
    rw [heng.keyFor] at hrest
    have hapart : ∀ q ∈ l, m.pa p.1 + z ≤ m.pa q.1 ∨ m.pa q.1 + z ≤ m.pa p.1 := by
      intro q hq
      have hq' := hl.sector q (List.mem_cons_of_mem _ hq)
      have hne : p.1 ≠ q.1 := fun e =>
        (List.nodup_cons.mp hl.apart).1 (e ▸ List.mem_map_of_mem hq)
      have hp1 := hm.pa_add hpage
      have hq1 := hm.pa_add (v := q.1) (by omega)
      have := elementSize_apart hl.size haligned (hl.aligned q (List.mem_cons_of_mem _ hq)) hne
      omega
    refine ⟨heng.trans hrest.engine, fun q hq k hk => ?_, fun y hy => ?_⟩
    · rcases List.mem_cons.mp hq with rfl | hmem
      · rw [List.foldl_cons, hrest.others _ fun r hr => by have := hapart r hr; omega, hbyte, if_pos (by omega),
          Nat.add_sub_cancel_left]
      · exact hrest.bytes q hmem k hk
    · have hhead := hy p List.mem_cons_self
      rw [List.foldl_cons, hrest.others y fun q hq => hy q (List.mem_cons_of_mem _ hq), hbyte, if_neg (by omega)]

/-! ### A whole sector (R338) -/

/-- The bytes of a list of elements, where it has them; where two meet, those of the later. -/
def elementByte (z : Nat) (l : List (Nat × Nat)) (a : Nat) : Option Byte :=
  (l.reverse.find? fun x => decide (x.1 ≤ a) && decide (a < x.1 + z)).map fun x => byteAt (BitVec.ofNat 64 x.2) (a - x.1)

/-- Elements apart from each other have each its own bytes. -/
theorem elementByte_of_mem (hl : SectorList z d l) {p : Nat × Nat} (hp : p ∈ l) {k : Nat} (hk : k < z) :
    elementByte z l (p.1 + k) = some (byteAt (BitVec.ofNat 64 p.2) k) := by
  have hsome : (l.reverse.find? fun x => decide (x.1 ≤ p.1 + k) && decide (p.1 + k < x.1 + z)).isSome = true :=
    List.find?_isSome.mpr ⟨p, List.mem_reverse.mpr hp, by simp; omega⟩
  obtain ⟨q, hq⟩ := Option.isSome_iff_exists.mp hsome
  have hmem : q ∈ l := List.mem_reverse.mp (List.mem_of_find?_eq_some hq)
  have hcover := List.find?_some hq
  simp only [Bool.and_eq_true, decide_eq_true_eq] at hcover
  have haddr : p.1 = q.1 := by
    by_contra hne
    have := elementSize_apart hl.size (hl.aligned p hp) (hl.aligned q hmem) hne
    omega
  have hsame : q = p := (List.inj_on_of_nodup_map hl.apart hp hmem haddr).symm
  rw [elementByte, hq, hsame, Option.map_some, Nat.add_sub_cancel_left]

/-- A byte that a list of elements has is one of an element. -/
theorem exists_of_elementByte {a : Nat} (h : (elementByte z l a).isSome = true) : ∃ p ∈ l, p.1 ≤ a ∧ a < p.1 + z := by
  rw [elementByte, Option.isSome_map] at h
  obtain ⟨p, hp⟩ := Option.isSome_iff_exists.mp h
  have hcover := List.find?_some hp
  simp only [Bool.and_eq_true, decide_eq_true_eq] at hcover
  exact ⟨p, List.mem_reverse.mp (List.mem_of_find?_eq_some hp), hcover⟩

/-- A digit of bytes joined is a byte (R5). -/
theorem digits_joinBytes (f : Nat → Byte) (a : Nat) {n i : Nat} (hi : i < n) :
    joinBytes f a n / 256 ^ i % 256 = (f (a + i)).toNat := by
  induction n generalizing a i with
  | zero => omega
  | succ n ih =>
    have hbyte : (f a).toNat < 256 := (f a).isLt
    cases i with
    | zero =>
      simp only [joinBytes, Nat.pow_zero, Nat.div_one, Nat.add_zero]
      omega
    | succ i =>
      have hrest := ih (a + 1) (i := i) (by omega)
      have hdiv : ((f a).toNat + 256 * joinBytes f (a + 1) n) / 256 = joinBytes f (a + 1) n := by omega
      rw [joinBytes, Nat.pow_succ', ← Nat.div_div_eq_div_mul, hdiv, hrest, Nat.add_right_comm, Nat.add_assoc]

/-- Bytes joined are read back one by one (R5). -/
theorem byteAt_joinBytes (f : Nat → Byte) (a : Nat) {n w i : Nat} (hw : 8 * n ≤ w) (hi : i < n) :
    byteAt (BitVec.ofNat w (joinBytes f a n)) i = f (a + i) := by
  have hlt : joinBytes f a n < 2 ^ w := Nat.lt_of_lt_of_le (joinBytes_lt f a n) (Nat.pow_le_pow_right (by decide) hw)
  apply BitVec.eq_of_toNat_eq
  rw [byteAt_toNat, BitVec.toNat_ofNat, Nat.mod_eq_of_lt hlt, digits_joinBytes f a hi]

/-- The sector written whole, in one move. -/
theorem State.engWhole_spec (hm : m.at_ d pa leaf) (hleaf : JobLeaf j img leaf) (hl : SectorList z d l)
    (hs : WritesLine s g j img (pa / 128))
    (hall : ((List.range 128).all fun i => (elementByte z l (d - d % 128 + i)).isSome) = true) :
    Written s (s.engWrite g j m (d - d % 128)
      (BitVec.ofNat 1024 (joinBytes (fun a => (elementByte z l a).getD 0) (d - d % 128) 128)) 128) img
      (s.keyFor j.owner j.sup) m z l := by
  have hmod := hm.2
  have hpage : (d - d % 128) / 4096 = d / 4096 := by omega
  have hat := hm.same_page hpage
  have hline : m.pa (d - d % 128) / 128 = pa / 128 := hm.line (by omega)
  have hbase := hm.pa_add hpage
  obtain ⟨heng, -, hbyte⟩ := State.engWrite_spec (k := 128) hat hleaf (hline.symm ▸ hs)
    (BitVec.ofNat 1024 (joinBytes (fun a => (elementByte z l a).getD 0) (d - d % 128) 128)) (by omega)
  refine ⟨heng, fun p hp k hk => ?_, fun y hy => ?_⟩
  · have hsector := hl.sector p hp
    have hfits := elementSize_fits hl.size (hl.aligned p hp)
    have hp1 := hm.pa_add (v := p.1) (by omega)
    rw [hbyte, if_pos (by omega), byteAt_joinBytes _ _ (by decide) (by omega),
      show d - d % 128 + (m.pa p.1 + k - m.pa (d - d % 128)) = p.1 + k by omega, elementByte_of_mem hl hp hk, Option.getD_some]
  · rw [hbyte, if_neg]
    intro hin
    have hcovered := List.all_eq_true.mp hall (y - m.pa (d - d % 128)) (List.mem_range.mpr (by omega))
    obtain ⟨p, hp, hcover⟩ := exists_of_elementByte hcovered
    have hsector := hl.sector p hp
    have hp1 := hm.pa_add (v := p.1) (by omega)
    have := hy p hp
    omega

/-- The write of one sector's elements (R91, R241). -/
theorem State.copyWrite_spec (hm : m.at_ d pa leaf) (hleaf : JobLeaf j img leaf) (hl : SectorList z d l)
    (hs : WritesLine s g j img (pa / 128)) (hhead : (l.head?.map Prod.fst) = some d) (hplate : plateAt d = none) :
    Written s (s.copyWrite g j m z l) img (s.keyFor j.owner j.sup) m z l := by
  obtain ⟨p, rest, rfl⟩ : ∃ p rest, l = p :: rest := by
    cases l with
    | nil => cases hhead
    | cons p rest => exact ⟨p, rest, rfl⟩
  have hd : p.1 = d := by simpa using hhead
  subst hd
  have hcopy : s.copyWrite g j m z (p :: rest) =
      if (List.range 128).all fun i => (elementByte z (p :: rest) (p.1 - p.1 % 128 + i)).isSome then
        s.engWrite g j m (p.1 - p.1 % 128)
          (BitVec.ofNat 1024 (joinBytes (fun a => (elementByte z (p :: rest) a).getD 0) (p.1 - p.1 % 128) 128)) 128
      else (p :: rest).foldl (fun s p => s.engWrite g j m p.1 (BitVec.ofNat 64 p.2) z) s := by
    rw [State.copyWrite, hplate]
    rfl
  rw [hcopy]
  split
  · rename_i hall
    exact State.engWhole_spec hm hleaf hl hs hall
  · exact State.engWrites_spec hm hleaf hl hs

end

end Sys2Proof.Machine
end

section
/-!
The moves of a copy or bank-op job (spec/12_matrix_copy_jobs.md R241, R242; spec/04_ordering.md R91, R92).
-/
namespace Sys2Proof.Machine
open Sys2Proof.Claims

/-! ### Addresses of one page under one translation (R309) -/

/-- Numbers in one block lie as far apart as in their places in it. -/
theorem mod_add_of_div_eq {a b n : Nat} (h : a / n = b / n) : a % n + b = b % n + a := by
  have ha := Nat.div_add_mod a n
  have hb := Nat.div_add_mod b n
  rw [h] at ha
  omega

section
variable {s : State} {g : Nat} {j : Job} {img : Image} {w : Bool} {va pa v p : Nat}

/-- Two addresses of one page are where the engine's one translation puts them. -/
theorem enginePlace_pa (h : enginePlace s g j img w va pa) (h' : enginePlace s g j img w v p) (hv : v / 4096 = va / 4096) :
    p + va = pa + v := by
  obtain ⟨t, hcached, -, -, -, -, -, hshift, hpa, -⟩ := h
  obtain ⟨t', hcached', -, -, -, -, -, -, hp, -⟩ := h'
  have hblock : ∀ x ∈ s.tlbOf (j.walker g), v / 2 ^ x.shift = va / 2 ^ x.shift := by
    intro x hx
    have hlarge := hshift x hx
    have hsplit : 2 ^ x.shift = 4096 * 2 ^ (x.shift - 12) := by
      rw [show (4096 : Nat) = 2 ^ 12 by decide, ← Nat.pow_add, Nat.add_sub_cancel' hlarge]
    rw [hsplit, ← Nat.div_div_eq_div_mul, ← Nat.div_div_eq_div_mul, hv]
  have hsame : s.cached (j.walker g) j.owner j.sup v = s.cached (j.walker g) j.owner j.sup va :=
    List.find?_congr fun x hx => by rw [hblock x hx]
  have ht : t' = t := Option.some.inj (hcached'.symm.trans (hsame.trans hcached))
  subst ht
  have hoff := mod_add_of_div_eq (hblock t' (List.mem_of_find?_eq_some hcached))
  omega

end

/-! ### Runs (R241) -/

section
variable {j : Job} {k e i : Nat}

/-- The elements of a run lie in one sector of each region. -/
theorem Job.mem_run (h : i ∈ j.run k e) :
    i < CCard.total j.card ∧ CCard.dstAt j.card i / 128 = CCard.dstAt j.card j.prog / 128 := by
  induction k generalizing e with
  | zero => cases h
  | succ k ih =>
    rw [Job.run] at h
    split at h
    · rename_i hif
      simp only [Bool.and_eq_true, decide_eq_true_eq, beq_iff_eq] at hif
      obtain ⟨⟨⟨hlt, -⟩, hdst⟩, -⟩ := hif
      rcases List.mem_cons.mp h with rfl | hrest
      · exact ⟨hlt, hdst⟩
      · exact ih hrest
    · cases h

/-- A run begins with the element that is next. -/
theorem Job.run_cons (h : j.prog < CCard.total j.card) : ∃ l, j.run 128 j.prog = j.prog :: l :=
  ⟨j.run 127 (j.prog + 1), by rw [Job.run]; simp [h]⟩

/-- A run has each element once. -/
theorem Job.run_nodup : (j.run k e).Nodup ∧ ∀ i ∈ j.run k e, e ≤ i := by
  induction k generalizing e with
  | zero => exact ⟨List.nodup_nil, fun _ h => nomatch h⟩
  | succ k ih =>
    obtain ⟨hnodup, hle⟩ := ih (e := e + 1)
    rw [Job.run]
    split
    · refine ⟨List.nodup_cons.mpr ⟨fun hm => ?_, hnodup⟩, fun i hi => ?_⟩
      · have := hle e hm
        omega
      · rcases List.mem_cons.mp hi with rfl | hrest
        · exact Nat.le_refl _
        · have := hle i hrest
          omega
    · exact ⟨List.nodup_nil, fun _ h => nomatch h⟩

/-- Addresses of one page need one translation. -/
theorem onePerPage_cons {a : Nat} {l : List Nat} (h : ∀ v ∈ l, v / 4096 = a / 4096) : onePerPage (a :: l) = [a] := by
  have hkept : ∀ l : List Nat, (∀ v ∈ l, v / 4096 = a / 4096) →
      l.foldl (fun acc v => if acc.any (fun x => x / 4096 == v / 4096) then acc else acc ++ [v]) [a] = [a] := by
    intro l hl
    refine List.foldlRecOn (motive := fun acc => acc = [a]) l _ rfl fun acc hacc v hv => ?_
    subst hacc
    simp [hl v hv]
  exact hkept l h

end

/-! ### The moves -/

/-- A choice used up changes nothing else. -/
theorem Engine.chosen {img : Image} {s : State} : Engine img s s.chosen :=
  ⟨rfl, rfl, rfl, rfl, fun _ => ⟨_, rfl⟩, id, id, fun _ => rfl, fun _ => rfl⟩

/-- The value that a copy or bank-op job writes to element `i` (R241, R242). -/
def Job.runValue (j : Job) (i : Nat) : Nat :=
  let x := joinBytes j.heldByte (CCard.srcAt j.card i) (CCard.z j.card)
  let y := if CCard.two j.card then joinBytes j.heldByte (CCard.src2At j.card i) (CCard.z j.card) else 0
  if CCard.bank j.card then bankOp (CCard.bop j.card) (CCard.btype j.card) x y else x

/-- The elements that the job's next write writes. -/
def Job.runElements (j : Job) : List (Nat × Nat) := (j.run 128 j.prog).map fun i => (CCard.dstAt j.card i, j.runValue i)

/-- Where the job's next write writes. -/
def Job.runDsts (j : Job) : List Nat := (j.run 128 j.prog).map (CCard.dstAt j.card)

/-- The addresses that the job's next run reads first in each of its sources. -/
def Job.runReads (j : Job) : List Nat :=
  [CCard.srcAt j.card j.prog] ++ (if CCard.two j.card then [CCard.src2At j.card j.prog] else [])

/-- The job after the write of a run (R241). -/
def Job.runDone (j : Job) (keep : Bool) : Job :=
  { j.advance (j.prog + (j.run 128 j.prog).length) with pages := [], stale := false, held := if keep then j.held else [] }

section
variable {s : State} {g : BitVec 8} {e : BitVec 5} {j : Job}

/-- A copy or bank-op job can use the plates it has next. -/
def State.platesLive (s : State) (j : Job) : Prop :=
  ∀ va ∈ [CCard.srcAt j.card j.prog, CCard.dstAt j.card j.prog], ∀ k off, plateAt va = some (k, off) → s.target j.owner k = .live

theorem State.platesLive.plateUse (h : s.platesLive j) {va : Nat}
    (hva : va ∈ [CCard.srcAt j.card j.prog, CCard.dstAt j.card j.prog]) :
    s.plateUse j.owner va = .live := by
  unfold State.plateUse
  cases hp : plateAt va with
  | none => rfl
  | some x => exact h va hva x.1 x.2 hp

/-- The write of a run (R241, R242). -/
def State.runWrite (s : State) (g e : Nat) (j : Job) : Eng Unit :=
  (s.engPages (j.walker g) j.owner j.sup true (onePerPage (mainOf j.runDsts)) j.pages).bind fun s m =>
    if CCard.bank j.card && j.runDsts.any (fun a => Leaf.tier (m.leaf a) == 1) then .fail s 0x02
    else .ok ((s.copyWrite g j m (CCard.z j.card) j.runElements).setJob g e (j.runDone (Config.engineKeeps s.moves))) ()

/-- The move of a run (R91). -/
def State.runNext (s : State) (g e : Nat) (j : Job) : Eng Unit :=
  match j.nextRead j.runReads with
  | some va => s.copyRead g e j va
  | none => s.runWrite g e j

/-- A run whose plates can be used, by an engine that chooses not to read ahead. -/
theorem State.copyRun_eq (hch : s.choices.headD 0 = 0) (hprog : j.prog < CCard.total j.card) (hlive : s.platesLive j)
    (g e : Nat) : s.copyRun g e j = s.chosen.runNext g e j := by
  obtain ⟨l, hrun⟩ := Job.run_cons hprog
  have hsrc := hlive.plateUse (va := CCard.srcAt j.card j.prog) List.mem_cons_self
  have hdst := hlive.plateUse (va := CCard.dstAt j.card j.prog) (List.mem_cons_of_mem _ List.mem_cons_self)
  have hreads : ((j.run 128 j.prog).map (CCard.srcAt j.card)).take 1 ++
      (if CCard.two j.card then ((j.run 128 j.prog).map (CCard.src2At j.card)).take 1 else []) = j.runReads := by
    rw [hrun, Job.runReads]
    rfl
  have hlost : [s.plateUse j.owner (((j.run 128 j.prog).map (CCard.srcAt j.card)).headD 0),
      s.plateUse j.owner (((j.run 128 j.prog).map (CCard.dstAt j.card)).headD 0)] = [.live, .live] := by
    rw [hrun]
    exact congrArg₂ (fun a b => [a, b]) hsrc hdst
  rw [State.copyRun]
  simp only [hlost, hreads]
  exact State.readAhead_none hch _ _ _

/-- COPY_ELEMENT or BANK_OP_ELEMENT makes the next move of a job that works. -/
theorem exec_copyMove {t : State} (hj : (s.cluster g.toNat).job e.toNat = some j) (hrun : j.state = .running)
    (hworks : s.ownerRuns g.toNat j.owner = true ∨ j.part ≠ 0) (htype : j.type = 2) (hprog : j.prog < CCard.total j.card)
    (hmove : s.copyRun g.toNat e.toNat j = .ok t ()) :
    exec (if CCard.bank j.card then .bankOpElement g e else .copyElement g e) s = .next t := by
  have hgoal : j.goal = CCard.total j.card := by rw [Job.goal, if_neg (by omega)]
  have hjob : s.jobWorks g.toNat j 2 = true := by
    simp only [State.jobWorks, htype, hrun, hgoal, hprog, decide_true, beq_self_eq_true, Bool.true_and, Bool.or_eq_true,
      bne_iff_ne, ne_eq]
    exact hworks
  have hexec : exec (if CCard.bank j.card then .bankOpElement g e else .copyElement g e) s =
      event (if CCard.bank j.card then "BANK_OP_ELEMENT" else "COPY_ELEMENT")
        (s.copyMove g.toNat e.toNat (CCard.bank j.card)) := by
    cases CCard.bank j.card <;> rfl
  rw [hexec, event_next, State.copyMove, hj]
  simp only [hjob, beq_self_eq_true, Bool.and_self, if_true, hmove, Eng.settle]

/-- A run that needs a sector of main memory reads it (R91). -/
theorem copyMove_reads (hj : (s.cluster g.toNat).job e.toNat = some j) (hrun : j.state = .running)
    (hworks : s.ownerRuns g.toNat j.owner = true ∨ j.part ≠ 0) (htype : j.type = 2) (hprog : j.prog < CCard.total j.card)
    (hch : s.choices.headD 0 = 0) (hlive : s.platesLive j) {va pa : Nat} {img : Image} (hnext : j.nextRead j.runReads = some va)
    (hplate : plateAt va = none) (hlat : s.latent = []) (hplace : enginePlace s g.toNat j img false va pa) :
    ∃ t, exec (if CCard.bank j.card then .bankOpElement g e else .copyElement g e) s = .next t ∧
      jobIs t g.toNat e.toNat (sectorHeld j va fun i => s.imgByte img (s.keyFor j.owner j.sup) (pa - pa % 128 + i)) ∧
      t.memB = s.memB ∧ (img = .b → t.memC = s.memC) := by
  obtain ⟨u, x, hread, heng, hmemB, hheld⟩ := State.sectorRead_held (s := s.chosen) (e := e) hlat hplace
  have hcopy : s.chosen.copyRead g.toNat e.toNat j va = s.chosen.sectorRead g.toNat e.toNat j va := by
    rw [State.copyRead, hplate]
  have hmove : s.copyRun g.toNat e.toNat j = .ok (u.setJob g.toNat e.toNat x) () := by
    rw [State.copyRun_eq hch hprog hlive, State.runNext, hnext]
    exact hcopy.trans hread
  exact ⟨_, exec_copyMove hj hrun hworks htype hprog hmove, jobIs_setJob _ _ _ hheld, hmemB, heng.memC⟩

/-- A run that needs a sector of a plate reads it (R91, R239). -/
theorem copyMove_readsPlate (hj : (s.cluster g.toNat).job e.toNat = some j) (hrun : j.state = .running)
    (hworks : s.ownerRuns g.toNat j.owner = true ∨ j.part ≠ 0) (htype : j.type = 2) (hprog : j.prog < CCard.total j.card)
    (hch : s.choices.headD 0 = 0) (hlive : s.platesLive j) {va k off : Nat} (hnext : j.nextRead j.runReads = some va)
    (hplate : plateAt va = some (k, off)) :
    ∃ t, exec (if CCard.bank j.card then .bankOpElement g e else .copyElement g e) s = .next t ∧
      jobIs t g.toNat e.toNat (sectorHeld j va fun i => (s.core k).plateByte ((va - va % 128 + i) % 2 ^ 20)) ∧
      t.memB = s.memB ∧ t.memC = s.memC := by
  have hmove : s.copyRun g.toNat e.toNat j = .ok ((s.chosen.crossPort j.owner (.copy g.toNat) k).setJob g.toNat e.toNat
      (j.hold va fun a => (s.core k).plateByte (a % 2 ^ 20))) () := by
    rw [State.copyRun_eq hch hprog hlive, State.runNext, hnext]
    dsimp only
    rw [State.copyRead, hplate]
    rfl
  exact ⟨_, exec_copyMove hj hrun hworks htype hprog hmove,
    jobIs_setJob _ _ _ (sectorHeld_hold (rd := fun a => (s.core k).plateByte (a % 2 ^ 20)) (fun _ _ => rfl) j.pages), rfl, rfl⟩

/-! ### The write of a run -/

/-- A run's destinations are aligned elements of main memory, each where `dst` says, and apart from each other. -/
structure RunPlaced (s : State) (g : Nat) (j : Job) (img : Image) (dst : Nat → Nat) : Prop where
  size : elementSize (CCard.z j.card)
  placed : ∀ i ∈ j.run 128 j.prog, plateAt (CCard.dstAt j.card i) = none ∧ CCard.dstAt j.card i % CCard.z j.card = 0 ∧
    enginePlace s g j img true (CCard.dstAt j.card i) (dst i)
  apart : ∀ i ∈ j.run 128 j.prog, ∀ k ∈ j.run 128 j.prog, i ≠ k → CCard.dstAt j.card i ≠ CCard.dstAt j.card k

section
variable {img : Image} {dst : Nat → Nat}

/-- The elements of a run are those of one sector. -/
theorem RunPlaced.sectorList (h : RunPlaced s g.toNat j img dst) :
    SectorList (CCard.z j.card) (CCard.dstAt j.card j.prog) j.runElements where
  size := h.size
  sector := fun p hp => by
    obtain ⟨i, hi, rfl⟩ := List.mem_map.mp hp
    exact (Job.mem_run hi).2
  aligned := fun p hp => by
    obtain ⟨i, hi, rfl⟩ := List.mem_map.mp hp
    exact (h.placed i hi).2.1
  apart := by
    rw [Job.runElements, List.map_map]
    exact List.Nodup.map_on (fun i hi k hk e => by_contra fun hne => h.apart i hi k hk hne e) Job.run_nodup.1

/-- The pages of a run's destinations are one page. -/
theorem RunPlaced.onePage (h : RunPlaced s g.toNat j img dst) (hprog : j.prog < CCard.total j.card) :
    onePerPage (mainOf j.runDsts) = [CCard.dstAt j.card j.prog] := by
  have hmain : mainOf j.runDsts = j.runDsts := by
    rw [mainOf, List.filter_eq_self]
    intro a ha
    obtain ⟨i, hi, rfl⟩ := List.mem_map.mp ha
    rw [(h.placed i hi).1]
    rfl
  have hpage : ∀ v ∈ j.runDsts, v / 4096 = CCard.dstAt j.card j.prog / 4096 := by
    intro v hv
    obtain ⟨i, hi, rfl⟩ := List.mem_map.mp hv
    have := (Job.mem_run hi).2
    omega
  obtain ⟨l, hrun⟩ := Job.run_cons hprog
  rw [hmain]
  rw [Job.runDsts, hrun, List.map_cons] at hpage ⊢
  exact onePerPage_cons fun v hv => hpage v (List.mem_cons_of_mem _ hv)

/-- The engine writes the elements of a run of which it holds all sources (R91, R241, R242). -/
theorem State.copyRun_write (hch : s.choices.headD 0 = 0) (hprog : j.prog < CCard.total j.card) (htype : j.type = 2)
    (hlive : s.platesLive j) (hnext : j.nextRead j.runReads = none) (hlat : s.latent = []) (hmark : unmarked s j.owner)
    (h : RunPlaced s g.toNat j img dst) :
    ∃ u m keep, s.copyRun g.toNat e.toNat j = .ok (u.setJob g.toNat e.toNat (j.runDone keep)) () ∧
      Written s u img (s.keyFor j.owner j.sup) m (CCard.z j.card) j.runElements ∧
      ∀ i ∈ j.run 128 j.prog, m.pa (CCard.dstAt j.card i) = dst i := by
  obtain ⟨l, hrun⟩ := Job.run_cons hprog
  have hfirst : j.prog ∈ j.run 128 j.prog := by rw [hrun]; exact List.mem_cons_self
  obtain ⟨hplate, -, hplace⟩ := h.placed j.prog hfirst
  obtain ⟨m, leaf, hpages, hm, hl⟩ := State.engPages_one (s := s.chosen) hplace
  obtain ⟨t, -, -, -, -, -, -, -, -, -, -, -, hclean⟩ := id hplace
  have hline : WritesLine s.chosen g.toNat j img (dst j.prog / 128) :=
    ⟨hlat, hmark, fun e => .of_empty (s := s.chosen) (hclean e).1⟩
  have hhead : j.runElements.head?.map Prod.fst = some (CCard.dstAt j.card j.prog) := by rw [Job.runElements, hrun]; rfl
  have hwritten := State.copyWrite_spec hm hl h.sectorList hline hhead hplate
  have htier : (CCard.bank j.card && j.runDsts.any fun a => Leaf.tier (m.leaf a) == 1) = false := by
    cases hbank : CCard.bank j.card with
    | false => rfl
    | true =>
      rw [Bool.true_and, List.any_eq_false]
      intro a ha
      obtain ⟨i, hi, rfl⟩ := List.mem_map.mp ha
      have := (Job.mem_run hi).2
      rw [hm.leaf_eq (by omega)]
      simpa using hl.tier (.inr ⟨htype, hbank⟩)
  refine ⟨_, m, Config.engineKeeps s.moves, ?_, ⟨Engine.chosen.trans hwritten.engine, hwritten.bytes, hwritten.others⟩,
    fun i hi => ?_⟩
  · rw [State.copyRun_eq hch hprog hlive, State.runNext, hnext]
    dsimp only
    rw [State.runWrite, h.onePage hprog, hpages]
    simp only [Eng.bind, htier, Bool.false_eq_true, if_false]
    rfl
  · obtain ⟨-, -, hplace'⟩ := h.placed i hi
    have hpage : CCard.dstAt j.card i / 4096 = CCard.dstAt j.card j.prog / 4096 := by
      have := (Job.mem_run hi).2
      omega
    have h1 := enginePlace_pa hplace hplace' hpage
    have h2 := hm.pa_add hpage
    rw [hm.pa_self] at h2
    omega

/-- What an element of `z` bytes holds of a value (R5). -/
theorem littleEndian_element {z v a : Nat} {f : Nat → Byte} (hz : elementSize z)
    (h : ∀ k, k < z → f (a + k) = byteAt (BitVec.ofNat 64 v) k) : littleEndian f a z = v % 2 ^ (8 * z) := by
  have hdvd : 2 ^ (8 * z) ∣ 2 ^ 64 := Nat.pow_dvd_pow 2 (by rcases hz with rfl | rfl | rfl | rfl <;> decide)
  rw [littleEndian_of_bytes h, BitVec.toNat_ofNat, Nat.mod_mod_of_dvd _ hdvd]

/-- The value of an element that a run writes (R241, R242). -/
theorem Job.runValue_mod (j : Job) (i : Nat) : j.runValue i % 2 ^ (8 * CCard.z j.card) =
    if CCard.bank j.card then
      bankOp (CCard.bop j.card) (CCard.btype j.card) (littleEndian j.heldByte (CCard.srcAt j.card i) (CCard.z j.card))
        (if CCard.two j.card then littleEndian j.heldByte (CCard.src2At j.card i) (CCard.z j.card) else 0) % 2 ^ (8 * CCard.z j.card)
    else littleEndian j.heldByte (CCard.srcAt j.card i) (CCard.z j.card) := by
  simp only [Job.runValue, ← joinBytes_eq_littleEndian]
  split
  · rfl
  · exact Nat.mod_eq_of_lt (joinBytes_lt _ _ _)

/-- A run of which the engine holds all sources is written in one move (R91, R241, R242). -/
theorem copyMove_writes (hj : (s.cluster g.toNat).job e.toNat = some j) (hrun : j.state = .running)
    (hworks : s.ownerRuns g.toNat j.owner = true ∨ j.part ≠ 0) (htype : j.type = 2) (hprog : j.prog < CCard.total j.card)
    (hch : s.choices.headD 0 = 0) (hlive : s.platesLive j) (hnext : j.nextRead j.runReads = none) (hlat : s.latent = [])
    (hmark : unmarked s j.owner) (h : RunPlaced s g.toNat j img dst) :
    ∃ t, exec (if CCard.bank j.card then .bankOpElement g e else .copyElement g e) s = .next t ∧
      (∀ i ∈ j.run 128 j.prog, littleEndian (t.imgByte img (s.keyFor j.owner j.sup)) (dst i) (CCard.z j.card) =
        j.runValue i % 2 ^ (8 * CCard.z j.card)) ∧
      (∀ y, (∀ i ∈ j.run 128 j.prog, y < dst i ∨ dst i + CCard.z j.card ≤ y) →
        t.imgByte img (s.keyFor j.owner j.sup) y = s.imgByte img (s.keyFor j.owner j.sup) y) ∧
      j.prog ∈ j.run 128 j.prog ∧
      jobIs t g.toNat e.toNat (fun x => x.prog = j.prog + (j.run 128 j.prog).length ∧ (x.held = j.held ∨ x.held = []) ∧
        x.state = if j.cancel then .cancelled else .running) ∧
      (img = .b → t.memC = s.memC) ∧ (img = .c → t.memB = s.memB) := by
  obtain ⟨u, m, keep, hmove, hwritten, hpa⟩ := State.copyRun_write (e := e) hch hprog htype hlive hnext hlat hmark h
  have hbyte : ∀ y, (u.setJob g.toNat e.toNat (j.runDone keep)).imgByte img (s.keyFor j.owner j.sup) y =
      u.imgByte img (s.keyFor j.owner j.sup) y := fun y => by cases img <;> rfl
  refine ⟨_, exec_copyMove hj hrun hworks htype hprog hmove, fun i hi => ?_, fun y hy => ?_, ?_, jobIs_setJob _ _ _ ⟨rfl, ?_, ?_⟩,
    hwritten.engine.memC, hwritten.engine.memB⟩
  · refine littleEndian_element h.size fun k hk => ?_
    have := hwritten.bytes (CCard.dstAt j.card i, j.runValue i) (List.mem_map_of_mem hi) k hk
    rw [hbyte, ← hpa i hi]
    exact this
  · rw [hbyte]
    refine hwritten.others y fun p hp => ?_
    obtain ⟨i, hi, rfl⟩ := List.mem_map.mp hp
    rw [hpa i hi]
    exact hy i hi
  · obtain ⟨l, hl⟩ := Job.run_cons hprog
    rw [hl]
    exact List.mem_cons_self
  · cases keep with
    | true => exact .inl rfl
    | false => exact .inr rfl
  · simp only [Job.runDone, Job.advance, hrun]

end

end

end Sys2Proof.Machine
end

section
/-!
How jobs start, suspend and complete (spec/12_matrix_copy_jobs.md R226, R232, R233, R237, R289).
-/
namespace Sys2Proof.Machine
open Sys2Proof.Claims

/-! ### Lists of which one entry counts -/

/-- A list without repetitions of which one element has a value. -/
theorem filterMap_eq_singleton {α β : Type} {l : List α} {f : α → Option β} {a : α} {b : β} (hl : l.Nodup) (ha : a ∈ l)
    (hb : f a = some b) (hnone : ∀ x ∈ l, x ≠ a → f x = none) : l.filterMap f = [b] := by
  induction l with
  | nil => cases ha
  | cons x l ih =>
    obtain ⟨hx, hnodup⟩ := List.nodup_cons.mp hl
    by_cases hxa : x = a
    · subst hxa
      have hrest : l.filterMap f = [] := by
        refine List.filterMap_eq_nil_iff.mpr fun y hy => hnone y (List.mem_cons_of_mem _ hy) fun e => hx (e ▸ hy)
      rw [List.filterMap_cons, hb, hrest]
    · have hmem : a ∈ l := by
        rcases List.mem_cons.mp ha with e | hm
        · exact absurd e.symm hxa
        · exact hm
      rw [List.filterMap_cons, hnone x List.mem_cons_self hxa, ih hnodup hmem fun y hy => hnone y (List.mem_cons_of_mem _ hy)]

/-- A single owner of a list (R124). -/
theorem idsOf_singleton {o : Nat} (ho : o < 256) : idsOf [o] = [o] := by
  rw [idsOf, ← List.filterMap_eq_filter]
  refine filterMap_eq_singleton List.nodup_range (List.mem_range.mpr ho) (by simp [Option.guard]) fun x _ hx => ?_
  simp [Option.guard, hx]

section
variable {s : State} {g : BitVec 8} {e : BitVec 5} {j : Job}

/-! ### JOB_START (R226) -/

/-- The only job of its cluster that holds edges. -/
def Cluster.onlyHolder (c : Cluster) (e : Nat) : Prop := ∀ k x, k ≠ e → c.job k = some x → x.holds = false

/-- An entry of a cluster's list of jobs. -/
theorem Cluster.mem_jobList {c : Cluster} {x : Nat × Job} (h : x ∈ c.jobList) : c.job x.1 = some x.2 := by
  obtain ⟨k, -, hk⟩ := List.mem_filterMap.mp h
  obtain ⟨y, hy, rfl⟩ := Option.map_eq_some_iff.mp hk
  exact hy

/-- A job that is queued waits for none when no other holds edges (R90). -/
theorem State.startable_of_onlyHolder (hj : (s.cluster g.toNat).job e.toNat = some j) (hqueued : j.state = .queued)
    (hruns : s.ownerRuns g.toNat j.owner = true) (honly : (s.cluster g.toNat).onlyHolder e.toNat) :
    s.startable g.toNat j = true := by
  have hedges : ((s.cluster g.toNat).jobList.all fun x => !(decide (x.2.order < j.order) && x.2.holds && edge x.2 j)) = true := by
    refine List.all_eq_true.mpr fun x hx => ?_
    have hjob := Cluster.mem_jobList hx
    by_cases he : x.1 = e.toNat
    · have hsame : x.2 = j := Option.some.inj ((he ▸ hjob).symm.trans hj)
      simp [hsame]
    · simp [honly x.1 x.2 he hjob]
  unfold State.startable
  simp only [hqueued, hruns, beq_self_eq_true, Bool.true_or, Bool.true_and]
  exact hedges

/-- No engine runs a job when only a queued one holds edges. -/
theorem Cluster.runningOn_none {c : Cluster} {e : Nat} (hj : c.job e = some j) (hqueued : j.state = .queued)
    (honly : c.onlyHolder e) (unit : Bool) : c.runningOn unit = 0 := by
  have hnone : (c.jobList.filter fun x => x.2.state == .running && !x.2.wakeDue && (x.2.type == 1) != unit) = [] := by
    refine List.filter_eq_nil_iff.mpr fun x hx => ?_
    have hjob := Cluster.mem_jobList hx
    have hidle : (x.2.state == .running) = false := by
      by_cases he : x.1 = e
      · have hsame : x.2 = j := Option.some.inj ((he ▸ hjob).symm.trans hj)
        rw [hsame, hqueued]
        rfl
      · have := honly x.1 x.2 he hjob
        simp only [Job.holds, Bool.or_eq_false_iff] at this
        exact this.1.2
    simp [hidle]
  exact congrArg List.length hnone

/-- The jobs that can start are that one. -/
theorem State.startList_singleton (hj : (s.cluster g.toNat).job e.toNat = some j) (hqueued : j.state = .queued)
    (hruns : s.ownerRuns g.toNat j.owner = true) (honly : (s.cluster g.toNat).onlyHolder e.toNat) :
    s.startList g.toNat (j.type != 1) = [(e.toNat, j)] := by
  have hidle := Cluster.runningOn_none hj hqueued honly (j.type != 1)
  have hmay := State.startable_of_onlyHolder hj hqueued hruns honly
  have hroom : ¬(if (j.type != 1) then 4 else 1) ≤ 0 := by split <;> decide
  unfold State.startList
  simp only [hidle, if_neg hroom]
  rw [Cluster.jobList, List.filter_filterMap]
  refine filterMap_eq_singleton List.nodup_range (List.mem_range.mpr e.isLt) ?_ fun k _ hk => ?_
  · have hunit : ((j.type == 1) != (j.type != 1)) = true := by cases h : j.type == 1 <;> simp [bne, h]
    simp [hj, hmay, hunit, Option.filter]
  · cases hx : (s.cluster g.toNat).job k with
    | none => rfl
    | some x =>
      have hheld := honly k x hk hx
      have hno : s.startable g.toNat x = false := by
        simp only [Job.holds, Bool.or_eq_false_iff] at hheld
        obtain ⟨⟨hq, -⟩, hs⟩ := hheld
        simp [State.startable, hq, hs]
      simp [hno, Option.filter]

/-- A queued job that no other stands before starts (R226). -/
theorem jobStart_starts (hj : (s.cluster g.toNat).job e.toNat = some j) (hqueued : j.state = .queued)
    (hruns : s.ownerRuns g.toNat j.owner = true) (howner : j.owner < 256) (honly : (s.cluster g.toNat).onlyHolder e.toNat) :
    exec (.jobStart g (j.type != 1)) s = .next (s.setJob g.toNat e.toNat
      { j with state := .running, started := (s.island 44).cycles.toNat }) := by
  have hexec : exec (.jobStart g (j.type != 1)) s = execJobStart g (j.type != 1) s := rfl
  have holdest : oldestJob [(e.toNat, j)] j.owner = some (e.toNat, j) := by simp [oldestJob]
  rw [hexec, execJobStart, event_next, State.startMove, State.startList_singleton hj hqueued hruns honly]
  simp only [List.map_cons, List.map_nil, idsOf_singleton howner, holdest, Option.map_some, State.startJob, hqueued, if_true]

/-! ### JOB_SUSPEND (R232, R289) -/

/-- A job whose owner no longer runs suspends between rows, and one that `jcancel` named stops there (R232, R237). -/
theorem jobSuspend_suspends (hj : (s.cluster g.toNat).job e.toNat = some j) (hrun : j.state = .running) (htype : j.type ≠ 3)
    (hdue : j.wakeDue = false) (hruns : ¬s.ownerRuns g.toNat j.owner = true) (hpart : j.part = 0 ∨ j.goal ≤ j.prog) :
    exec (.jobSuspend g e) s = .next (s.setJob g.toNat e.toNat
      { j with state := if j.cancel then .cancelled else .suspended, held := [], accs := [], pages := [], stale := false
               part := if j.goal ≤ j.prog then j.part else 0 }) := by
  have hexec : exec (.jobSuspend g e) s = execJobSuspend g e s := rfl
  have hmay : (j.state != .running || j.wakeDue || j.type == 3) = false := by simp [hrun, hdue, htype]
  have hend : (decide (j.part = 0) || decide (j.goal ≤ j.prog)) = true := by simpa using hpart
  rw [hexec, execJobSuspend, event_next, State.suspendMove, hj]
  simp only [hmay, hend, Bool.false_eq_true, if_false, eq_false_of_ne_true hruns, Bool.not_false, if_true]

/-! ### JOB_COMPLETE (R91, R233, R237) -/

/-- What a job whose rows or elements are done comes to next (R91, R233, R237). -/
def State.completion (s : State) (g e : Nat) (j : Job) : Option State :=
  if j.cancel then some (s.setJob g e { j with state := .cancelled })
  else if j.type = 1 && MCard.drn j.card && decide (128 * j.part < drainBytes j.card) then
    match s.target j.owner (MCard.dcore j.card) with
    | .lost => some (s.failJob g e j 0x06)
    | .saved => none
    | .live => some ((s.drain g j).setJob g e { j with part := j.part + 1 })
  else some (s.finishJob g e j)

/-- JOB_COMPLETE of a job whose rows or elements are done and whose owner runs. -/
theorem exec_jobComplete {t : State} (hj : (s.cluster g.toNat).job e.toNat = some j) (hrun : j.state = .running)
    (htype : j.type ≠ 3) (hdue : j.wakeDue = false) (hruns : s.ownerRuns g.toNat j.owner = true) (hgoal : j.goal ≤ j.prog)
    (hnext : s.completion g.toNat e.toNat j = some t) : exec (.jobComplete g e) s = .next t := by
  have hexec : exec (.jobComplete g e) s = execJobComplete g e s := rfl
  have hmay : (j.state != .running || j.type == 3 || j.wakeDue || !s.ownerRuns g.toNat j.owner) = false := by
    simp [hrun, hdue, htype, hruns]
  have hdone : decide (j.prog < j.goal) = false := decide_eq_false (by omega)
  have hmove : s.completeMove g.toNat e.toNat = s.completion g.toNat e.toNat j := by
    rw [State.completeMove, hj]
    simp only [hmay, hdone, Bool.false_eq_true, if_false]
    rfl
  rw [hexec, execJobComplete, event_next, hmove, hnext]

/-- The accumulator has sectors left to drain (R233). -/
def Job.drains (j : Job) : Prop := j.type = 1 ∧ MCard.drn j.card = true ∧ 128 * j.part < drainBytes j.card

/-- A job that `jcancel` named stops (R237). -/
theorem State.completion_cancel (hc : j.cancel = true) (g e : Nat) :
    s.completion g e j = some (s.setJob g e { j with state := .cancelled }) := by
  rw [State.completion, if_pos hc]

/-- A job with nothing left to drain frees its entry, or leaves its wake message. -/
theorem State.completion_finish (hc : j.cancel = false) (hleft : ¬j.drains) (g e : Nat) :
    s.completion g e j = some (s.setJob g e
      (if j.wakes then { j with moved := true, drained := true, wakeDue := true, part := 0 }
      else { j with state := .done, part := 0 })) := by
  have hnone : ¬(decide (j.type = 1) && MCard.drn j.card && decide (128 * j.part < drainBytes j.card)) = true := by
    simpa [Job.drains] using hleft
  rw [State.completion, if_neg (by simp [hc]), if_neg hnone, State.finishJob]
  split <;> rfl

/-- A job that drains its accumulator into a plate that its owner has. -/
theorem State.completion_drain (hc : j.cancel = false) (hleft : j.drains) (hlive : s.target j.owner (MCard.dcore j.card) = .live)
    (g e : Nat) : s.completion g e j = some ((s.drain g j).setJob g e { j with part := j.part + 1 }) := by
  have hsome : (decide (j.type = 1) && MCard.drn j.card && decide (128 * j.part < drainBytes j.card)) = true := by
    simpa [Job.drains, and_assoc] using hleft
  rw [State.completion, if_neg (by simp [hc]), if_pos hsome, hlive]

/-- A plate after a store into it, where no tile is filling (R62). -/
theorem State.plateStore_write {m a z : Nat} (ha : a < 0x20000) (htiles : ∀ x ∈ (s.core m).tiles.toList, x.state ≠ .filling)
    (v : Word) : s.plateStore m a z v = s.updCore m fun c => c.plateWrite a z v := by
  rw [State.plateStore, if_pos ha, State.spoilFilling_none]
  rw [State.core_updCore_same]
  exact htiles

/-- Several stores into a plate where no tile is filling are writes of it. -/
theorem State.foldl_plateStore {m z : Nat} {a : Nat → Nat} {v : Nat → Word} {l : List Nat} (ha : ∀ i ∈ l, a i < 0x20000)
    (htiles : ∀ x ∈ (s.core m).tiles.toList, x.state ≠ .filling) :
    l.foldl (fun s i => s.plateStore m (a i) z (v i)) s =
      l.foldl (fun s i => s.updCore m fun c => c.plateWrite (a i) z (v i)) s := by
  induction l generalizing s with
  | nil => rfl
  | cons i l ih =>
    rw [List.foldl_cons, List.foldl_cons, State.plateStore_write (ha i List.mem_cons_self) htiles]
    refine ih (fun k hk => ha k (List.mem_cons_of_mem _ hk)) ?_
    rw [State.core_updCore_same]
    exact htiles

/-- A plate after consecutive doublewords are written to it. -/
theorem Core.plateByte_doublewords (c : Core) (d : Nat) (v : Nat → Word) (n y : Nat) :
    ((List.range n).foldl (fun c i => c.plateWrite (d + 8 * i) 8 (v i)) c).plateByte y =
      if d ≤ y ∧ y < d + 8 * n then byteAt (v ((y - d) / 8)) ((y - d) % 8) else c.plateByte y := by
  induction n with
  | zero => rw [if_neg (by omega)]; rfl
  | succ n ih =>
    rw [List.range_succ, List.foldl_append, List.foldl_cons, List.foldl_nil, Core.plateByte_plateWrite, ih]
    by_cases hlast : d + 8 * n ≤ y ∧ y < d + 8 * n + 8
    · have hdiv : (y - d) / 8 = n := by omega
      rw [if_pos hlast, if_pos (by omega), hdiv]
      congr 1
      omega
    · rw [if_neg hlast]
      by_cases hin : d ≤ y ∧ y < d + 8 * n
      · rw [if_pos hin, if_pos (by omega)]
      · rw [if_neg hin, if_neg (by omega)]

/-- Writes of one plate are a write of its core. -/
theorem State.foldl_updCore {α : Type} (m : Nat) (f : α → Core → Core) (l : List α) (hl : l ≠ []) :
    l.foldl (fun s i => s.updCore m (f i)) s = s.updCore m fun c => l.foldl (fun c i => f i c) c := by
  induction l generalizing s with
  | nil => exact absurd rfl hl
  | cons i l ih =>
    cases l with
    | nil => rfl
    | cons k l =>
      rw [List.foldl_cons, ih (List.cons_ne_nil _ _), State.updCore_updCore]
      rfl

/-- Entries are no part of a core. -/
theorem State.core_setJob (s : State) (g e : Nat) (j : Job) (n : Nat) : (s.setJob g e j).core n = s.core n := rfl

/-- The plate after a sector of the accumulator is drained (R233). -/
theorem State.plateByte_drain (hfit : MCard.doff j.card + 128 * j.part + 128 ≤ 0x20000)
    (htiles : ∀ x ∈ (s.core (MCard.dcore j.card)).tiles.toList, x.state ≠ .filling) (g y : Nat) :
    ((s.drain g j).core (MCard.dcore j.card)).plateByte y =
      if MCard.doff j.card + 128 * j.part ≤ y ∧ y < MCard.doff j.card + 128 * j.part + 128 then
        (s.cluster g).accByte (4096 * MCard.acc j.card + 128 * j.part + (y - (MCard.doff j.card + 128 * j.part)))
      else (s.core (MCard.dcore j.card)).plateByte y := by
  have haddr : ∀ i ∈ List.range 16, MCard.doff j.card + 128 * j.part + 8 * i < 0x20000 := by
    intro i hi
    have := List.mem_range.mp hi
    omega
  rw [State.drain]
  simp only [← Nat.add_assoc]
  rw [State.foldl_plateStore (s := (s.crossPort j.owner (.matrix g) (MCard.dcore j.card)).joinOrder (.plate (MCard.dcore j.card))
    j.owner (MCard.doff j.card + 128 * j.part) 128) haddr htiles, State.foldl_updCore _ _ _ (by decide), State.core_updCore_same,
    Core.plateByte_doublewords]
  split
  · rw [Cluster.accRead, readWord, byteAt_joinBytes _ _ (by decide) (Nat.mod_lt _ (by decide))]
    congr 1
    omega
  · rfl

/-- A finished job drains the next sector of its accumulator into its plate (R91, R233). -/
theorem jobComplete_drains (hj : (s.cluster g.toNat).job e.toNat = some j) (hrun : j.state = .running) (htype : j.type ≠ 3)
    (hdue : j.wakeDue = false) (hruns : s.ownerRuns g.toNat j.owner = true) (hgoal : j.goal ≤ j.prog) (hc : j.cancel = false)
    (hleft : j.drains) (hlive : s.target j.owner (MCard.dcore j.card) = .live)
    (hfit : MCard.doff j.card + 128 * j.part + 128 ≤ 0x20000)
    (htiles : ∀ x ∈ (s.core (MCard.dcore j.card)).tiles.toList, x.state ≠ .filling) :
    ∃ t, exec (.jobComplete g e) s = .next t ∧
      (∀ y, (t.core (MCard.dcore j.card)).plateByte y =
        if MCard.doff j.card + 128 * j.part ≤ y ∧ y < MCard.doff j.card + 128 * j.part + 128 then
          (s.cluster g.toNat).accByte (4096 * MCard.acc j.card + 128 * j.part + (y - (MCard.doff j.card + 128 * j.part)))
        else (s.core (MCard.dcore j.card)).plateByte y) ∧
      (t.cluster g.toNat).job e.toNat = some { j with part := j.part + 1 } := by
  refine ⟨_, exec_jobComplete hj hrun htype hdue hruns hgoal (State.completion_drain hc hleft hlive _ _), fun y => ?_,
    State.job_setJob _ _ e.isLt _⟩
  rw [State.core_setJob]
  exact State.plateByte_drain hfit htiles g.toNat y

end

end Sys2Proof.Machine
end

section
/-!
A message that a job's engine delivers (spec/12_matrix_copy_jobs.md R233; spec/06_arbitration.md R124, R127;
spec/02_execution_model.md R32): the idle plate port grants it a slot, and its record lies there.
-/
namespace Sys2Proof.Machine
open Sys2Proof.Claims

/-! ### Records in a plate (R5, R135) -/

/-- The words of a record are those that made it. -/
theorem wordAt_mkRec {ws : List Word} {i : Nat} (hi : i < ws.length) (h8 : ws.length ≤ 8) : wordAt (mkRec ws) i = ws[i] := by
  induction ws generalizing i with
  | nil => cases hi
  | cons w ws ih =>
    have hlen : ws.length < 8 := h8
    have hrec : mkRec (w :: ws) = (mkRec ws <<< 64) ||| w.setWidth 512 := rfl
    cases i with
    | zero =>
      refine BitVec.eq_of_getElem_eq fun b hb => ?_
      simp [wordAt, hrec, hb, show b < 512 by omega]
    | succ i =>
      have hi' : i < ws.length := Nat.lt_of_succ_lt_succ hi
      rw [List.getElem_cons_succ, ← ih hi' (by omega)]
      refine BitVec.eq_of_getElem_eq fun b hb => ?_
      have hhigh : w.getLsbD (64 * (i + 1) + b) = false := BitVec.getLsbD_of_ge _ _ (by omega)
      simp [wordAt, hrec, hhigh, show 64 * (i + 1) + b < 512 by omega, show ¬64 * (i + 1) + b < 64 by omega,
        show 64 * (i + 1) + b - 64 = 64 * i + b by omega]
      exact (BitVec.getLsbD_eq_getElem _).symm

/-- A byte of a word of a record is one of the record. -/
theorem byteAt_wordAt (r : Rec) (i : Nat) {k : Nat} (hk : k < 8) : byteAt (wordAt r i) k = byteAt r (8 * i + k) := by
  refine BitVec.eq_of_getElem_eq fun b hb => ?_
  simp [byteAt, wordAt, show 8 * k + b < 64 by omega, show 64 * i + (8 * k + b) = 8 * (8 * i + k) + b by omega]

/-- The words of a record just written are its words. -/
theorem Core.plateWords_plateWrite (c : Core) (a : Nat) {ws : List Word} (h : ws.length = 8) :
    (c.plateWrite a 64 (mkRec ws)).plateWords a 8 = ws := by
  refine List.ext_getElem (by simp [Core.plateWords, h]) fun i hi hi' => ?_
  have hi8 : i < 8 := h ▸ hi'
  have hbytes : joinBytes (c.plateWrite a 64 (mkRec ws)).plateByte (a + 8 * i) 8 = (wordAt (mkRec ws) i).toNat % 256 ^ 8 := by
    refine joinBytes_of_digits fun k hk => ?_
    rw [Core.plateByte_plateWrite, if_pos (by omega), show a + 8 * i + k - a = 8 * i + k by omega, ← byteAt_wordAt _ _ hk,
      byteAt_toNat]
  have hword : (c.plateWrite a 64 (mkRec ws)).plateRead (a + 8 * i) 8 = wordAt (mkRec ws) i := by
    rw [Core.plateRead, readWord, hbytes]
    apply BitVec.eq_of_toNat_eq
    rw [BitVec.toNat_ofNat, Nat.mod_mod_of_dvd _ (by decide), Nat.mod_eq_of_lt (wordAt (mkRec ws) i).isLt]
  simp only [Core.plateWords, List.getElem_map, List.getElem_range, hword]
  exact wordAt_mkRec hi' (by omega)

/-- A record appended to the inbox lies at its tail (R135). -/
theorem Core.append_spec (c : Core) {j : Nat} (hj : j < 16) {ws : List Word} (h : ws.length = 8) :
    (c.append j (mkRec ws)).ring j = { c.ring j with tail := (c.ring j).tail + 1 } ∧
      (c.append j (mkRec ws)).plateWords ((c.ring j).slotAt (c.ring j).tail) 8 = ws := by
  refine ⟨?_, c.plateWords_plateWrite _ h⟩
  rw [Core.append, Core.ring, Core.setRing]
  simp [Vector.getD, hj]

/-! ### The idle plate port (R124) -/

section
variable {s : State} {t j o who tag : Nat}

/-- What is found is in the table. -/
theorem Store.mem_of_find {α : Type} {k : Nat} {x : α} {l : Store α} (h : Store.find k l = some x) : (k, x) ∈ l := by
  induction l with
  | nil => cases h
  | cons c l ih =>
    obtain ⟨i, y⟩ := c
    rw [Store.find_cons] at h
    split at h
    · rename_i hik
      cases h
      subst hik
      exact List.mem_cons_self
    · exact List.mem_cons_of_mem _ (ih h)

/-- No access of a core stands at a point where none is queued. -/
theorem State.queued_nil {k i : Nat} : s.queued k i = [] ↔
    (∀ x ∈ s.cores, ∀ a ∈ x.2.pend, a.path.head? = some (k, i) → a.entered = false) ∧
      ∀ x ∈ s.lateLoads, x.2.1.path.head? = some (k, i) → x.2.1.entered = false := by
  simp only [State.queued, State.heading, List.filter_append, List.append_eq_nil_iff, List.filter_eq_nil_iff, List.mem_flatMap,
    List.mem_map, List.mem_filter, beq_iff_eq, Bool.not_eq_true]
  constructor
  · rintro ⟨hcores, hlate⟩
    exact ⟨fun x hx a ha hp => hcores (x.1, a) ⟨x, hx, a, ⟨ha, hp⟩, rfl⟩, fun x hx hp => hlate (x.1, x.2.1) ⟨x, ⟨hx, hp⟩, rfl⟩⟩
  · rintro ⟨hcores, hlate⟩
    refine ⟨?_, ?_⟩
    · rintro _ ⟨x, hx, a, ⟨ha, hp⟩, rfl⟩
      exact hcores x hx a ha hp
    · rintro _ ⟨x, ⟨hx, hp⟩, rfl⟩
      exact hlate x hx hp

/-- A change of a core that leaves its queue of accesses leaves the points' queues empty. -/
theorem State.queued_updCore {k i n : Nat} {f : Core → Core} (h : s.queued k i = []) (hf : ∀ c, (f c).pend = c.pend) :
    (s.updCore n f).queued k i = [] := by
  obtain ⟨hcores, hlate⟩ := State.queued_nil.mp h
  refine State.queued_nil.mpr ⟨fun x hx a ha hp => ?_, hlate⟩
  rcases Store.mem_put hx with rfl | hold
  · rw [hf] at ha
    cases hfind : Store.find n s.cores with
    | none =>
      have : s.core n = Core.reset := by simp [State.core, Store.get, hfind]
      rw [this] at ha
      cases ha
    | some c =>
      have : s.core n = c := by simp [State.core, Store.get, hfind]
      exact hcores (n, c) (Store.mem_of_find hfind) a (this ▸ ha) hp
  · exact hcores x hold a ha hp

/-- A slot with one request grants it, and changes no core, no access and no request of others. -/
theorem State.lotterySlot_sole (k i : Nat) (x : Nat × Nat) (held : List Nat) :
    ∃ u, s.lotterySlot k i [x] held = (some x, u) ∧ u.cores = s.cores ∧ u.lateLoads = s.lateLoads ∧ u.traffic = s.traffic ∧
      u.devMsgs = s.devMsgs := by
  have hheld : ∀ (l : List Nat) (v : State), let u := l.foldl (fun s o => s.updExceed o k fun x => { x with self := x.self + 1 }) v
      u.cores = v.cores ∧ u.lateLoads = v.lateLoads ∧ u.traffic = v.traffic ∧ u.devMsgs = v.devMsgs := by
    intro l v
    refine List.foldlRecOn (motive := fun u : State => u.cores = v.cores ∧ u.lateLoads = v.lateLoads ∧ u.traffic = v.traffic ∧
      u.devMsgs = v.devMsgs) l _ ⟨rfl, rfl, rfl, rfl⟩ fun u hu o _ => hu
  exact ⟨_, rfl, hheld _ _⟩

/-! ### The request of an engine's message (R127, R233) -/

/-- A request that the port has let in, and nothing else stands there. -/
structure PortHolds (s : State) (t : Nat) (q : PortWait) : Prop where
  wait : (s.core t).portWait = [q]
  queued : s.queued 9 t = []
  crossed : s.crossed 9 t = []

/-- A new request stands alone at an idle port. -/
theorem PortHolds.enterPort (hidle : portIdle s o t) :
    PortHolds (s.enterPort t j o who tag) t ⟨o, who, j, false, true, tag⟩ := by
  obtain ⟨-, hwait, hreq, -⟩ := hidle
  simp only [State.portRequests, List.append_eq_nil_iff, List.map_eq_nil_iff] at hreq
  obtain ⟨⟨-, hqueued⟩, hcrossed⟩ := hreq
  have hdebit : (s.debit o 9 t).queued 9 t = s.queued 9 t ∧ (s.debit o 9 t).crossed 9 t = s.crossed 9 t := by
    unfold State.debit
    split <;> exact ⟨rfl, rfl⟩
  refine ⟨by rw [State.portWait_enterPort hwait], ?_, hdebit.2.trans hcrossed⟩
  exact State.queued_updCore (hdebit.1.trans hqueued) fun c => rfl

/-- The one slot that such a request needs grants it. -/
theorem PortHolds.drawPort (h : PortHolds s t ⟨o, who, j, false, true, tag⟩)
    (hready : s.portReady t ⟨o, who, j, false, true, tag⟩ = true) :
    (((State.drawPort t who j tag (s.portDraws t) s).core t).portWait = [⟨o, who, j, true, true, tag⟩]) ∧
      ((State.drawPort t who j tag (s.portDraws t) s).core t).rings = (s.core t).rings := by
  obtain ⟨hwait, hqueued, hcrossed⟩ := h
  have hreqs : s.portRequests t = [((o, who), true)] := by
    simp [State.portRequests, hwait, hqueued, hcrossed, hready]
  have hdraws : s.portDraws t = 1 := by rw [State.portDraws, hreqs]; rfl
  obtain ⟨u, hslot, hcores, hlate, htraffic, hmsgs⟩ :=
    s.lotterySlot_sole 9 t (o, who) ((idsOf [o]).filter fun o' => !([(o, who)] : List (Nat × Nat)).any fun x => x.1 == o')
  have hcore : u.core t = s.core t := by rw [State.core, hcores]; rfl
  have hgranted : u.granted 9 t who = none := by
    have : u.queued 9 t = s.queued 9 t := by rw [State.queued, State.heading, hcores, hlate]; rfl
    rw [State.granted, this, hqueued]
    rfl
  have hpassed : u.grantedCross 9 t who = none := by
    have : u.crossed 9 t = s.crossed 9 t := by rw [State.crossed, State.crossing, htraffic]; rfl
    rw [State.grantedCross, this, hcrossed]
    rfl
  have hready' : u.portReady t ⟨o, who, j, false, true, tag⟩ = true := by
    rw [State.portReady, hcore, State.devBefore, hmsgs]
    exact hready
  have hfirst : ((s.core t).portWait.any fun q => q.is who j tag && !q.granted && s.portReady t q) = true := by
    simp [hwait, PortWait.is, hready]
  have hdups : [(o, who)].eraseDups = [(o, who)] := rfl
  have hgrant : State.drawPort t who j tag 1 s = u.grantPort t who := by
    unfold State.drawPort
    simp only [hfirst, hreqs, Bool.not_true, Bool.false_eq_true, if_false, List.filter_cons, if_true, List.filter_nil, List.map_cons,
      List.map_nil, hdups, hslot]
    simp [State.drawPort, State.grantAtPort, hgranted, hpassed]
  rw [hdraws, hgrant, State.grantPort, State.core_updCore_same, hcore, hwait]
  simp [hready', mapFirst]

/-- A granted request leaves the port and uses its slot. -/
def State.usePort (s : State) (t j who tag : Nat) : State :=
  (s.updCore t fun d => { d with portWait := d.portWait.filter fun q => !q.is who j tag }).updCore t fun c =>
    c.setResv j (c.resv j - 1)

theorem State.rings_usePort (s : State) (t j who tag : Nat) : ((s.usePort t j who tag).core t).rings = (s.core t).rings := by
  rw [State.usePort, State.core_updCore_same, State.core_updCore_same]
  rfl

/-- Message `tag` of an engine passes an idle port whose ring has room: it has a slot, and the ring is as it was. -/
theorem State.passPort_idle (hidle : portIdle s o t) (hroom : (s.core t).hasRoom j = true) (htag : tag ≠ 0) :
    ∃ u, s.passPort t j o who tag = some (true, u) ∧ (u.core t).rings = (s.core t).rings := by
  have hadmits := State.portAdmits_of_portIdle hidle
  have hholds := PortHolds.enterPort (j := j) (who := who) (tag := tag) hidle
  have hwait := hidle.2.1
  have henter := State.portWait_enterPort (j := j) (o := o) (who := who) hwait tag
  have hready : (s.enterPort t j o who tag).portReady t ⟨o, who, j, false, true, tag⟩ = true := by
    have hroom' : ((s.enterPort t j o who tag).core t).hasRoom j = true := by rw [henter]; exact hroom
    simp [State.portReady, hroom', htag]
  obtain ⟨hdrawn, hrings⟩ := hholds.drawPort hready
  refine ⟨State.usePort (State.drawPort t who j tag ((s.enterPort t j o who tag).portDraws t) (s.enterPort t j o who tag))
    t j who tag, ?_, ?_⟩
  · simp [State.passPort, State.winPort, hwait, hroom, hadmits, hdrawn, PortWait.is, State.usePort]
  · rw [State.rings_usePort, hrings, henter]

end

/-! ### WAKE_MESSAGE_DELIVERY (R233, R237) -/

section
variable {s : State} {g : BitVec 8} {e : BitVec 5} {j : Job}

/-- A job that `jcancel` named before its wake message is accepted sends none (R237). -/
theorem wakeMessage_cancelled (hj : (s.cluster g.toNat).job e.toNat = some j) (hdue : j.wakeDue = true) (hc : j.cancel = true)
    (hrun : j.state = .running) :
    exec (.wakeMessageDelivery g e) s =
      .next ((s.dropWake g.toNat e.toNat j).setJob g.toNat e.toNat { j with state := .cancelled, wakeDue := false }) := by
  have hexec : exec (.wakeMessageDelivery g e) s = execWakeMessageDelivery g e s := rfl
  have hstop : (j.cancel && j.state == .running) = true := by simp [hc, hrun]
  rw [hexec, execWakeMessageDelivery, event_next, State.wakeMsgMove, hj]
  simp only [hdue, hstop, Bool.not_true, Bool.false_eq_true, if_false, if_true]

/-- A core that an owner's job can reach holds a context of the owner (R235). -/
theorem State.liveFor_of_target {o t : Nat} (h : s.target o t = .live) : s.liveFor o t = true := by
  unfold State.target at h
  split at h
  · cases h
  · split at h
    · assumption
    · cases h

/-- A message with room in the inbox of a core whose port is idle is accepted, and its record appended there (R32, R127). -/
theorem State.acceptMsg_idle {o t who tag : Nat} (hlive : s.target o t = .live) (hroom : (s.core t).hasRoom 0 = true)
    (hidle : portIdle s o t) (htag : tag ≠ 0) {ws : List Word} (h : ws.length = 8) :
    ∃ u, s.acceptMsg o t who tag (mkRec ws) = some (true, u) ∧
      (u.core t).ring 0 = { (s.core t).ring 0 with tail := ((s.core t).ring 0).tail + 1 } ∧
      (u.core t).plateWords (((s.core t).ring 0).slotAt ((s.core t).ring 0).tail) 8 = ws := by
  obtain ⟨u, hpass, hrings⟩ := State.passPort_idle (who := who) hidle hroom htag
  have hring : (u.core t).ring 0 = (s.core t).ring 0 := by rw [Core.ring, hrings]; rfl
  obtain ⟨htail, hwords⟩ := (u.core t).append_spec (j := 0) (by decide) h
  refine ⟨u.updCore t fun c => c.append 0 (mkRec ws), ?_, ?_, ?_⟩
  · simp [State.acceptMsg, State.liveFor_of_target hlive, hpass]
  · rw [State.core_updCore_same, htail, hring]
  · rw [State.core_updCore_same, ← hring, hwords]

/-- The words of a job's wake message (R233). -/
def Job.wakeWords (j : Job) (g e : Nat) : List Word :=
  [if j.type = 1 then MCard.whand j.card else if j.type = 2 then CCard.whand j.card else Coll.whand j.card, j.work, j.id g e,
    if j.state = .failed then j.status else BitVec.ofNat 64 (if j.type = 3 then 0 else j.prog),
    if j.type = 1 then MCard.user j.card else if j.type = 2 then CCard.user j.card else Coll.user j.card, 0, 0, 0]

/-- The wake message of a job is accepted at an inbox with room (R233). -/
theorem wakeMessage_delivered (hj : (s.cluster g.toNat).job e.toNat = some j) (hdue : j.wakeDue = true)
    (hgoes : j.cancel = false ∨ j.state ≠ .running) (hlive : s.target j.owner j.wakeCore = .live)
    (hroom : (s.core j.wakeCore).hasRoom 0 = true) (hidle : portIdle s j.owner j.wakeCore) :
    ∃ t, exec (.wakeMessageDelivery g e) s = .next t ∧
      (t.core j.wakeCore).ring 0 = { (s.core j.wakeCore).ring 0 with tail := ((s.core j.wakeCore).ring 0).tail + 1 } ∧
      (t.core j.wakeCore).plateWords (((s.core j.wakeCore).ring 0).slotAt ((s.core j.wakeCore).ring 0).tail) 8 =
        j.wakeWords g.toNat e.toNat ∧
      jobIs t g.toNat e.toNat fun x => (x.state = if j.state = .failed then .failed else .done) ∧ x.wakeDue = false := by
  have hexec : exec (.wakeMessageDelivery g e) s = execWakeMessageDelivery g e s := rfl
  have hgo : (j.cancel && j.state == .running) = false := by
    rcases hgoes with hc | hrun
    · simp [hc]
    · simp [hrun]
  obtain ⟨u, haccept, hring, hwords⟩ := State.acceptMsg_idle (who := j.requester g.toNat) (tag := wakeTag e.toNat)
    (ws := j.wakeWords g.toNat e.toNat) hlive hroom hidle (Nat.succ_ne_zero _) rfl
  have hmsg : s.wakeMsgMove g.toNat e.toNat = some (u.setJob g.toNat e.toNat
      { j with wakeDue := false, state := if j.state = .failed then j.state else .done }) := by
    have hrec : j.wakeMsg g.toNat e.toNat
        (if j.state = .failed then j.status else BitVec.ofNat 64 (if j.type = 3 then 0 else j.prog)) = mkRec (j.wakeWords g.toNat e.toNat) := rfl
    rw [State.wakeMsgMove, hj]
    simp only [hdue, hgo, hlive, Bool.not_true, Bool.false_eq_true, if_false, beq_iff_eq, hrec, haccept, Option.map_some, if_true]
  refine ⟨_, by rw [hexec, execWakeMessageDelivery, event_next, hmsg], ?_, ?_, jobIs_setJob _ _ _ ⟨?_, rfl⟩⟩
  · rw [State.core_setJob, hring]
  · rw [State.core_setJob, hwords]
  · by_cases hfailed : j.state = .failed
    · simp [hfailed]
    · simp [hfailed]

end

end Sys2Proof.Machine
end

section
/-!
The moves of a collective (spec/12_matrix_copy_jobs.md R247, R248; spec/04_ordering.md R91).
-/
namespace Sys2Proof.Machine
open Sys2Proof.Claims

section
variable {s : State} {g : BitVec 8} {e : BitVec 5} {j : Job}

/-! ### COLLECTIVE_TIMEOUT (R248) -/

/-- The entries of a cluster after the collective of record `w` fails there (R248). -/
def Cluster.failParts (c : Cluster) (w : List Word) (fails : Job → Bool) (cause : Nat) : Cluster :=
  { c with jobs := c.jobs.map fun j => match j with
    | some x => if x.partOf w && !x.drained && fails x then
        some { x with state := .failed, cause := cause, wakeDue := Coll.wake x.card } else some x
    | none => none }

/-- A job that has failed is no part of a collective (R248). -/
theorem Job.partOf_failed (h : j.state = .failed) (w : List Word) : j.partOf w = false := by simp [Job.partOf, h]

/-- A failure of a collective leaves an entry whose job is no part of it. -/
theorem Cluster.job_failParts {c : Cluster} {k : Nat} (h : c.job k = some j) {w : List Word} (hpart : j.partOf w = false)
    (fails : Job → Bool) (cause : Nat) : (c.failParts w fails cause).job k = some j := by
  have hk : k < 32 := by
    by_contra hge
    simp [Cluster.job, Vector.getD, hge] at h
  have hentry : c.jobs[k] = some j := by simpa [Cluster.job, Vector.getD, hk] using h
  simp [Cluster.job, Cluster.failParts, Vector.getD, hk, hentry, hpart]

/-- A failure of a collective at its participants leaves a job that is no part of it (R248). -/
theorem State.job_failPeers {k h : Nat} (hj : (s.cluster h).job k = some j) {w : List Word} (hpart : j.partOf w = false)
    (o cause : Nat) : ((s.failPeers o w cause).cluster h).job k = some j := by
  have hmap := Store.get_map (fun h (c : Cluster) => if (s.members o w).contains (0, h) then
    c.failParts w (fun x => s.groupTable x.owner == s.groupTable o) cause else c) Cluster.reset h s.clusters
  have hcluster : (s.failPeers o w cause).cluster h = Store.get Cluster.reset h (s.clusters.map fun x => (x.1,
      if (s.members o w).contains (0, x.1) then
        x.2.failParts w (fun x => s.groupTable x.owner == s.groupTable o) cause else x.2)) := by
    refine congrArg (fun l => Store.get Cluster.reset h l) (List.map_congr_left fun x _ => ?_)
    dsimp only
    split <;> rfl
  rw [hcluster]
  rcases hmap with hsame | hfailed
  · rw [hsame]
    exact hj
  · rw [hfailed]
    split
    · exact Cluster.job_failParts hj hpart _ _
    · exact hj

/-- A participant that is not heard from in time fails the collective (R248). -/
theorem collective_timesOut (hj : (s.cluster g.toNat).job e.toNat = some j) (htype : j.type = 3) (hrun : j.state = .running)
    (hmoved : j.moved = false) (hheard : s.heard j.owner j.card = false)
    (hlate : j.started + Config.groupTimeout (s.groupTable j.owner) (Coll.group j.card) ≤ (s.island 44).cycles.toNat) :
    ∃ t, exec (.collectiveTimeout g e) s = .next t ∧
      jobIs t g.toNat e.toNat fun x => x.state = .failed ∧ x.cause = 0x08 ∧ x.wakeDue = j.wakes := by
  have hexec : exec (.collectiveTimeout g e) s = execCollectiveTimeout g e s := rfl
  have hmove : s.collTimeout g.toNat e.toNat = some (s.failJob g.toNat e.toNat j 0x08) := by
    rw [State.collTimeout, hj]
    simp [htype, hrun, hmoved, hheard, hlate]
  refine ⟨_, by rw [hexec, execCollectiveTimeout, event_next, hmove], ?_⟩
  rw [State.failJob, if_pos htype]
  exact ⟨_, State.job_failPeers (State.job_setJob _ _ e.isLt _) (Job.partOf_failed rfl _) _ _, rfl, rfl, rfl⟩

/-! ### COLLECTIVE_COMPLETE (R248) -/

/-- Entries changed are no bytes and no cores. -/
theorem State.foldl_setJob {α : Type} (a b : α → Nat) (f : α → Job) (l : List α) :
    (l.foldl (fun s x => s.setJob (a x) (b x) (f x)) s).memB = s.memB ∧
      (l.foldl (fun s x => s.setJob (a x) (b x) (f x)) s).cores = s.cores :=
  List.foldlRecOn (motive := fun u : State => u.memB = s.memB ∧ u.cores = s.cores) l _ ⟨rfl, rfl⟩ fun _ hu _ _ => hu

/-- A collective whose destination is written, and whose source no participant still needs, completes (R248). -/
theorem collective_completes (hj : (s.cluster g.toNat).job e.toNat = some j) (htype : j.type = 3) (hrun : j.state = .running)
    (hmoved : j.moved = true) (hdue : j.wakeDue = false) (hdrained : j.drained = true) :
    ∃ t, exec (.collectiveComplete g e) s = .next t ∧ t.memB = s.memB ∧ t.cores = s.cores ∧
      jobIs t g.toNat e.toNat fun x => if j.wakes then x.state = .running ∧ x.wakeDue = true else x.state = .done := by
  have hexec : exec (.collectiveComplete g e) s = execCollectiveComplete g e s := rfl
  obtain ⟨hmemB, hcores⟩ := State.foldl_setJob (s := s) (fun x : Nat × Nat × Nat × Job => x.2.1) (fun x => x.2.2.1)
    (fun x => { x.2.2.2 with drained := true }) (s.locals j.owner j.card)
  have hmove : s.collComplete g.toNat e.toNat = some (State.finishJob
      ((s.locals j.owner j.card).foldl (fun s x => s.setJob x.2.1 x.2.2.1 { x.2.2.2 with drained := true }) s)
      g.toNat e.toNat { j with drained := true }) := by
    rw [State.collComplete, hj]
    simp [htype, hrun, hmoved, hdue, hdrained]
  refine ⟨_, by rw [hexec, execCollectiveComplete, event_next, hmove], ?_⟩
  have hwakes : Job.wakes { j with drained := true } = j.wakes := rfl
  rw [State.finishJob, hwakes]
  split
  · exact ⟨hmemB, hcores, jobIs_setJob _ _ _ ⟨hrun, rfl⟩⟩
  · exact ⟨hmemB, hcores, jobIs_setJob _ _ _ rfl⟩

/-! ### COLLECTIVE_MOVE (R247) -/

/-- Bytes of the destination that the next write of a collective writes (R91, R247). -/
def State.collLen (s : State) (j : Job) : Nat :=
  min (128 - (Coll.dst j.card + j.prog) % 128) (Coll.bytes j.card (s.members j.owner j.card).length - j.prog)

/-- The rank of cluster `g` in a collective. -/
def State.collRank (s : State) (j : Job) (g : Nat) : Nat := (s.members j.owner j.card).idxOf (0, g)

/-- The elements of the destination that the next write of a collective writes. -/
def State.collNow (s : State) (j : Job) : List Nat :=
  (List.range (s.collLen j / Coll.z j.card)).map fun i => j.prog / Coll.z j.card + i

/-- A collective that moves its data: all its participants are heard from, and agree (R248). -/
structure Collects (s : State) (g : BitVec 8) (e : BitVec 5) (j : Job) : Prop where
  job : (s.cluster g.toNat).job e.toNat = some j
  type : j.type = 3
  run : j.state = .running
  moved : j.moved = false
  heard : s.heard j.owner j.card = true
  agreed : s.agreed j.owner j.card = true

/-- COLLECTIVE_MOVE where a sector of a source is still to be read. -/
theorem Collects.move_read (h : Collects s g e j) {q k l va : Nat} {i : Job}
    (hnext : s.collNext j (s.collRank j g.toNat) (s.collNow j) = some (q, k, l, i, va)) {u : State} {m : Pages}
    (hread : s.sectorOf k i va [] = .ok u m) :
    exec (.collectiveMove g e) s = .next (u.setJob g.toNat e.toNat
      { j with held := Store.put (heldKey q va) ((List.range 128).map fun b => u.engByte i m (va - va % 128 + b)) j.held }) := by
  obtain ⟨hj, htype, hrun, hmoved, hheard, hagreed⟩ := h
  have hexec : exec (.collectiveMove g e) s = execCollectiveMove g e s := rfl
  have hmay : (j.type != 3 || j.state != .running || j.moved || !s.heard j.owner j.card) = false := by
    simp [htype, hrun, hmoved, hheard]
  rw [hexec, execCollectiveMove, event_next, State.collMove, hj]
  simp only [hmay, hagreed, Bool.not_true, Bool.false_eq_true, if_false]
  simp only [State.collNow, State.collLen, State.collRank] at hnext
  simp only [hnext, hread]

/-- The elements that the next write of a collective writes. -/
def State.collElements (s : State) (j : Job) (r : Nat) : List (Nat × Nat) :=
  (s.collNow j).map fun y => (Coll.dst j.card + y * Coll.z j.card, s.collElement j r y)

/-- The job after a write of its destination (R247). -/
def State.collWritten (s : State) (j : Job) : Job :=
  { j with prog := j.prog + s.collLen j, held := []
           moved := decide (Coll.bytes j.card (s.members j.owner j.card).length ≤ j.prog + s.collLen j) }

/-- COLLECTIVE_MOVE where the engine holds every sector of the sources that the next of the destination needs. -/
theorem Collects.move_write (h : Collects s g e j)
    (hnext : s.collNext j (s.collRank j g.toNat) (s.collNow j) = none) {m : Pages}
    (hpages : s.engPages (j.walker g.toNat) j.owner j.sup true [Coll.dst j.card + j.prog] [] = .ok s m)
    (htier : Leaf.tier (m.leaf (Coll.dst j.card + j.prog)) ≠ 1) :
    exec (.collectiveMove g e) s = .next ((s.copyWrite g.toNat j m (Coll.z j.card)
      (s.collElements j (s.collRank j g.toNat))).setJob g.toNat e.toNat (s.collWritten j)) := by
  obtain ⟨hj, htype, hrun, hmoved, hheard, hagreed⟩ := h
  have hexec : exec (.collectiveMove g e) s = execCollectiveMove g e s := rfl
  have hmay : (j.type != 3 || j.state != .running || j.moved || !s.heard j.owner j.card) = false := by
    simp [htype, hrun, hmoved, hheard]
  rw [hexec, execCollectiveMove, event_next, State.collMove, hj]
  simp only [hmay, hagreed, Bool.not_true, Bool.false_eq_true, if_false]
  simp only [State.collNow, State.collLen, State.collRank] at hnext
  simp only [hnext, hpages, if_neg htier]
  rfl

/-- The job with no page translated, as a collective's moves take it (R316). -/
def Job.fresh (j : Job) : Job := { j with pages := [] }

/-- A collective reads a sector of a source (R91, R247). -/
theorem collective_reads (h : Collects s g e j) {q k l va pa : Nat} {i : Job}
    (hnext : s.collNext j (s.collRank j g.toNat) (s.collNow j) = some (q, k, l, i, va)) (hlat : s.latent = [])
    (hplace : enginePlace s k i.fresh .b false va pa) :
    ∃ t l, exec (.collectiveMove g e) s = .next t ∧ l.length = 128 ∧
      (∀ b, b < 128 → l.getD b 0 = s.bByte (s.keyFor i.owner i.sup) (pa - pa % 128 + b)) ∧
      jobIs t g.toNat e.toNat (fun x => x = { j with held := Store.put (heldKey q va) l j.held }) ∧
      t.memB = s.memB ∧ t.memC = s.memC := by
  obtain ⟨u, m, leaf, hread, hm, hl, heng, hmemB, hbytes⟩ := State.sectorOf_held hlat hplace
  refine ⟨_, _, h.move_read hnext hread, by simp, fun b hb => ?_, jobIs_setJob _ _ _ rfl, hmemB, heng.memC rfl⟩
  have hpage : (va - va % 128 + b) / 4096 = va / 4096 := by omega
  have hbyte : u.engByte i m (va - va % 128 + b) = s.bByte (s.keyFor i.owner i.sup) (pa - pa % 128 + b) := by
    change u.engByte i.fresh m (va - va % 128 + b) = _
    rw [State.engByte, hm.leaf_eq hpage, hl.image, heng.keyFor, hm.pa_sector hb]
    exact hbytes _
  simpa [List.getD, hb] using hbyte

/-- The elements of a collective's next write are those of one sector of its destination. -/
structure CollPlaced (s : State) (j : Job) : Prop where
  size : elementSize (Coll.z j.card)
  prog : j.prog % Coll.z j.card = 0
  dst : Coll.dst j.card % Coll.z j.card = 0
  left : j.prog < Coll.bytes j.card (s.members j.owner j.card).length

/-- The size of an element of a collective (R247). -/
theorem Coll.elementSize_z (w : List Word) : elementSize (Coll.z w) := by
  unfold Coll.z elementSize
  split <;> decide

/-- A collective writes whole elements, one at least, within a sector. -/
theorem CollPlaced.len (h : CollPlaced s j) : s.collLen j % Coll.z j.card = 0 ∧ Coll.z j.card ≤ s.collLen j ∧
    (Coll.dst j.card + j.prog) % 128 + s.collLen j ≤ 128 := by
  obtain ⟨hsize, hprog, hdst, hleft⟩ := h
  have hbytes : Coll.bytes j.card (s.members j.owner j.card).length % Coll.z j.card = 0 := Nat.mul_mod_left _ _
  unfold State.collLen
  generalize Coll.bytes j.card (s.members j.owner j.card).length = n at hbytes hleft ⊢
  generalize Coll.dst j.card = d at hdst ⊢
  rcases hsize with hz | hz | hz | hz <;> rw [hz] at hprog hdst hbytes ⊢ <;> omega

/-- Where element `i` of the write lies. -/
theorem CollPlaced.addr (h : CollPlaced s j) (i : Nat) :
    Coll.dst j.card + (j.prog / Coll.z j.card + i) * Coll.z j.card = Coll.dst j.card + j.prog + Coll.z j.card * i := by
  have := Nat.div_add_mod j.prog (Coll.z j.card)
  rw [h.prog, Nat.add_zero] at this
  rw [Nat.add_mul, Nat.mul_comm (j.prog / _), this, Nat.mul_comm i, Nat.add_assoc]

/-- A whole element of a write lies within it. -/
theorem mul_add_le_of_lt_div {z i n : Nat} (hi : i < n / z) : z * i + z ≤ n := by
  have := Nat.mul_le_mul_left z (Nat.succ_le_of_lt hi)
  rw [Nat.mul_succ] at this
  exact this.trans (Nat.mul_div_le _ _)

theorem CollPlaced.sectorList (h : CollPlaced s j) (r : Nat) :
    SectorList (Coll.z j.card) (Coll.dst j.card + j.prog) (s.collElements j r) := by
  have hlen := h.len
  have hpos := elementSize_pos h.size
  have hmem : ∀ p ∈ s.collElements j r, ∃ i, i < s.collLen j / Coll.z j.card ∧
      p.1 = Coll.dst j.card + j.prog + Coll.z j.card * i := by
    intro p hp
    obtain ⟨y, hy, rfl⟩ := List.mem_map.mp hp
    obtain ⟨i, hi, rfl⟩ := List.mem_map.mp hy
    exact ⟨i, List.mem_range.mp hi, h.addr i⟩
  refine ⟨h.size, fun p hp => ?_, fun p hp => ?_, ?_⟩
  · obtain ⟨i, hi, hp⟩ := hmem p hp
    have := mul_add_le_of_lt_div hi
    omega
  · obtain ⟨i, hi, hp⟩ := hmem p hp
    rw [hp, Nat.add_mul_mod_self_left, Nat.add_mod, h.dst, h.prog]
    rfl
  · have haddrs : (s.collElements j r).map Prod.fst =
        (List.range (s.collLen j / Coll.z j.card)).map fun i => Coll.dst j.card + j.prog + Coll.z j.card * i := by
      rw [State.collElements, State.collNow, List.map_map, List.map_map]
      exact List.map_congr_left fun i _ => h.addr i
    rw [haddrs]
    refine List.Nodup.map (fun a b hab => ?_) List.nodup_range
    exact Nat.eq_of_mul_eq_mul_left hpos (Nat.add_left_cancel hab)

/-- A collective writes a sector of its destination (R91, R247). -/
theorem collective_writes (h : Collects s g e j) (hnext : s.collNext j (s.collRank j g.toNat) (s.collNow j) = none)
    (hlat : s.latent = []) (hmark : unmarked s j.owner) (hcoll : CollPlaced s j) {pa : Nat}
    (hplate : plateAt (Coll.dst j.card + j.prog) = none)
    (hplace : enginePlace s g.toNat j.fresh .b true (Coll.dst j.card + j.prog) pa) :
    ∃ t, exec (.collectiveMove g e) s = .next t ∧
      (∀ i, i < s.collLen j / Coll.z j.card →
        littleEndian (t.bByte (s.keyFor j.owner j.sup)) (pa + Coll.z j.card * i) (Coll.z j.card) =
          s.collElement j (s.collRank j g.toNat) (j.prog / Coll.z j.card + i) % 2 ^ (8 * Coll.z j.card)) ∧
      (∀ y, (y < pa ∨ pa + s.collLen j ≤ y) → t.bByte (s.keyFor j.owner j.sup) y = s.bByte (s.keyFor j.owner j.sup) y) ∧
      jobIs t g.toNat e.toNat fun x => x.prog = j.prog + s.collLen j ∧ x.held = [] ∧
        x.moved = decide (Coll.bytes j.card (s.members j.owner j.card).length ≤ j.prog + s.collLen j) := by
  obtain ⟨m, leaf, hpages, hm, hl⟩ := State.engPages_one hplace
  have hleaf : JobLeaf j .b leaf := ⟨hl.image, hl.tier⟩
  have htier : Leaf.tier (m.leaf (Coll.dst j.card + j.prog)) ≠ 1 := by
    rw [hm.leaf_eq rfl]
    exact hl.tier (.inl h.type)
  have hlen := hcoll.len
  have hfirst : 0 < s.collLen j / Coll.z j.card := Nat.div_pos hlen.2.1 (elementSize_pos hcoll.size)
  have hhead : (s.collElements j (s.collRank j g.toNat)).head?.map Prod.fst = some (Coll.dst j.card + j.prog) := by
    obtain ⟨n, hn⟩ := Nat.exists_eq_succ_of_ne_zero (Nat.ne_of_gt hfirst)
    have haddr := hcoll.addr 0
    rw [State.collElements, State.collNow, hn, List.range_succ_eq_map]
    simpa using haddr
  have hwritten := State.copyWrite_spec hm hleaf (hcoll.sectorList (s.collRank j g.toNat))
    (⟨hlat, hmark, fun e => nomatch e⟩ : WritesLine s g.toNat j .b (pa / 128)) hhead hplate
  have hpa : ∀ i, i < s.collLen j / Coll.z j.card →
      m.pa (Coll.dst j.card + j.prog + Coll.z j.card * i) = pa + Coll.z j.card * i := by
    intro i hi
    have hin := mul_add_le_of_lt_div hi
    have hpos := elementSize_pos hcoll.size
    have := hm.pa_add (v := Coll.dst j.card + j.prog + Coll.z j.card * i) (by omega)
    rw [hm.pa_self] at this
    omega
  refine ⟨_, h.move_write hnext hpages htier, fun i hi => ?_, fun y hy => ?_, jobIs_setJob _ _ _ ⟨rfl, rfl, rfl⟩⟩
  · refine littleEndian_element hcoll.size fun k hk => ?_
    have hmem : (Coll.dst j.card + (j.prog / Coll.z j.card + i) * Coll.z j.card,
        s.collElement j (s.collRank j g.toNat) (j.prog / Coll.z j.card + i)) ∈ s.collElements j (s.collRank j g.toNat) :=
      List.mem_map_of_mem (List.mem_map_of_mem (List.mem_range.mpr hi))
    have hbyte := hwritten.bytes _ hmem k hk
    rw [hcoll.addr, hpa i hi] at hbyte
    exact hbyte
  · refine hwritten.others y fun p hp => ?_
    obtain ⟨x, hx, rfl⟩ := List.mem_map.mp hp
    obtain ⟨i, hi, rfl⟩ := List.mem_map.mp hx
    have hin := mul_add_le_of_lt_div (List.mem_range.mp hi)
    rw [hcoll.addr, hpa i (List.mem_range.mp hi)]
    omega

end

end Sys2Proof.Machine
end

section
/-!
O51: jobs start, move data sector by sector, suspend, complete and wake.
-/
namespace Sys2Proof.Machine
open Sys2Proof.Claims

/-- The handler and user words of a job's wake message by the type of the job (R233). -/
theorem Job.wakeWords_eq (j : Job) (g e : Nat) : j.wakeWords g e =
    [(match j.type with | 1 => MCard.whand j.card | 2 => CCard.whand j.card | _ => Coll.whand j.card), j.work, j.id g e,
      (if j.state = .failed then j.status else BitVec.ofNat 64 (if j.type = 3 then 0 else j.prog)),
      (match j.type with | 1 => MCard.user j.card | 2 => CCard.user j.card | _ => Coll.user j.card), 0, 0, 0] := by
  unfold Job.wakeWords
  by_cases h1 : j.type = 1
  · simp [h1]
  · by_cases h2 : j.type = 2
    · simp [h2]
    · simp [h1, h2]

/-- Settles O51: each event makes the job's one next move, and an engine's sector reads as image and key give it and is written
back under them. -/
theorem jobsRun : Obligations.JobsRun := by
  unfold Obligations.JobsRun
  intro g e j s hj
  refine ⟨fun hqueued hruns howner honly => jobStart_starts hj hqueued hruns howner honly, ?_, ?_,
    fun hrun htype hdue hruns hpart => jobSuspend_suspends hj hrun htype hdue hruns hpart, ?_,
    fun hdue hc hrun => wakeMessage_cancelled hj hdue hc hrun, ?_, ?_,
    fun htype hrun hmoved hdue hdrained => collective_completes hj htype hrun hmoved hdue hdrained⟩
  · rintro ⟨hrun, hworks⟩ htype hprog hch
    exact ⟨fun va pa img hnext hlat hplace => matrixRow_reads hj hrun hworks htype hprog hch hnext hlat hplace,
      fun p hnext hacc => matrixRow_readsAcc hj hrun hworks htype hprog hch hnext hacc,
      fun hnext hacc => matrixRow_commits hj hrun hworks htype hprog hch hnext hacc⟩
  · rintro ⟨hrun, hworks⟩ htype hprog hz hch run z move reads hlive
    refine ⟨fun va pa img hnext hplate hlat hplace => copyMove_reads hj hrun hworks htype hprog hch hlive hnext hplate hlat hplace,
      fun va k off hnext hplate => copyMove_readsPlate hj hrun hworks htype hprog hch hlive hnext hplate,
      fun dst img hnext hlat hmark hplaced hapart => ?_⟩
    obtain ⟨t, hexec, hvalues, hrest⟩ :=
      copyMove_writes hj hrun hworks htype hprog hch hlive hnext hlat hmark ⟨hz, hplaced, hapart⟩
    exact ⟨t, hexec, fun i hi => (hvalues i hi).trans (j.runValue_mod i), hrest⟩
  · intro hrun htype hdue hruns hgoal
    refine ⟨fun hc => ?_, fun hc hleft => ?_, fun hc hleft hlive hfit htiles => ?_⟩
    · exact exec_jobComplete hj hrun htype hdue hruns hgoal (State.completion_cancel hc _ _)
    · exact exec_jobComplete hj hrun htype hdue hruns hgoal (State.completion_finish hc hleft _ _)
    · exact jobComplete_drains hj hrun htype hdue hruns hgoal hc hleft hlive hfit htiles
  · intro hdue hgoes m r hlive hroom hidle
    obtain ⟨t, hexec, hring, hwords, hjob⟩ := wakeMessage_delivered hj hdue hgoes hlive hroom hidle
    exact ⟨t, hexec, hring, hwords.trans (j.wakeWords_eq _ _), hjob⟩
  · intro htype hrun hmoved
    refine ⟨fun hheard hlate => collective_timesOut hj htype hrun hmoved hheard hlate, fun hheard hagreed hlat hleft => ?_⟩
    have hcollects : Collects s g e j := ⟨hj, htype, hrun, hmoved, hheard, hagreed⟩
    refine ⟨fun q h k i va pa hnext hplace => collective_reads hcollects hnext hlat hplace,
      fun pa hnext hmark hprog hdst hplate hplace => ?_⟩
    exact collective_writes hcollects hnext hlat hmark ⟨Coll.elementSize_z _, hprog, hdst, hleft⟩ hplate hplace

end Sys2Proof.Machine
end
